-- ==== Sys2Proof/Word.lean ====
section
/-! DEFINITION. The word types of the module and their plainest arithmetic (00_scope.md R11: bits are numbered
from 0 at the least significant end, multi-byte values are little-endian). -/

namespace Sys2Proof

abbrev Byte := BitVec 8
abbrev Half := BitVec 16
abbrev Word := BitVec 32
abbrev DWord := BitVec 64
/-- A module address (12_memory_system.md R378: a 48-bit space). -/
abbrev Addr := BitVec 48
/-- A logical site ID or a physical site number (01 R18, R19). -/
abbrev SiteNo := BitVec 6
/-- A presented core of a site (01 R28). -/
abbrev CoreNo := BitVec 5

/-- A finite map kept as pairs of key and value, keys strictly rising, no entry equal to what an unlisted key
reads as. -/
abbrev Sparse (α : Type) := List (Nat × α)

end Sys2Proof
end

