-- ==== Sys2Proof/Syntax.lean ====
section
/-! DEFINITION. The commands of the block: one constructor of `Instr` per row of spec/opcode_table.json, with the
operands the spec's text gives that step. Engine-command rows (ME_*, VE_*, SE_*, SP_*) name a core: the command word
itself waits in that core's queue (08 R239), where BUNDLE put it. Rows that a fault or a pin makes carry what the
hardware met as an operand; `recOk` tells whether boot flash took the record that the row writes (13 R388). -/

namespace Sys2Proof

/-- What the SECDED of a memory reports for one access (07 R190, 08 R230, R250, 12 R363). -/
inductive Ecc where
  | clean
  | corrected
  | uncorrectable
deriving DecidableEq, Repr

/-- One error that the SECDED of a memory reports while a command reads it (03 R93, 04 R137, 07 R190, 08 R230, R250,
12 R369): the memory, its 64-bit word, and whether it is uncorrectable. `bed` words are of the bed of a physical site,
`spOf` words of the scratchpad of another core, by logical site; `vtab` is the VE's table memory, `vrow` its row buffer. -/
inductive EccAt where
  | sp | acc | dmem | imemA | imemB | vtab | vrow
  | bed (phys : SiteNo)
  | spOf (site : SiteNo) (core : CoreNo)
deriving DecidableEq, Repr

structure EccHit where
  at_ : EccAt
  word : Nat
  ue : Bool
deriving DecidableEq, Repr

/-- Who makes an access (01 R19, 14 R438). `engine` is another core's SE or CC window traffic. -/
inductive Requester where
  | host
  | orrery (oc : BitVec 5)
  | security
  | engine (site : SiteNo) (core : CoreNo)
  | ethernet
  | debug
  | fabric
deriving DecidableEq, Repr

/-- One access: a read of `n` bytes or a write of bytes, lowest address first. -/
inductive Access where
  | read (n : Nat)
  | write (bytes : List Byte)
deriving DecidableEq, Repr

/-- The 16-byte vote word of 09 R282. -/
structure VoteWord where
  step : Word
  epoch : Word
  finite : Bool
  complete : Bool
  healthy : Bool
  mirrorOk : Bool
  seenCommit : Bool
  earlyAbort : Bool
  rank : Half
deriving DecidableEq, Repr

/-- The decision body of 11 R342 (kind 3, subkind 1): `bits` is the combined byte [8] of the vote words. -/
structure DecisionMsg where
  step : Word
  epoch : Word
  commit : Bool
  bits : Byte
deriving DecidableEq, Repr

/-- The member notice of 10 R309. -/
structure MemberNotice where
  step : Word
  epoch : Word
  tag : BitVec 12
  rank : Half
  shadow : Bool
  nonfinite : Bool
  poison : Bool
  eMax : Int
deriving DecidableEq, Repr

/-- The close notice of 10 R313: header and items. A fold item is (rank, origin step offset). -/
structure CloseNotice where
  step : Word
  epoch : Word
  tag : BitVec 12
  kc : Int
  lenient : Bool
  backup : Bool
  nonfinite : Bool
  poison : Bool
  excl : List Nat
  backups : List Nat
  folds : List (Nat × Nat)
  closeTick : DWord
deriving DecidableEq, Repr

/-- Segment data of 10 R309 (kind 2 subkind 0) or write-back data of R315 (subkind 3): `rank` is the sender's rank,
`shadow` tells a shadow's copy from a primary's, `data` the G16 elements of the segment in order. -/
structure SegmentMsg where
  tag : BitVec 12
  step : Word
  epoch : Word
  seg : Nat
  rank : Half
  shadow : Bool
  data : List Half
deriving DecidableEq, Repr

/-- A time message of 11 R342 (kind 4, subkind 0). -/
structure TimeMsg where
  lodestar : BitVec 13
  hops : Half
  generation : Word
  count : DWord
  ptpOffset : DWord
  ptpRate : Word
deriving DecidableEq, Repr

/-- A write packet of 11 R341 (kinds 0 and 1): source address, class, window, offset, data, and whether it ends its request. -/
structure WritePacket where
  src : BitVec 13
  cls : BitVec 2
  win : BitVec 4
  off : BitVec 48
  data : List Byte
  last : Bool
deriving DecidableEq, Repr

/-- A hardware error that no row of the table brings about by itself, corrected or not (`ue`): of a site's router
(15 R467), of an XD's logic (15 R468), of the host cluster's L2 (13 R422), of orrery SRAM and, where it lies in a core's
code or working memory, that core (13 R397). DESIGN CHOICE, assumption 72. -/
inductive HwEvent where
  | rtr (site : SiteNo) (ue : Bool)
  | xdl (xd : BitVec 2) (ue : Bool)
  | l2 (ue : Bool)
  | sram (ue : Bool) (oc : Option (BitVec 5))
deriving DecidableEq, Repr

/-- What a link-up, or a key replacement, has come to (11 R329, R356): the peer's address and cascade; whether the lanes are
trained, the peer asks for encryption and the exchange with it is over (`attested`); the chain's verdict, key and report
of the peer with the nonce this module sent it; the nonce the peer sent, and the encapsulation key or ciphertext. -/
structure LinkUpInfo where
  peer : BitVec 13
  cascade : Half
  trained : Bool
  peerEncReq : Bool
  attested : Bool
  chainOk : Bool
  peerKey : List Byte
  report : List Byte
  sent : List Byte
  nonce : List Byte
  kem : List Byte
deriving DecidableEq, Repr

/-- The core that runs a command and the errors that the reads of the command meet. -/
structure CoreReads where
  core : CoreNo
  ecc : List EccHit
deriving DecidableEq, Repr

/-- How the transfer of a command starts: whether the mesh has a credit for it (07 R201), and the errors its reads meet. -/
structure XferReads where
  credit : Bool
  ecc : List EccHit
deriving DecidableEq, Repr

/-- A bucket: its tag and its step. -/
structure TagStep where
  tag : BitVec 12
  step : Word
deriving DecidableEq, Repr

/-- The sender of a heartbeat: its address and its rank (10 R318). -/
structure RankAt where
  src : BitVec 13
  rank : Half
deriving DecidableEq, Repr

/-- Whose heartbeats are missing: a watched rank, or the rank 0 alone in its membership at an address (10 R318). -/
structure WatchedRank where
  rank : Half
  alone : Option (BitVec 13)
deriving DecidableEq, Repr

/-- A failed lane and the sequence number at which both ends leave it (11 R332). -/
structure LaneAt where
  lane : BitVec 4
  seq : Half
deriving DecidableEq, Repr

/-- The verdict on a spare lane and the sequence number at which both ends take it (11 R332). -/
structure LaneVerdict where
  good : Bool
  seq : Half
deriving DecidableEq, Repr

/-- An epoch and the address that names it (11 R350). -/
structure EpochFrom where
  src : BitVec 13
  epoch : Word
deriving DecidableEq, Repr

/-- A bed word to repair, and whether the parity of its stripe can be read (12 R369). -/
structure RepairWord where
  off : BitVec 30
  parityOk : Bool
deriving DecidableEq, Repr

/-- A GDDR7 device, by its channel, and the row of the access that met the error (12 R375). -/
structure ChanRow where
  ch : BitVec 4
  row : BitVec 24
deriving DecidableEq, Repr

/-- A retraining slot: whether the temperature has moved, and whether the channel is idle (12 R376). -/
structure RetrainSlot where
  moved : Bool
  idle : Bool
deriving DecidableEq, Repr

/-- One command of the block. -/
inductive Instr where
  | bundle (l : SiteNo) (c : CoreNo) (imem dmem : Ecc)
  | ccStart (l : SiteNo) (c : CoreNo) (pc : Half) (bank : Bool) (go : Bool)
  | ccCtlPause (l : SiteNo) (c : CoreNo) (pause : Bool)
  | ccDbgResume (l : SiteNo) (c : CoreNo)
  | ccImemVerWrite (l : SiteNo) (c : CoreNo) (verA verB : Half)
  | ccXregAccess (l : SiteNo) (c : CoreNo) (x : BitVec 5) (wr : Option Word)
  | coreWindowAccess (req : Requester) (site : SiteNo) (core : CoreNo) (off : BitVec 23) (acc : Access) (ecc : List EccHit)
  | meFeed (l : SiteNo) (c : CoreNo)
  | meMma (l : SiteNo) (c : CoreNo) (ecc : List EccHit)
  | meMmaTileComplete (l : SiteNo) (c : CoreNo) (upset : List (BitVec 14 × Word)) (chk : List (BitVec 7 × Word × Word))
  | meMask (l : SiteNo) (c : CoreReads)
  | meSt (l : SiteNo) (c : CoreNo) (ecc : List EccHit)
  | meStComplete (l : SiteNo) (c : CoreNo)
  | meLdacc (l : SiteNo) (c : CoreReads)
  | meZero (l : SiteNo) (c : CoreNo)
  | mePin (l : SiteNo) (c : CoreNo)
  | meSeal (l : SiteNo) (c : CoreNo)
  | meSelftest (l : SiteNo) (c : CoreNo)
  | meSelftestDone (l : SiteNo) (c : CoreNo) (fails : BitVec 130)
  | meCtlBcastWrite (l : SiteNo) (c : CoreNo) (bcast : Bool)
  | bcastModeSwitch (l : SiteNo) (c : CoreNo)
  | activityLevelBoundary (l : SiteNo) (c : CoreNo) (ve : Bool)
  | veChain (l : SiteNo) (c : CoreNo) (ecc : List EccHit)
  | veChainComplete (l : SiteNo) (c : CoreNo)
  | veTload (l : SiteNo) (c : CoreReads)
  | veTloadDone (l : SiteNo) (c : CoreNo)
  | veTswap (l : SiteNo) (c : CoreNo)
  | tswapTakesEffect (l : SiteNo) (c : CoreNo) (table : BitVec 3)
  | seTdesc (l : SiteNo) (c : CoreReads)
  | seStart (l : SiteNo) (c : CoreReads)
  | seCopy (l : SiteNo) (c : CoreNo) (ecc : XferReads)
  | seHqcfg (l : SiteNo) (c : CoreReads)
  | seMcast (l : SiteNo) (c : CoreNo)
  | seFence (l : SiteNo) (c : CoreNo)
  | fenceComplete (l : SiteNo) (c : CoreNo)
  | spNop (l : SiteNo) (c : CoreNo) (x : BitVec 3)
  | spLoop (l : SiteNo) (c : CoreNo) (x : BitVec 3)
  | spEndl (l : SiteNo) (c : CoreNo) (x : BitVec 3)
  | spXfer (l : SiteNo) (c : CoreNo) (x : BitVec 3) (ecc : XferReads)
  | spAcq (l : SiteNo) (c : CoreNo) (x : BitVec 3)
  | spPush (l : SiteNo) (c : CoreNo) (x : BitVec 3)
  | spPop (l : SiteNo) (c : CoreNo) (x : BitVec 3)
  | spRel (l : SiteNo) (c : CoreNo) (x : BitVec 3)
  | spSetx (l : SiteNo) (c : CoreNo) (x : BitVec 3)
  | spWaitt (l : SiteNo) (c : CoreNo) (x : BitVec 3)
  | spEnd (l : SiteNo) (c : CoreNo) (x : BitVec 3)
  | transferComplete (l : SiteNo) (c : CoreNo) (x : BitVec 3)
  | releaseNotice (l : SiteNo) (c : CoreNo) (hq : BitVec 5)
  | remotePush (l : SiteNo) (c : CoreNo) (hq : BitVec 5)
  | hqStall (l : SiteNo) (c : CoreNo) (endpoint : Byte)
  | seCtlPause (l : SiteNo) (c : CoreNo) (pause : Bool)
  | pacedPeriodEnd (ctx : BitVec 4)
  | schedulingTick (oc : BitVec 5)
  | quantumExpiry (ctx : BitVec 4)
  | load (ctx : BitVec 4)
  | start (ctx : BitVec 4)
  | step (ctx : BitVec 4)
  | mark (ctx : BitVec 4)
  | entryFinished (ctx : BitVec 4)
  | ctxCreate
  | ctxDestroy
  | ctxHold
  | ctxResume
  | stashSet
  | fabCfg
  | mcastSet
  | ethRing
  | fwLoad
  | fwUpdate
  | detach
  | reattach
  | orrLoadBlk (value : DWord)
  | orrAdminBaseWrite (value : DWord)
  | attach
  | driverHeartbeatLoss
  | orrHealthConfirm (req : Requester)
  | confirmWindowExpiry
  | watchdogExpiry (oc : BitVec 5)
  | takeoverComplete (oc : BitVec 5)
  | forwardEndBeacon (ctx : BitVec 4)
  | bwdEnd (ctx : BitVec 4)
  | tallyResult (ctx : BitVec 4)
  | earlyAbort (l : SiteNo) (c : CoreNo)
  | voteWord (ctx : BitVec 4) (v : VoteWord)
  | decision (ctx : BitVec 4) (d : DecisionMsg)
  | voteTimeout (ctx : BitVec 4)
  | decisionRequest (ctx : BitVec 4) (step epoch : Word) (rank : Half)
  | updateFinished (ctx : BitVec 4)
  | commitAcknowledgement (ctx : BitVec 4) (step epoch : Word) (rank : Half)
  | done (ctx : BitVec 4) (step epoch : Word)
  | shardRestore (ctx : BitVec 4)
  | trHandoff (xd : BitVec 2) (payload : List Byte)
  | bucketStart (xd : BitVec 2)
  | segmentData (m : SegmentMsg)
  | memberNotice (m : MemberNotice)
  | bucketGraceExpiry (tag : TagStep)
  | closeNotice (m : CloseNotice)
  | writeBackData (m : SegmentMsg)
  | heartbeatSend
  | heartbeat (rank : RankAt) (epoch step : Word) (sent : DWord)
  | heartbeatLimitExpiry (rank : WatchedRank)
  | failureReport (addr : BitVec 13) (epoch : Word) (rank : Half) (cause : Byte)
  | linkUp (port : BitVec 4) (info : LinkUpInfo)
  | flitReceive (port : BitVec 4) (flit : List Byte)
  | resendRequest (port : BitVec 4) (seq : Half)
  | ackTimeout (port : BitVec 4)
  | laneFail (port : BitVec 4) (tx : Bool) (lane : LaneAt)
  | spareLaneCheckDone (port : BitVec 4) (tx : Bool) (good : LaneVerdict)
  | fabStall (port : BitVec 4) (cls : BitVec 2) (vc : Bool)
  | fabSend (req : Requester) (xd : BitVec 2) (request : List Byte)
  | sendComplete (xd : BitVec 2)
  | writePacket (port : BitVec 4) (p : WritePacket)
  | writeWithNotice (port : BitVec 4) (p : WritePacket)
  | refusal (port : BitVec 4) (src : BitVec 13) (win : Byte) (reason : Byte) (off tick : DWord)
  | electionSend
  | election (port : BitVec 4) (lowest : BitVec 13) (generation : Word)
  | timeMessageSend
  | timeMessage (port : BitVec 4) (m : TimeMsg)
  | delayRequest (port : BitVec 4) (t1 : DWord)
  | delayResponse (port : BitVec 4) (t1 t2 t3 : DWord)
  | timeLost
  | syncIn
  | syncLost
  | syncOut
  | ptpMessage (offset : DWord) (rate : Word)
  | epochProposal (epoch : EpochFrom) (digest : List Byte)
  | proposalAnswer (src : BitVec 13) (epoch : Word) (accept : Bool) (reason : Byte)
  | epochCommit (epoch : EpochFrom) (firstStep : Word)
  | heldNotice (src : BitVec 13) (held : Bool)
  | keyReplacement (port : BitVec 4) (info : LinkUpInfo)
  | patrolScrub (site : SiteNo) (off : BitVec 30) (ecc : Ecc)
  | rowRepair (site : SiteNo) (md : Bool) (bank : BitVec 6) (row : Nat) (recOk : Bool)
  | protectedWrite (site : SiteNo)
  | parityDelta (site : SiteNo)
  | sbCtlWrite (value : DWord)
  | initPassEnd
  | seedbankRepair (site : SiteNo) (off : RepairWord)
  | rebuildEnd
  | gddr7CrcRetry (xd : BitVec 2) (ch : ChanRow)
  | deviceRetrain (xd : BitVec 2) (ch : BitVec 4) (slot : RetrainSlot) (eyeGood : Bool)
  | unmappedAccess (addr : Addr) (acc : Access)
  | report (chan : Bool)
  | sealCfg (chan : Bool)
  | keyDeliver (chan : Bool)
  | importBlob (chan : Bool)
  | exportBlob (chan : Bool)
  | ownerSet (chan : Bool)
  | peerPolicy (chan : Bool)
  | extendM7 (chan : Bool)
  | svnCommit (chan : Bool)
  | linkAttest (chan : Bool)
  | codeMeasure (chan : Bool)
  | erase (chan : Bool)
  | entropyFail
  | keyUe (slot : BitVec 5)
  | urgentLatch (oc : BitVec 5) (ev : Option HwEvent)
  | halt (req : Requester) (mask : BitVec 16) (reason : Byte)
  | haltArrival (l : SiteNo) (c : CoreNo)
  | siteHeartbeatLoss (site : SiteNo)
  | coreLost (l : SiteNo) (c : CoreNo)
  | edgeFail (site : SiteNo) (edge : BitVec 2)
  | columnGraft (l : SiteNo) (c : CoreNo) (fails : BitVec 130) (recOk : Bool)
  | coreGraft (l : SiteNo) (c : CoreNo) (recOk : Bool)
  | siteGraft (site : SiteNo) (recOk : Bool)
  | spareSiteRetire (site : SiteNo) (recOk : Bool)
  | stepRestart (ctx : BitVec 4)
  | halfFail (xd : BitVec 2) (half : Bool)
  | hartGraft (hart : BitVec 5)
  | frameReceive (port : BitVec 2) (prio : Option (BitVec 3)) (frame : List Byte) (fcsError : Bool)
  | descriptorPoll (port : BitVec 2) (rx : Bool) (ring : BitVec 3)
  | vinSample (v : Half)
  | pruneLevelExit
  | overvoltage
  | orderlyOff
  | governorTick (watts : Half)
  | phaseRetire (domain : BitVec 7)
  | thermalSample (sensor : BitVec 7) (celsius : Byte)
  | throttleStep
  | refclkLoss
  | refclkReturn
  | holdoverExpiry
  | pllUnlock
  | serdesPll (port : BitVec 4)
  | rstN (lowTicks : Nat)
  | pwrgdFall
  | coldStart (badSites : List Nat) (badDevs : List (Nat × Nat)) (cols : List (Nat × BitVec 130)) (recOk : Bool)
  | sysRst (req : Requester) (value : DWord)
  | registerWrite (req : Requester) (addr : Addr) (value : DWord)
  | meLdaccComplete (l : SiteNo) (c : CoreNo)
  | spWaittTickReached (l : SiteNo) (c : CoreNo) (x : BitVec 3)
  | beaconQueueDrain (l : SiteNo) (c : CoreNo)
  | gddr7IdleSelfRefresh (xd : BitVec 2)
deriving DecidableEq, Repr

end Sys2Proof
end

