-- ==== Sys2Proof/Machine/Bits.lean ====
section
/-! DEFINITION. Bit fields (00 R11: bits are numbered from 0 at the least significant end). -/

namespace Sys2Proof.Machine

/-- Bits [lo + len − 1 : lo] of a number. -/
def fld (w lo len : Nat) : Nat := w / 2 ^ lo % 2 ^ len

/-- Bit `i` of a number. -/
def bitAt (w i : Nat) : Bool := w / 2 ^ i % 2 == 1

/-- A `len`-bit field read as two's complement. -/
def sfld (w lo len : Nat) : Int :=
  let v := fld w lo len
  if v < 2 ^ (len - 1) then (v : Int) else (v : Int) - (2 ^ len : Nat)

/-- A Boolean as a bit. -/
def bit (b : Bool) : Nat := if b then 1 else 0

/-- The sum of fields placed at bit positions: (value, lowest bit). -/
def pack : List (Nat × Nat) → Nat
  | [] => 0
  | (v, lo) :: r => v * 2 ^ lo + pack r

/-- A packed 64-bit register. -/
def reg64 (fs : List (Nat × Nat)) : DWord := BitVec.ofNat 64 (pack fs)

/-- An integer as `n` bits of two's complement. -/
def intBits (n : Nat) (v : Int) : Nat := (v % (2 ^ n : Nat)).toNat

/-- Set bit `i` of a bit vector. -/
def setBit {w : Nat} (v : BitVec w) (i : Nat) (b : Bool) : BitVec w :=
  if b then v ||| BitVec.ofNat w (2 ^ i) else v &&& ~~~(BitVec.ofNat w (2 ^ i))

/-- The vector of bits that a predicate gives, positions 0 to n − 1. -/
def bitsOf (n : Nat) (f : Nat → Bool) : Nat := pack ((List.range n).map (fun i => (bit (f i), i)))

/-- The signed difference of two 16-bit counts (08 R243). -/
def cmp16 (a b : Half) : Int := (a - b).toInt

/-- The positions of the ones among bits 0 to n − 1. -/
def onesOf (n w : Nat) : List Nat := (List.range n).filter (fun i => bitAt w i)

end Sys2Proof.Machine
end

