-- ==== Sys2Proof/Config.lean ====
section
/-! DEFINITION. What the spec leaves open and what it names by another standard: constants with no body. Nothing in
Lean can evaluate one or prove a value of it, so a claim that mentions one holds for every value. -/

namespace Sys2Proof

/-- The value number `n` that the spec leaves undefined (00_scope.md R15), `w` bits wide. A step that needs one
applies this to a counter of the state and advances the counter. DESIGN CHOICE, assumption 3. -/
opaque Config.freeWord : (w : Nat) → Nat → BitVec w

/-- What byte `a` holds in a memory whose contents are undefined since event `n` (R15). DESIGN CHOICE, assumption 3. -/
opaque Config.freeByte : Nat → Nat → Byte

/-- The stochastic-rounding key and step number of a core that runs no context (02 R56 gives them per context). DESIGN CHOICE, assumption 34. -/
opaque Config.noCtxKey : Nat → DWord
/-- DESIGN CHOICE, assumption 34. -/
opaque Config.noCtxStep : Nat → Word

/-- The result of EP.EXP2 on one silicon revision for an operand outside the exact points of R145
(05_special_functions.md R150: the result bits are not fixed by the manual). Arguments: silicon_rev, the FP32
operand. DESIGN CHOICE, assumption 12. -/
opaque Config.exp2Bits : Nat → Word → Word

/-- The result of EP.LOG2 on one silicon revision outside the exact points of R147 (R150). DESIGN CHOICE, assumption 12. -/
opaque Config.log2Bits : Nat → Word → Word

/-- Falcon-1024 verification: public key, message digest, signature (14_security.md). PRESUMED, assumption 11. -/
opaque Config.falconVerify : List Byte → List Byte → List Byte → Bool

/-- Falcon-1024 signature under the module's identity key, derived from the identity seed (14 R424): seed, digest. PRESUMED, assumption 11. -/
opaque Config.falconSign : List Byte → List Byte → List Byte

/-- The Falcon-1024 public key of an identity seed (14 R424). PRESUMED, assumption 11. -/
opaque Config.falconPublic : List Byte → List Byte

/-- ML-KEM-1024 key generation from drawn randomness: (encapsulation key, decapsulation key) (14 R436). PRESUMED, assumption 11. -/
opaque Config.kemKeygen : Nat → List Byte × List Byte

/-- ML-KEM-1024 decapsulation: decapsulation key, ciphertext, giving the shared secret (14 R437). PRESUMED, assumption 11. -/
opaque Config.kemDecaps : List Byte → List Byte → List Byte

/-- ML-KEM-1024 encapsulation with drawn randomness: key, giving (shared secret, ciphertext) (14 R440). PRESUMED, assumption 11. -/
opaque Config.kemEncaps : List Byte → Nat → List Byte × List Byte

/-- The SHAKE256 digest of the boot ROM, 64 bytes (14 R428), a constant of the silicon. PRESUMED, assumption 11. -/
opaque Config.romDigest : List Byte

/-- Whether the next hop of a packet with this header begins a segment (11 R336): the header does not tell. DESIGN CHOICE, assumption 52. -/
opaque Config.newSegment : Nat → Bool

/-- The hops of the route between two other modules of the cascade (11 R346): fabric addresses. The lodestar's own route
table does not tell. DESIGN CHOICE, assumption 81. -/
opaque Config.hopsBetween : Nat → Nat → Nat

/-- The Irgoko root public key (14 R423, R425). PRESUMED, assumption 11. -/
opaque Config.rootKey : List Byte

/-- The sector count of a 4 KiB stash page: silicon revision, element-size code, page bytes (09 R278: a fixed
function within one silicon_rev, at most 8, and 0 for an all-zero page). DEDUCED, assumption 40. -/
opaque Config.stashSectors : Nat → Nat → List Byte → Nat

/-- The banks of a site's bed with a spare column group left (12 R381: per part). DESIGN CHOICE, assumption 2; DEDUCED, assumption 39. -/
opaque Config.spareCols : Nat → Byte

end Sys2Proof
end

