-- ==== Sys2Proof/Machine/Sparse.lean ====
section
/-! DEFINITION. Sparse maps in one canonical form (keys strictly rising, no entry equal to what an unlisted key
reads as) and byte memories over them. -/

namespace Sys2Proof.Machine

/-- What key `k` holds; `d` gives what an unlisted key reads as. -/
def sget {α : Type} (d : Nat → α) : Sparse α → Nat → α
  | [], k => d k
  | (k', v) :: r, k => if k = k' then v else sget d r k

/-- Drop every entry of key `k`. -/
def sdel {α : Type} : Sparse α → Nat → Sparse α
  | [], _ => []
  | (k', w) :: r, k => if k' = k then sdel r k else (k', w) :: sdel r k

/-- Write key `k`. Writing what an unlisted key reads as removes the entry, so that equal maps are equal data. -/
def sset {α : Type} [DecidableEq α] (d : Nat → α) : Sparse α → Nat → α → Sparse α
  | [], k, v => if v = d k then [] else [(k, v)]
  | (k', w) :: r, k, v =>
    if k' = k then sset d r k v
    else if k < k' then (if v = d k then (k', w) :: sdel r k else (k, v) :: (k', w) :: sdel r k)
    else (k', w) :: sset d r k v

/-- Every listed key is at least `lo`, keys rise strictly, no entry is a default. -/
def swfFrom {α : Type} [DecidableEq α] (d : Nat → α) : Nat → Sparse α → Bool
  | _, [] => true
  | lo, (k, v) :: r => decide (lo ≤ k) && !decide (v = d k) && swfFrom d (k + 1) r

/-- The canonical form holds. -/
def swf {α : Type} [DecidableEq α] (d : Nat → α) (m : Sparse α) : Bool := swfFrom d 0 m

/-- One source of undefined contents: byte `a` of a range reads as the free byte of `event` at `a + shift`. -/
structure FreeSrc where
  event : Nat
  shift : Int
deriving DecidableEq, Repr

/-- A range of addresses `lo ≤ a < hi` whose unlisted bytes were set together. -/
structure MemFill where
  lo : Nat
  hi : Nat
  src : List FreeSrc
deriving DecidableEq, Repr

/-- A byte memory. `fill` and `ranges` (newest first) say what an unlisted byte reads as: the XOR of the free bytes of
the listed sources, so the empty list is zero, a list of one source is undefined contents (00 R15), and longer lists
come from parity (12 R365). -/
structure Mem where
  fill : List FreeSrc
  ranges : List MemFill
  cells : Sparse Byte
deriving DecidableEq, Repr

/-- The XOR of the free bytes of some sources at one address. -/
def freeXor (a : Nat) : List FreeSrc → Byte
  | [] => 0
  | f :: r => Config.freeByte f.event ((a : Int) + f.shift).toNat ^^^ freeXor a r

/-- The sources behind an unlisted byte. -/
def Mem.srcAt (m : Mem) (a : Nat) : List FreeSrc :=
  match m.ranges.find? (fun r => decide (r.lo ≤ a ∧ a < r.hi)) with
  | some r => r.src
  | none => m.fill

/-- What an unlisted address reads as. -/
def Mem.dflt (m : Mem) (a : Nat) : Byte := freeXor a (m.srcAt a)

/-- The zeroed memory. -/
def Mem.zero : Mem := { fill := [], ranges := [], cells := [] }

/-- A memory whose contents are undefined (00_scope.md R15) since event `n`. DESIGN CHOICE, assumption 3. -/
def Mem.undef (n : Nat) : Mem := { fill := [{ event := n, shift := 0 }], ranges := [], cells := [] }

def Mem.get (m : Mem) (a : Nat) : Byte := sget m.dflt m.cells a

def Mem.set (m : Mem) (a : Nat) (b : Byte) : Mem := { m with cells := sset m.dflt m.cells a b }

/-- Set every byte of `lo ≤ a < hi` to what `src` gives: zero for the empty list, undefined for a fresh event. -/
def Mem.fillRange (m : Mem) (lo hi : Nat) (src : List FreeSrc) : Mem :=
  { m with ranges := { lo := lo, hi := hi, src := src } :: m.ranges,
           cells := m.cells.filter (fun c => decide (c.1 < lo ∨ hi ≤ c.1)) }

/-- Undefined contents of a range since event `n` (R15). DESIGN CHOICE, assumption 3. -/
def Mem.spoil (m : Mem) (lo hi n : Nat) : Mem := m.fillRange lo hi [{ event := n, shift := 0 }]

/-- Undefined contents of a range that is written anew time and again: earlier fills inside it are forgotten. -/
def Mem.respoil (m : Mem) (lo hi n : Nat) : Mem :=
  ({ m with ranges := m.ranges.filter (fun r => !decide (lo ≤ r.lo ∧ r.hi ≤ hi)) } : Mem).spoil lo hi n

/-- Zeros in a range. -/
def Mem.clear (m : Mem) (lo hi : Nat) : Mem := m.fillRange lo hi []

/-- The canonical form of a memory. -/
def Mem.wf (m : Mem) : Bool := swf m.dflt m.cells

/-- Write a run of bytes from address `a` on. -/
def Mem.setBytes (m : Mem) (a : Nat) : List Byte → Mem
  | [] => m
  | b :: r => (m.set a b).setBytes (a + 1) r

/-- Read `n` bytes from address `a` on, lowest first. -/
def Mem.bytes (m : Mem) : Nat → Nat → List Byte
  | _, 0 => []
  | a, n + 1 => m.get a :: m.bytes (a + 1) n

/-- Bytes of several memories XORed: each source is a memory with the address its range starts at. -/
def xorAt (srcs : List (Mem × Nat)) (i : Nat) : Byte := srcs.foldl (fun b s => b ^^^ s.1.get (s.2 + i)) 0

/-- Insert into an ascending list without repeats. -/
def insertAsc (n : Nat) : List Nat → List Nat
  | [] => [n]
  | a :: r => if n < a then n :: a :: r else if n = a then a :: r else a :: insertAsc n r

/-- Positions below `len` at which the unlisted contents of some source change, ascending with 0. -/
def xorCuts (srcs : List (Mem × Nat)) (len : Nat) : List Nat :=
  let cs := srcs.flatMap (fun s => s.1.ranges.flatMap (fun r => [r.lo, r.hi].filterMap (fun x =>
    if s.2 < x ∧ x < s.2 + len then some (x - s.2) else none)))
  cs.foldl (fun l n => insertAsc n l) [0]

/-- Set bytes [lo, lo + len) of a memory to the XOR of ranges of others (12 R365, R368, R370). -/
def Mem.xorRange (m : Mem) (lo len : Nat) (srcs : List (Mem × Nat)) : Mem :=
  let cuts := xorCuts srcs len
  let src (i : Nat) : List FreeSrc := srcs.flatMap (fun s => (s.1.srcAt (s.2 + i)).map (fun f =>
    { f with shift := f.shift + (s.2 : Int) - (lo : Int) }))
  let m := (cuts.zip (cuts.tail ++ [len])).foldl (fun m c => m.fillRange (lo + c.1) (lo + c.2) (src c.1)) m
  let keys := (srcs.flatMap (fun s => s.1.cells.filterMap (fun c =>
    if s.2 ≤ c.1 ∧ c.1 < s.2 + len then some (c.1 - s.2) else none))).foldl (fun l n => insertAsc n l) []
  keys.foldl (fun m i => m.set (lo + i) (xorAt srcs i)) m

/-- The little-endian number of a byte list (00_scope.md R11). -/
def leNat : List Byte → Nat
  | [] => 0
  | b :: r => b.toNat + 256 * leNat r

/-- The `n` little-endian bytes of a number (R11). -/
def leBytes : Nat → Nat → List Byte
  | 0, _ => []
  | n + 1, v => BitVec.ofNat 8 v :: leBytes n (v / 256)

/-- The little-endian number of `n` bytes at `a`. -/
def Mem.nat (m : Mem) (a n : Nat) : Nat := leNat (m.bytes a n)

/-- One 32-bit accumulator tile (03 R69): entry 128 × row + column. `fill` as for a memory; an unlisted entry of a
zeroed tile is +0. -/
structure Tile where
  fill : Option Nat
  cells : Sparse Word
deriving DecidableEq, Repr

def Tile.dflt (t : Tile) (k : Nat) : Word :=
  match t.fill with
  | none => 0
  | some n => Config.freeWord 32 (n + k)

def Tile.zero : Tile := { fill := none, cells := [] }

/-- A tile left undefined (R15); its entries use 16,384 free values from `n` on. DESIGN CHOICE, assumption 3. -/
def Tile.undef (n : Nat) : Tile := { fill := some n, cells := [] }

def Tile.get (t : Tile) (k : Nat) : Word := sget t.dflt t.cells k

def Tile.set (t : Tile) (k : Nat) (v : Word) : Tile := { t with cells := sset t.dflt t.cells k v }

def Tile.wf (t : Tile) : Bool := swf t.dflt t.cells

end Sys2Proof.Machine
end

