-- ==== Sys2Proof/Machine/State.lean ====
section
/-! DEFINITION. The state of one module: everything the spec gives it, as plain data. `State.reset` is the module right
after a cold reset, with every register at its reset value (assumption 1). -/

namespace Sys2Proof.Machine

/-- A write of one byte on its way: address, value, and the mask of the bits written (a nibble of an F4b byte leaves the
other as it is, 06 R178). -/
structure Wr where
  a : Nat
  b : Byte
  mask : Byte
deriving DecidableEq, Repr

/-! ## A core: control core, matrix, vector and stream engine (08, 03, 04, 07) -/

/-- A command in an engine queue (08 R239): its word, the address, bank and slot of the bundle that issued it (R253),
its number among the engine's issued commands (R243) and among all commands of the core (R83: issue order). -/
structure QEntry where
  word : DWord
  addr : Half
  bank : Bool
  slot : BitVec 3
  num : Half
  order : Nat
deriving DecidableEq, Repr

/-- Issued, started and done counts of one engine (08 R243); `early` holds the numbers of commands that completed
before an earlier-issued one. -/
structure EngCnt where
  issued : Half
  started : Half
  done : Half
  early : List Half
deriving DecidableEq, Repr

/-- An armed hardware loop (08 R248). -/
structure LoopLevel where
  level : BitVec 2
  start : Half
  stop : Half
  remaining : Word
deriving DecidableEq, Repr

/-- CC states of 08 R255, in code order 0–7. -/
inductive CcSt where
  | stopped | running | queueWait | syncWait | debugHalted | paused | halted | fault
deriving DecidableEq, Repr

/-- A beacon record (08 R261). -/
structure Beacon where
  num : BitVec 12
  site : SiteNo
  core : CoreNo
  tick : DWord
  value : Word
  addr : Half
  bank : Bool
deriving DecidableEq, Repr

/-- CC_CTL, CC_DBG and the break registers (08 R263, R265). `suppress` is set by resume: the count and tag compares
are off for the next bundle (R259). `logMark` is the number of log entries at the end of the last bundle (R254). -/
structure CcCtl where
  pause : Bool
  haltOnLog : Bool
  beaconStall : Bool
  traceCmds : Bool
  dbgEn : Bool
  dbgStep : Bool
  cntEn : Bool
  tagEn : Bool
  why : BitVec 3
  suppress : Bool
  logMark : Half
  brkCnt : DWord
  brkTag : Half
  brkMask : Half
  brkEng : BitVec 3
  beaconMask : DWord
deriving DecidableEq, Repr

/-- The CC's 64-bit counters (08 R262). -/
structure CcPerf where
  cmd : DWord
  cycle : DWord
  bundle : DWord
  stallMe : DWord
  stallVe : DWord
  stallSe : DWord
  stallWait : DWord
  stallHaz : DWord
deriving DecidableEq, Repr

/-- One CC_ERRLOG entry (08 R253). -/
structure ErrEntry where
  word0 : DWord
  tick : DWord
deriving DecidableEq, Repr

/-- CC_NUM_STAT (02 R65), with the issue number and the tick of the command whose tag it holds (R67). -/
structure NumStat where
  nan : Bool
  inf : Bool
  sat : Bool
  firstTag : Half
  firstOrder : Nat
  firstTick : DWord
deriving DecidableEq, Repr

/-- The control core (08). `hazard` is the destination of the last bundle's load (R249); `imemBusy` holds window
writes into IMEM taken from the mesh and not yet in IMEM (R251): bank, offset, bytes. -/
structure Cc where
  regs : Sparse Word
  pc : Half
  bank : Bool
  loops : List LoopLevel
  st : CcSt
  eng : BitVec 3
  stopCode : Half
  ctl : CcCtl
  cause : Half
  causeMask : Half
  beaconDrop : Word
  beacons : List Beacon
  errlog : Sparse ErrEntry
  errNext : BitVec 4
  errSeq : Half
  verA : Half
  verB : Half
  meCnt : EngCnt
  veCnt : EngCnt
  seCnt : EngCnt
  perf : CcPerf
  hazard : List (BitVec 5)
  imemBusy : List (Bool × Nat × List Byte)
  dmem : Mem
  dmemPoison : Sparse Bool
  imemA : Mem
  imemB : Mem
  imemUes : Nat
  numStat : NumStat
deriving DecidableEq, Repr

/-- A feed register (03 R77, R78). -/
structure Feed where
  fmt : BitVec 4
  hqSrc : Bool
  trans : Bool
  addr : BitVec 13
  pitch : Half
deriving DecidableEq, Repr

/-- What the checksum columns hold of one row of a product (03 R89): row, checksum, magnitude. -/
structure RowCheck where
  row : Nat
  sum : Word
  mag : Word
deriving DecidableEq, Repr

/-- What a started ME command still has to do. `mma` and `ldacc` hold the values to be written at completion, `mma` the
handles it holds, the core cycles of a feed step (R72, R73) and the feed steps left too (R86), `store`
the bytes to land, `selftest` its scratch tile. DEDUCED, assumption 6. -/
inductive MeWork where
  | mma (tile : BitVec 4) (vals : List (Nat × Word)) (checks : List RowCheck) (rel : List (BitVec 5)) (p left : Nat)
  | store (tile : BitVec 4) (writes : List Wr) (release nan inf sat landed : Bool)
  | ldacc (tile : BitVec 4) (vals : List (Nat × Word))
  | selftest (tile : BitVec 4)
deriving DecidableEq, Repr

/-- DEDUCED, assumption 6. -/
structure MeJob where
  q : QEntry
  work : MeWork
deriving DecidableEq, Repr

/-- The matrix engine (03). `scaleOk` tells for A and B whether a scale feed was set since the last feed of the operand
(R76). `levelAt` is the tick of the last boundary of the activity level (R87). `finishing` tells that on entry to P3 it was feeding a product, which it finishes
under the cap of P2 before its pruning cap is 0 (16 R475, R477). -/
structure Me where
  tiles : Sparse Tile
  accPoison : Sparse Bool
  colfail : BitVec 130
  test : BitVec 130
  feeds : Sparse (Option Feed)
  scaleOk : BitVec 2
  rmask : BitVec 128
  queue : List QEntry
  jobs : List MeJob
  bcastReq : Bool
  bcastActive : Bool
  chkEn : Bool
  tolExp : BitVec 4
  level : BitVec 4
  levelAt : Option DWord
  credit : Nat
  finishing : Bool
  pinned : BitVec 16
  sealedT : BitVec 16
  haltedT : BitVec 16
  cause : BitVec 10
  causeMask : BitVec 10
  chkInfo : DWord
  busyCnt : DWord
  waitCnt : DWord
deriving DecidableEq, Repr

/-- One bank of a VE table (04 R130): entry count, scale and offset of a segment table, and the words (c0, c1, c2 of
entry i at 3i, 3i+1, 3i+2, or word i of a lookup table). -/
structure VTable where
  n : Nat
  scale : Word
  off : Word
  words : Tile
deriving DecidableEq, Repr

/-- A chain in progress (04 R112): bytes still to be written, row status and flag effects, the tiles it reads (R107),
and its handle queues (R110). DEDUCED, assumption 6. -/
structure ChainJob where
  q : QEntry
  writes : List Wr
  nan : Bool
  inf : Bool
  sat : Bool
  permOor : Bool
  rowEmpty : Bool
  tiles : List Nat
  banks : List Nat
  hqIn : Option (BitVec 5)
  hqOut : Option (BitVec 5)
deriving DecidableEq, Repr

/-- A table load under way; `swapped` tells that a VE.TSWAP of its table has been issued after it (04 R131). DEDUCED, assumption 6. -/
structure TloadJob where
  q : QEntry
  table : BitVec 3
  bank : Bool
  image : VTable
  swapped : Bool
deriving DecidableEq, Repr

/-- The vector engine (04). Tables are keyed 2 × table + bank. `popped` is the hq_in handle that the chain at the head
holds while it waits for its hq_out buffer (R110); `bank` are the banks the lanes use, `bankStat` those at the issue
position of the last started command (R141). -/
structure Ve where
  queue : List QEntry
  popped : Option Nat
  chain : Option ChainJob
  tloads : List TloadJob
  swaps : List (QEntry × BitVec 3)
  tables : Sparse VTable
  bank : BitVec 6
  bankStat : BitVec 6
  permOor : Bool
  rowEmptySeen : Bool
  haltedV : Bool
  level : BitVec 4
  levelAt : Option DWord
  credit : Nat
  cause : BitVec 9
  causeMask : BitVec 9
  errInfo : DWord
  busyCnt : DWord
  waitCnt : DWord
deriving DecidableEq, Repr

/-- A tensor descriptor (06 R169). -/
structure Desc where
  base : Nat
  allocBase : Nat
  allocSize : Nat
  fmt : BitVec 4
  dir : Bool
  aw : BitVec 2
  padWrite : Bool
  rank : Nat
  padMode : Bool
  kind : BitVec 2
  scatAdd : Bool
  aux : Half
  idxDim : Nat
  padValue : Word
  size : List Nat
  stride : List Int
  padLo : List Nat
  padHi : List Nat
deriving DecidableEq, Repr

/-- A transfer of an SE context (07 R201): the bytes it lands (physical-view addresses), its multicast copies being
already among them, the physical sites it reads, and what it sets when it lands; `mc` tells a multicast transfer,
`sealedOut` one that a closure refused. DEDUCED, assumption 6. -/
structure Xfer where
  writes : List Wr
  srcs : List Nat
  nan : Bool
  inf : Bool
  sat : Bool
  poison : Bool
  lost : Bool
  sealedOut : Bool
  mc : Bool
  landed : Bool
deriving DecidableEq, Repr

/-- A multicast group (07 R192, R204): a core mask of the issuing core's site, or mesh group and core. -/
inductive Mcast where
  | die (mask : Word)
  | mesh (group : BitVec 6) (core : CoreNo)
deriving DecidableEq, Repr

/-- A stream program image (07 R194): header fields and instruction words. -/
structure SProg where
  roundTag : BitVec 12
  roundSeq : Half
  indexBase : BitVec 48
  g16k : Byte
  code : List DWord
deriving DecidableEq, Repr

/-- An open stream loop (07 R196): its level, the index of the instruction after SP.LOOP, and the iterations left. -/
structure SLoop where
  level : BitVec 3
  body : Nat
  left : Nat
  word : DWord
deriving DecidableEq, Repr

/-- A buffer that an SE context holds (07 R199, R208): queue, handle, whether it holds it on every multicast member. -/
structure HeldBuf where
  hq : BitVec 5
  handle : Nat
  mc : Bool
deriving DecidableEq, Repr

/-- A stream context (07 R191–R200, R222, R227). `held` are the descriptor copies taken at start (06 R168); `acqHeld`
and `popHeld` the buffers its endpoint holds, oldest first; `waitTick` the tick an SP.WAITT waits for. -/
structure SeCtx where
  running : Bool
  err : Bool
  waitKind : BitVec 3
  waitHq : BitVec 5
  waitSite : SiteNo
  waitCore : CoreNo
  pc : Nat
  tag : Half
  q : Option QEntry
  prog : Option SProg
  x : List (BitVec 32)
  y : List (BitVec 32)
  loops : List SLoop
  held : List (Nat × Desc)
  group : Option Mcast
  groupRun : Option Mcast
  waitTick : DWord
  acqHeld : List HeldBuf
  popHeld : List HeldBuf
  toIssue : List Xfer
  inflight : List Xfer
  ending : Bool
deriving DecidableEq, Repr

/-- A handle-queue configuration (07 R206). -/
structure HqCfg where
  poolBase : Nat
  bufSize : Nat
  count : Nat
  prod : Byte
  cons : Byte
  remote : Bool
  paced : Bool
  rsite : SiteNo
  rcore : CoreNo
  due : Word
  firstPeriod : DWord
deriving DecidableEq, Repr

/-- A handle queue (07 R206–R212): four counters, four positions, deadline misses, pops since configuration, and the
stamps of the ready handles, oldest first (R219). -/
structure Hq where
  cfg : Option HqCfg
  acquires : Half
  pushes : Half
  pops : Half
  releases : Half
  pAcq : Nat
  pPush : Nat
  pPop : Nat
  pRel : Nat
  misses : Half
  popIndex : Nat
  stamps : List DWord
deriving DecidableEq, Repr


/-- A wait of an endpoint on a queue (07 R214): kind false is a pop, true an acquire, credit or multicast acquire. -/
structure HqWait where
  endpoint : Byte
  hq : BitVec 5
  acq : Bool
  rsite : SiteNo
  rcore : CoreNo
  since : DWord
  stalled : Bool
deriving DecidableEq, Repr

/-- The stream engine (07) and the descriptor unit (06). `remotes` are the credit counters of this core as a remote
producer (07 R211), keyed 1024 × logical site + 32 × core + queue of the consumer. `tdSeen` tells that SE_TD_INFO has
recorded a refusal since the descriptor bits of SE_CAUSE were last all 0 (06 R186). -/
structure Se where
  queue : List QEntry
  ctxs : Sparse SeCtx
  hqs : Sparse Hq
  remotes : Sparse Nat
  tdescs : Sparse (Option Desc)
  tdInfo : DWord
  tdSeen : Bool
  tdStat : BitVec 3
  waitLimit : BitVec 40
  hqStallReg : DWord
  paceMiss : DWord
  xferCnt : DWord
  waitCnt : DWord
  pause : Bool
  slotReserve : BitVec 7
  haltedS : Bool
  fenceCnt : Half
  fence : Option (QEntry × Byte)
  waits : List HqWait
  cause : BitVec 19
  causeMask : BitVec 19
  errInfo : DWord
deriving DecidableEq, Repr

/-- A physical core. `ctx` is the context whose state it holds (13 R399), `stepNo` the step that its commands belong to: the
one stamped on it when the orrery started it (02 R56). -/
structure Core where
  cc : Cc
  me : Me
  ve : Ve
  se : Se
  sp : Mem
  spPoison : Sparse Bool
  ctx : Option (BitVec 4)
  stepNo : Word
deriving DecidableEq, Repr

/-! ## A site: bed controller, fault block (12, 15) -/

/-- A protected write under way (12 R366): bed offset of its 64-byte block, the new bytes by position in the block,
whether its delta is sent and acknowledged. -/
structure ProtWrite where
  off : Nat
  bytes : List Wr
  sent : Bool
  acked : Bool
deriving DecidableEq, Repr

/-- A parity delta on its way to a holder (12 R366): source site, source bed offset, offset in the holder's bed,
delta bytes. -/
structure Delta where
  src : SiteNo
  srcOff : Nat
  off : Nat
  bytes : List Byte
deriving DecidableEq, Repr

/-- A present or absent site (12 R362, R380, R381; 15 R467). `rowCe` counts the corrections of a row within scrub pass
`scrubPass`, `repaired` are the remapped rows (once for each spare row taken) and `sparesUsed` the spare rows taken per bank (R363). -/
structure Site where
  bed : Mem
  bedPoison : Sparse Bool
  writes : List ProtWrite
  deltas : List Delta
  rowCe : Sparse Nat
  scrubPass : Nat
  repaired : List Nat
  sparesUsed : Sparse Nat
  scrubEn : Bool
  repairThr : BitVec 4
  repairBusy : Bool
  bedCause : BitVec 7
  bedMask : BitVec 7
  bedErr : DWord
  bedCe : DWord
  bedFix : DWord
  sumMask : BitVec 36
  cause : BitVec 6
  causeMask : BitVec 6
  errInfo : DWord
  coreMap : Sparse Nat
  failed : BitVec 34
deriving DecidableEq, Repr

/-! ## The grid, the graft map and the part (00, 01) -/

/-- Site roles of 01 R24, in code order. -/
inductive Role where
  | active | spare | fusedOff | retired
deriving DecidableEq, Repr

/-- What manufacture fixes for a part (00 R2, R3, R7; 01 R22; 12 R381; 14 R423): grade code 1–3, silicon revision,
the fused-off sites, the identity seed. -/
structure Part where
  grade : BitVec 4
  rev : Byte
  fused : List Nat
  idSeed : List Byte
deriving DecidableEq, Repr

/-- One entry of the retirement record (01 R22). -/
structure Retired where
  phys : SiteNo
  logical : Option SiteNo
  spare : Option SiteNo
deriving DecidableEq, Repr

/-- The grid: roles, graft map, generation, commit tick, failed bridge edges (the nodes at their ends: a site, or 64 + an
I/O die), and the route tables (by router and destination, the output edge) with the sites and edges they avoid since they
were last written (01 R22–R31). -/
structure Grid where
  roles : Sparse Role
  logical : Sparse Nat
  map : Sparse (Option Nat)
  gen : Half
  commitTick : DWord
  edges : List (Nat × Nat)
  routeAvoid : List Nat
  routeEdges : List (Nat × Nat)
  routes : Sparse (Option Nat)
  mcast : Sparse DWord
deriving DecidableEq, Repr

/-! ## I/O dies: Trellis, fabric, GDDR7 controller, faults (10, 11, 12, 15) -/

/-- A running bucket on its home die or at its head (10 R306–R316). -/
structure Bucket where
  tag : BitVec 12
  step : Word
  started : DWord
deriving DecidableEq, Repr

/-- What the head of a tag keeps (10 R311): notices with arrival tick, and whether it has closed. -/
structure HeadRec where
  tag : BitVec 12
  step : Word
  first : DWord
  notices : List MemberNotice
  graceDone : Bool
  closed : Bool
deriving DecidableEq, Repr

/-- A contribution an owner holds in staging, or in the fold area (10 R310, R317). -/
structure Contrib where
  tag : BitVec 12
  step : Word
  epoch : Word
  seg : Nat
  rank : Nat
  shadow : Bool
  data : List Half
deriving DecidableEq, Repr

/-- A late notice of a lenient tag at its head (10 R317): tag, rank, origin step, epoch, e_max, and the step whose close
named it. -/
structure FoldRec where
  tag : BitVec 12
  rank : Nat
  step : Word
  epoch : Word
  eMax : Int
  used : Option Word
deriving DecidableEq, Repr

/-- The Trellis block of a die (10 R324–R327). -/
structure TrDie where
  en : Bool
  ctx : BitVec 4
  cfgValid : Bool
  step : Word
  cause : BitVec 11
  causeMask : BitVec 11
  errInfo : DWord
  grace : Word
  fold : BitVec 3
  hbPeriod : Word
  hbLimit : Word
  recAddr : BitVec 48
  epoch : DWord
  doneCnt : DWord
  bytesOut : DWord
  bytesIn : DWord
  lenientCnt : DWord
  foldCnt : DWord
  ringLost : DWord
  totals : Sparse Nat
  pendingTags : List (BitVec 12)
  running : List Bucket
deriving DecidableEq, Repr

/-- An outstanding send of an XD (11 R340): destination, window, bytes to acknowledge. -/
structure Send where
  dst : BitVec 13
  win : BitVec 4
  bytes : Nat
deriving DecidableEq, Repr

/-- The fabric block of a die (11 R358–R360). The route table is keyed by destination. -/
structure FabDie where
  en : Bool
  encReq : Bool
  portEn : BitVec 4
  cause : BitVec 14
  causeMask : BitVec 14
  errInfo : DWord
  ackTimeout : Word
  stallLimit : BitVec 40
  sentCnt : DWord
  resendCnt : DWord
  groups : Sparse Half
  routes : Sparse DWord
  dateline : BitVec 4
  sends : List Send
deriving DecidableEq, Repr

/-- A device of a die's GDDR7 (12 R375, R376): consecutive failures, CRC error ticks, last retraining, and the tick of a
5 °C change since. -/
structure Device where
  consec : Nat
  errTicks : List DWord
  lastTrain : DWord
  hot : Option DWord
deriving DecidableEq, Repr

/-- The GDDR7 controller block of a die (12 R383, R384). -/
structure Mc where
  rate : BitVec 2
  rateActive : BitVec 2
  retrainEn : Bool
  devFailed : BitVec 13
  doubleFault : Bool
  selfRefresh : Bool
  cause : BitVec 6
  causeMask : BitVec 6
  errInfo : DWord
  crcCnt : DWord
  retryCnt : DWord
  reconCnt : DWord
  devs : Sparse Device
deriving DecidableEq, Repr

/-- One I/O die: Trellis, fabric, memory controller and the XD fault block (15 R468). -/
structure Xd where
  tr : TrDie
  fab : FabDie
  mc : Mc
  sumMask : BitVec 5
  xdlCause : BitVec 4
  xdlMask : BitVec 4
  halves : BitVec 2
deriving DecidableEq, Repr

/-- One entry of the tag table (10 R305). -/
structure TagEntry where
  units : Nat
  lenient : Bool
  rnd : BitVec 3
  ext : List (Nat × Nat)
  expect : Nat
  ret : Nat
deriving DecidableEq, Repr

/-- One entry of a membership list (10 R300); role 0 primary, 1 shadow, 2 spare. -/
structure Member where
  addr : BitVec 13
  backupOf : Nat
  role : Nat
deriving DecidableEq, Repr

/-- A membership list in force or proposed (10 R300). -/
structure Membership where
  epoch : Word
  members : List Member
deriving DecidableEq, Repr

/-- The Trellis record of the bound context with its tag table (10 R303, R305). -/
structure TrCfg where
  ctx : BitVec 4
  ctxKey : DWord
  stageAddr : Nat
  stageMib : Nat
  foldAddr : Nat
  foldMib : Nat
  complAddr : Nat
  complN : Nat
  tags : List TagEntry
deriving DecidableEq, Repr

/-- Module-wide Trellis state: the bound record; the head's and owner's work, the retained segments received and the
completed tags, each of a step; the buckets as they stood at handoff (10 R307); the heartbeat watch, and in `lone` the
address, epoch and last heartbeat of a rank 0 that is alone in its membership (10 R304–R318). -/
structure Trellis where
  cfg : Option TrCfg
  heads : List HeadRec
  staging : List Contrib
  folds : List FoldRec
  foldData : List Contrib
  closes : List CloseNotice
  owed : List (BitVec 12 × Word × Nat)
  retained : List (BitVec 12 × Word × Nat)
  complete : List (BitVec 12 × Word)
  status : List (BitVec 12 × CloseNotice)
  handed : List (BitVec 12 × List (Half × Bool))
  watch : Sparse DWord
  lone : List (BitVec 13 × Word × DWord)
  failed : List Nat
  lastHb : DWord
  turn : Nat
deriving DecidableEq, Repr

/-! ## The fabric (11) -/

/-- One direction of a port's lanes (11 R328, R332, R333): failed lanes, whether the spare is in use or known bad,
whether a graft is in progress, it is narrowed for good, or is down; whether it runs at four lanes, and the flit number
at which both ends switch to four lanes or back. -/
structure Lanes where
  failed : BitVec 9
  spareUsed : Bool
  spareBad : Bool
  grafting : Bool
  narrow : Bool
  down : Bool
  four : Bool
  switch : Option (Half × Bool)
deriving DecidableEq, Repr

/-- What waits for a flit (11 R335): a piece of a packet, or of link control. -/
structure TxFlit where
  ctl : Bool
  cls : BitVec 2
  vc : Bool
  data : List Byte
deriving DecidableEq, Repr

/-- A packet held back on its way out of an I/O die (11 R338), and since when. -/
structure WaitPkt where
  xd : Nat
  cls : BitVec 2
  vc : Bool
  bytes : List Byte
  since : DWord
deriving DecidableEq, Repr

/-- A Bluern port (11 R328–R335, R356–R359). `state` is the code of FAB_PORT_STAT; `rxFrame` are the flits of the
encrypted frame being received, `rxPacket` the parts of packets received per class and virtual channel, `txQueue` what
waits for a flit, `wrr` the turn of the weighted round robin. `keys` and `keyPhase` are those of flits sent, `rxKeys` and
`rxPhase` those of flits received, `rxNext` the keys that begin where the peer's phase toggles; `own` is the digest of this
module's link report, `dk` the decapsulation key of the exchange; `delayAsked` while a delay request is out. -/
structure Port where
  state : BitVec 3
  peer : BitVec 13
  tx : Lanes
  rx : Lanes
  enc : Bool
  keyPhase : Bool
  keys : List Byte
  txFrames : DWord
  rxFrames : DWord
  rxFrame : List (List Byte)
  rxPacket : Sparse (List Byte)
  txQueue : List TxFlit
  wrr : Nat
  txSeq : Half
  rxSeq : Half
  replay : List (Half × List Byte)
  resent : Nat
  lastAck : DWord
  discarding : Bool
  credits : Sparse Nat
  zeroSince : Sparse DWord
  delay : DWord
  pruned : Bool
  cascade : Half
  rxKeys : List Byte
  rxPhase : Bool
  rxNext : Option (List Byte)
  own : List Byte
  dk : List Byte
  delayAsked : Bool
deriving DecidableEq, Repr

/-- A receive window (11 R361) and its notice count (R343). -/
structure RxWin where
  base : BitVec 48
  en : Bool
  encReq : Bool
  trellis : Bool
  bulk : Bool
  ctx : BitVec 4
  size : BitVec 24
  nsite : SiteNo
  ncore : CoreNo
  ndmem : Half
  notifyEn : Bool
  notices : Word
deriving DecidableEq, Repr

/-- Module-wide fabric and time state (11 R338, R348–R361). `flows` gives the port a flow last took, keyed 8192 × source
+ destination; `waiting` are packets held back; `timePort` and `timeHops` the branch of the time tree; `adjust` the
correction of the next tick (R351). `committed` tells that the proposal has its commit, `electTick` when the generation began,
`widen` that the ports leave P3 at the next step boundary (R333). `inbox` are packets delivered (port, class, bytes), `parts`
segments of which packets are still to come (with whether it is write-back), `mailed` how many outputs have been made packets. -/
structure Fab where
  addr : BitVec 13
  cascade : Half
  valid : Bool
  lodestar : BitVec 13
  provisional : Bool
  generation : Word
  src : Bool
  syncOutEn : Bool
  ptpEn : Bool
  locked : Bool
  holdover : Bool
  lastCorr : Byte
  syncDly : Half
  ptpOffset : DWord
  ptpRate : Word
  wins : Sparse RxWin
  lastTime : DWord
  lastAdjust : DWord
  lastElect : DWord
  lastSend : DWord
  syncMissed : Nat
  lastSync : DWord
  proposal : Option Membership
  answers : List (BitVec 13 × Bool)
  firstStep : Word
  held : List (BitVec 13)
  failedPeers : List (BitVec 13)
  flows : Sparse Nat
  waiting : List WaitPkt
  timePort : BitVec 4
  timeHops : Half
  adjust : Int
  committed : Bool
  electTick : DWord
  widen : Bool
  inbox : List (Nat × BitVec 2 × List Byte)
  parts : List (SegmentMsg × Bool)
  mailed : Nat
deriving DecidableEq, Repr

/-! ## Memory-side blocks (12, 09 R279) -/

/-- The Seedbank block (12 R382). `started` is the tick of the failure whose rebuild runs, or of the write of SB_CTL;
`began` the tick at which the rebuild began. -/
structure Seedbank where
  en : Bool
  protChunks : BitVec 4
  state : BitVec 3
  unprot : BitVec 4
  rebuildSite : SiteNo
  progress : BitVec 4
  cause : BitVec 4
  causeMask : BitVec 4
  ticks : Word
  started : DWord
  began : DWord
deriving DecidableEq, Repr

/-- A stash region (09 R279) with the sector counts of its pages that are not all zero (09 R278). -/
structure Stash where
  en : Bool
  elem : BitVec 2
  base : BitVec 28
  sizeMib : BitVec 18
deriving DecidableEq, Repr

/-- An encryption region (12 R377, R383). -/
structure XtsRegion where
  base : Nat
  limit : Nat
  slot : BitVec 5
deriving DecidableEq, Repr

/-- The external memory: GDDR7 bytes, poisoned 64-bit words, the key generation each 64-byte unit was last written
under (12 R377: data read under another key is undefined; `unitFill` gives it for whole ranges of units, newest first,
and 1 elsewhere), the regions, and the key generation each slot holds. -/
structure Gddr where
  mem : Mem
  poison : Sparse Bool
  unitKey : Sparse Nat
  unitFill : List (Nat × Nat × Nat)
  regions : Sparse (Option XtsRegion)
  slots : Sparse Nat
  stash : Sparse Stash
  logical : DWord
  stored : DWord
deriving DecidableEq, Repr

/-! ## Orrery, contexts, host (13, 09) -/

/-- A context descriptor (13 R399). -/
structure CtxDesc where
  sealedCtx : Bool
  paced : Bool
  training : Bool
  lean : Bool
  saveBed : Bool
  prio : Nat
  quantum : Word
  sites : DWord
  ctxKey : DWord
  subAddr : Nat
  subN : Nat
  cplAddr : Nat
  cplN : Nat
  policyAddr : Nat
  trellisAddr : Nat
  saveAddr : Nat
  t0 : DWord
  lp : Word
deriving DecidableEq, Repr

/-- Context states of 13 R400, in code order. -/
inductive CtxSt where
  | free | ready | running | saved | held | stopped
deriving DecidableEq, Repr

/-- A submission entry (13 R404) claimed by the orrery: `index` its number in the ring, `measured` tells that the
measurement of its image is asked for (14 R429), `logAt` the CC_ERRLOG counts of its cores at its start, `doneOn` the stop
code and the log count of each core that a later entry has taken, `img` the image of an executed LOAD (15 R452). -/
structure Entry where
  kind : Byte
  irq : Bool
  barrier : Bool
  seq : Word
  sites : DWord
  cores : Word
  src : Nat
  len : Nat
  target : Byte
  dst : Nat
  ver : Half
  pc : Half
  bank : Bool
  step : Word
  started : Bool
  finished : Bool
  measured : Bool
  status : Byte
  logAt : List (Nat × Half)
  doneOn : List (Nat × Half × Half)
  index : Nat
  img : List Byte := []
deriving DecidableEq, Repr

/-- The training policy record (09 R298). -/
structure Policy where
  sigmaInit : Int
  sigmaMin : Int
  sigmaMax : Int
  dec : Nat
  growInterval : Nat
  skip : Bool
  earlyAbort : Bool
  satVotes : Bool
  maxRepeats : Nat
  momentFmt : BitVec 4
  weightRnd : BitVec 3
  hdr : Half
  voteTimeout : Nat
deriving DecidableEq, Repr

/-- The step record (09 R299) with what the orrery knows of the step (`used` is the σ in its header, `entry` the index of its
submission entry): votes held at this tree node, acknowledgements
held, the decision, the last step that reached DONE (R291), the tally answers, the factors c₁ and c₂ (R286), and where the
repair of the shard stands (`restore`: 0 none, 1 begun at `restoreTick`, 2 the update runs again; R296). -/
structure StepRec where
  step : Word
  phase : Nat
  outcome : Nat
  sigma : Int
  lenient : Bool
  repeated : Bool
  restored : Bool
  early : Bool
  repeats : Nat
  cur : Bool
  firstCore : Half
  firstTag : Half
  goodSteps : Nat
  decisionTick : DWord
  epoch : Word
  started : Bool
  voteTick : DWord
  voted : Bool
  votes : List VoteWord
  acks : List Half
  acked : Bool
  commit : Option Bool
  decBits : Byte
  faulted : Bool
  tally : Nat
  mirror : Nat
  lastDone : Option Word
  used : Int
  entry : Nat
  c1 : Word
  c2 : Word
  restore : Nat
  restoreTick : DWord
deriving DecidableEq, Repr

/-- A context (13 R399–R405). `saved` holds the core states of a switched-out context by core key (R402); `loads`
the executed LOAD entries (15 R452); `period`, `pStart`, `pLen` its paced period, `pStarts` the starts of the periods so
far (11 R354), `pFinish` the tick of its last paced pop, `paceOn` once it is activated (11 R354); `snapshot` the last claimed
entry a snapshot records (R397); `switching` a switch-out under way (R401), `destroying` a CTX_DESTROY under way,
`held` a hold asked for by CTX_HOLD; `srec` is the latest step, `upd` a committed one that still awaits DONE while the
latest runs (09 R266, R291); `membership` the list in force for it (10 R300), `records` its completion records
(10 R316). -/
structure Ctx where
  st : CtxSt
  desc : CtxDesc
  oc : BitVec 5
  subCons : Nat
  cplProd : Nat
  entries : List Entry
  loads : List Entry
  policy : Option Policy
  srec : StepRec
  upd : Option StepRec
  sliceStart : DWord
  saved : Sparse (Option Core)
  period : DWord
  pStart : DWord
  pLen : DWord
  pStarts : Sparse (Option DWord)
  pFinish : DWord
  paceOn : Bool
  snapshot : Nat
  switching : Bool
  destroying : Bool
  held : Bool
  membership : Option Membership
  records : Nat
  trRefused : Bool
deriving DecidableEq, Repr

/-- Orrery firmware image identity (13 R393): version, hand_min, hand_max, hand_out, svn, digest, bytes. -/
structure Image where
  version : Word
  handMin : Nat
  handMax : Nat
  handOut : Nat
  svn : Nat
  digest : List Byte
  bytes : List Byte
deriving DecidableEq, Repr

/-- One orrery core (13 R398, R420): role 0 in service, 1 spare, 2 failed; watchdog count; last restart. -/
structure OrrCore where
  role : BitVec 2
  wdogCnt : Half
  restarted : DWord
  ticked : Bool
  takeover : Option (BitVec 5)
deriving DecidableEq, Repr

/-- The orrery block (13 R397, R406–R421) with its 4 MiB of SRAM, 1 MiB on each I/O die (01 R17). `fwdBeacons`
are the forward-end beacons received, by context and step (09 R266); `stopping` that every context stops at its next step
boundary (R388), `opened` that an image has confirmed its health since the last reset (16 R488). -/
structure Orr where
  cores : Sparse OrrCore
  lead : BitVec 5
  fwState : BitVec 3
  cause : BitVec 14
  causeMask : BitVec 14
  imgVersion : Word
  lkgVersion : Word
  drvHb : DWord
  drvHbSeen : DWord
  drvHbTick : DWord
  hbChanged : Bool
  attached : Bool
  hbLimit : BitVec 40
  adminBase : BitVec 36
  adminCons : Nat
  adminProd : Nat
  adminOk : Bool
  loadResult : BitVec 4
  loadSlot : Bool
  loadMap0 : BitVec 256
  loadMap1 : BitVec 256
  confirmed : Bool
  confirmEnd : Option DWord
  wdogLimit : Word
  image : Option Image
  imgSlot : Bool
  handoff : Nat
  draining : Bool
  stopping : Bool
  opened : Bool
  hold : Bool
  fwdBeacons : List (BitVec 4 × Word)
  rotate : Nat
  sram : Mem
deriving DecidableEq, Repr

/-- An Almanac entry (13 R411). -/
structure Alm where
  seq : DWord
  tick : DWord
  kind : Byte
  sev : Byte
  ctx : Byte
  origin : Half
  payload : List Byte
deriving DecidableEq, Repr

/-- Boot flash (13 R388): orrery slots, last-known-good pointer, slot selectors, the stage-1 and OS loader slots, the
retirement and repair records, the host region, the certificate chain (14 R424), and the customer OS's area. -/
structure Flash where
  orrA : Option Image
  orrB : Option Image
  lkgB : Bool
  s1A : Option Image
  s1B : Option Image
  ldA : Option Image
  ldB : Option Image
  s1Sel : Bool
  ldSel : Bool
  record : List Retired
  coreRecord : List (Nat × Nat)
  rowRecord : List (Nat × Nat)
  colRecord : List (Nat × BitVec 130)
  hostBase : Nat
  hostGib : Nat
  chain : List Byte
  customer : Mem
deriving DecidableEq, Repr

/-- An Ethernet descriptor ring (13 R391): when its port last polled it, and whether it is moving data. -/
structure Ring where
  base : Nat
  count : Nat
  cursor : Nat
  polled : Option DWord
  moving : Bool
deriving DecidableEq, Repr

/-- What stage-1 hands to hart 0 (13 R389): the loader's entry point, a0 (the hart ID), a1 (the address of the boot
record), and what the record names: part ID, graft generation and map, host memory region, and the restart vector of a hart
that takes another's place (15 R459). -/
structure BootRec where
  entry : Nat
  a0 : Nat
  a1 : Nat
  partId : Nat
  gen : Nat
  map : Sparse (Option Nat)
  hostBase : Nat
  hostGib : Nat
  restart : DWord
deriving DecidableEq, Repr

/-- Host cluster (13 R385, R387, R422): its interrupt controller (pending sources, the sources that the OS enables for each
hart, those claimed and not completed), the Ethernet rings (keyed port × 16 + dir × 8 + ring), and what hart 0 started with. -/
structure HostCl where
  inService : BitVec 18
  harts : Sparse Nat
  cause : BitVec 3
  causeMask : BitVec 3
  plic : BitVec 23
  enables : Sparse (BitVec 23)
  claimed : List (Nat × Nat)
  rings : Sparse (Option Ring)
  rxHold : List (Nat × List Byte × Bool)
  txFrame : Sparse (List Byte)
  hart0 : Bool
  boot : Option BootRec
  starts : Sparse (Option (DWord × Nat))
  failedHarts : BitVec 18
deriving DecidableEq, Repr

/-! ## Security, faults, power (14, 15, 16) -/

/-- A request channel of the security block (14 R432, R443); `record` is the request record taken at go. -/
structure SecChan where
  addr : BitVec 48
  busy : Bool
  record : List Byte
  result : BitVec 3
  seq : Word
deriving DecidableEq, Repr

/-- Per-context sealing state (14 R429, R435–R437); `report` is the digest of the body of the last context report
(R437). -/
structure SealSt where
  state : BitVec 2
  ranges : List (Nat × Nat)
  ek : List Byte
  dk : List Byte
  ck : Option (List Byte)
  modelId : List Byte
  meas : List Byte
  report : List Byte
deriving DecidableEq, Repr

/-- An owner slot (14 R430): public key, its 32-byte digest, flags. -/
structure Owner where
  key : List Byte
  digest : List Byte
  cosign : Bool
  peerReq : Bool
deriving DecidableEq, Repr

/-- The peer policy (14 R431). -/
structure PeerPol where
  minSvn : Nat
  images : List (List Byte)
  noDbg : Bool
  digest : List Byte
deriving DecidableEq, Repr

/-- The security block (14 R423–R443). `nonce` is the last nonce it drew for a peer
(R431), `last` the channel served last (R432). -/
structure Sec where
  owners : List Owner
  svnS1 : Nat
  svnLd : Nat
  svnOrr : Nat
  runS1 : Nat
  runLd : Nat
  meas : List (List Byte)
  policy : Option PeerPol
  dbgUsed : Bool
  bootS1 : Bool
  bootLd : Bool
  cause : BitVec 8
  causeMask : BitVec 8
  errInfo : DWord
  ch0 : SecChan
  ch1 : SecChan
  importPos : BitVec 40
  seals : Sparse SealSt
  keyGen : Nat
  entropyBad : Bool
  nonce : List Byte
  last : Option Bool
deriving DecidableEq, Repr

/-- Where a leaf cause lives (15 R462). -/
inductive Leaf where
  | cc (key : Nat) | me (key : Nat) | ve (key : Nat) | se (key : Nat)
  | bed (site : Nat) | site (site : Nat)
  | mc (xd : Nat) | fab (xd : Nat) | tr (xd : Nat) | xdl (xd : Nat)
  | sb | orr | hc | sec | siteLost | pwr | clk | therm
deriving DecidableEq, Repr

/-- An event in the urgent latch (15 R446); `arg` is the core or edge of a site cause. -/
structure Urgent where
  leaf : Leaf
  bit : Nat
  tick : DWord
  arg : Nat
deriving DecidableEq, Repr

/-- A graft the orrery has to run (15 R446, R453–R458, R512): 0 column, 1 core, 2 site, 3 edge, 4 spare site; physical
site, presented core, latch tick, and the contexts its HALT named. -/
structure Graft where
  kind : Nat
  site : Nat
  core : Nat
  tick : DWord
  mask : Half
deriving DecidableEq, Repr

/-- The GIS block and the HALT machinery (15 R449, R465). `arrive` are the cores the broadcast has yet to reach;
`grafts` the grafts waiting to run (15 R460). -/
structure Gis where
  siteMask : DWord
  sysMask : BitVec 13
  siteLost : DWord
  halted : Half
  inForce : Half
  tick : DWord
  arrive : List Nat
  urgent : List Urgent
  mapAddr : BitVec 48
  mapHole : Bool
  grafts : List Graft
deriving DecidableEq, Repr

/-- Where a warm reset stands (16 R487): none, accepted at P3 or worse and waiting, under way since step 4. -/
inductive Warm where
  | idle | waiting | resetting
deriving DecidableEq, Repr

/-- Domain states of PWR_PD_STAT (16 R490), in code order. -/
inductive Pd where
  | off | retain | on | fault
deriving DecidableEq, Repr

/-- Power controller (16 R469–R481, R490, R491). `p1` is the last 1 µs sample, `hist` the last ten samples, newest first
(their mean is p_10us), `belowCap` counts the samples under PWR_CAP − 1,000 W, `govLow` is the tick g last fell; `redo`
are the contexts whose step P4 aborted (R478), `phases` the phases lost per domain; `aboveSince` tells for P1–P4 since when
V_in has been at or above the leave value, `overSince` since when above 59 V (R469, R476). The states of PWR_PD_STAT follow from
these and from the site roles. -/
structure Power where
  level : BitVec 3
  govCap : BitVec 4
  thermCap : BitVec 4
  vin : Half
  p1 : Half
  hist : List Nat
  belowCap : Nat
  govLow : DWord
  cause : BitVec 6
  causeMask : BitVec 6
  cap : Half
  redo : Half
  phases : Sparse Nat
  phaseCnt : BitVec 9
  phaseDom : BitVec 7
  levelCnt : DWord
  aboveSince : List (Option DWord)
  overSince : Option DWord
  off : Bool
  vinAt : Option DWord
  govAt : Option DWord
deriving DecidableEq, Repr

/-- Clock and thermal blocks (16 R481–R483, R490, R492). -/
structure Clk where
  locked : Bool
  refclk : Bool
  holdover : Bool
  holdStart : DWord
  holdTicks : Word
  cause : BitVec 4
  causeMask : BitVec 4
deriving DecidableEq, Repr

structure Therm where
  warnC : Byte
  throttleC : Byte
  temps : Sparse Byte
  cause : BitVec 3
  causeMask : BitVec 3
  thermN : Bool
  critical : Bool
  lastStep : DWord
  sampled : Sparse (Option DWord)
deriving DecidableEq, Repr

/-- Sideband pins the module drives or samples (17 R494): levels; `thermN` stands with the thermal block. -/
structure Pins where
  rstN : Bool
  pwrgd : Bool
  flashWpN : Bool
  syncOut : Bool
deriving DecidableEq, Repr

/-- A release or push notice in the mesh (07 R211): the consumer's site, core and queue; a release notice carries
credits, and the one that SE.HQCFG sends starts the counter anew. -/
structure Notice where
  push : Bool
  site : SiteNo
  core : CoreNo
  hq : BitVec 5
  credits : Nat
  start : Bool
deriving DecidableEq, Repr

/-- What the module sends out: packets, messages, pulses, frames and replies to accesses, oldest first. The model's
record of the module's outputs. DESIGN CHOICE, assumption 10. -/
inductive Out where
  | reply (bytes : List Byte)
  | refusedWrite
  | readReg (value : DWord)
  | delivered (packet : List Byte)
  | resendReq (port : BitVec 4) (seq : Half)
  | flit (port : BitVec 4) (bytes : List Byte)
  | laneReport (port : BitVec 4) (lane : BitVec 4) (seq : Half)
  | laneSwitch (port : BitVec 4) (seq : Half)
  | linkReport (port : BitVec 4) (report : List Byte)
  | kem (port : BitVec 4) (bytes : List Byte)
  | rekey (port : BitVec 4)
  | packet (dst : BitVec 13) (cls : BitVec 2) (win : BitVec 4) (off : Nat) (data : List Byte) (notify : Bool)
  | refuse (dst : BitVec 13) (win : BitVec 4) (reason : Byte) (off : Nat) (tick : DWord)
  | vote (v : VoteWord)
  | decide (d : DecisionMsg)
  | decisionReq (step epoch : Word) (rank : Half)
  | ack (step epoch : Word) (rank : Half)
  | doneMsg (step epoch : Word)
  | heartbeat (dst : BitVec 13) (rank : Half) (epoch step : Word) (tick : DWord)
  | failure (addr : BitVec 13) (epoch : Word) (rank : Half) (cause : Byte)
  | segment (owner : Nat) (m : SegmentMsg)
  | notice (head : Nat) (m : MemberNotice)
  | close (m : CloseNotice)
  | writeBack (m : SegmentMsg)
  | election (port : BitVec 4) (lowest : BitVec 13) (generation : Word)
  | time (m : TimeMsg)
  | delayReq (port : BitVec 4) (t1 : DWord)
  | delayResp (port : BitVec 4) (t1 t2 t3 : DWord)
  | answer (epoch : Word) (accept : Bool) (reason : Byte)
  | proposal (epoch : Word) (digest : List Byte)
  | epochCommit (epoch firstStep : Word)
  | held (addr : BitVec 13) (held : Bool)
  | syncPulse (tick : DWord)
  | frame (port : BitVec 2) (bytes : List Byte)
  | tally (ctx : BitVec 4)
  | snapshot (ctx : BitVec 4) (tick : DWord)
deriving DecidableEq, Repr

/-- The whole module. `freeCtr` and `outbox` are the model's own: the number of the next free value (00 R15) and the
record of outputs. `pending` is the queue of waiting commands, first in, first out. -/
structure State where
  part : Part
  tick : DWord
  grid : Grid
  sites : Sparse Site
  cores : Sparse Core
  xds : Sparse Xd
  ports : Sparse Port
  trellis : Trellis
  fab : Fab
  sb : Seedbank
  gddr : Gddr
  ctxs : Sparse Ctx
  orr : Orr
  almHead : DWord
  alms : Sparse Alm
  flash : Flash
  host : HostCl
  sec : Sec
  gis : Gis
  pwr : Power
  clk : Clk
  therm : Therm
  pins : Pins
  notices : List Notice
  warmLast : Bool
  warm : Warm
  freeCtr : Nat
  outbox : List Out
  pending : List Instr
deriving DecidableEq, Repr

/-! ## Reset values -/

def EngCnt.init : EngCnt := { issued := 0, started := 0, done := 0, early := [] }

def NumStat.init : NumStat := { nan := false, inf := false, sat := false, firstTag := 0, firstOrder := 0, firstTick := 0 }

def CcCtl.init : CcCtl :=
  { pause := false, haltOnLog := false, beaconStall := false, traceCmds := false, dbgEn := false, dbgStep := false,
    cntEn := false, tagEn := false, why := 0, suppress := false, logMark := 0, brkCnt := 0, brkTag := 0, brkMask := 0, brkEng := 0,
    beaconMask := 0 }

def CcPerf.init : CcPerf :=
  { cmd := 0, cycle := 0, bundle := 0, stallMe := 0, stallVe := 0, stallSe := 0, stallWait := 0, stallHaz := 0 }

/-- 08 R228, R263–R265; IMEM and DMEM are zeroed at cold reset (14 R423). -/
def Cc.init : Cc :=
  { regs := [], pc := 0, bank := false, loops := [], st := .stopped, eng := 0b111, stopCode := 0, ctl := CcCtl.init,
    cause := 0, causeMask := 0xFFFF, beaconDrop := 0, beacons := [], errlog := [], errNext := 0, errSeq := 0,
    verA := 0, verB := 0, meCnt := EngCnt.init, veCnt := EngCnt.init, seCnt := EngCnt.init, perf := CcPerf.init,
    hazard := [], imemBusy := [], dmem := Mem.zero, dmemPoison := [], imemA := Mem.zero, imemB := Mem.zero,
    imemUes := 0, numStat := NumStat.init }

/-- 03 R96–R100. -/
def Me.init : Me :=
  { tiles := [], accPoison := [], colfail := 0, test := 0, feeds := [], scaleOk := 0, rmask := BitVec.allOnes 128, queue := [],
    jobs := [], bcastReq := true, bcastActive := true, chkEn := true, tolExp := 0xA, level := 0, levelAt := none, credit := 0,
    finishing := false, pinned := 0, sealedT := 0, haltedT := 0, cause := 0, causeMask := 0x3FF, chkInfo := 0, busyCnt := 0,
    waitCnt := 0 }

def VTable.init : VTable := { n := 0, scale := 0, off := 0, words := Tile.zero }

/-- 04 R140–R143. DESIGN CHOICE, assumption 16. -/
def Ve.init : Ve :=
  { queue := [], popped := none, chain := none, tloads := [], swaps := [], tables := [], bank := 0, bankStat := 0,
    permOor := false,
    rowEmptySeen := false, haltedV := false, level := 0, levelAt := none, credit := 0, cause := 0, causeMask := 0x1FF,
    errInfo := 0, busyCnt := 0, waitCnt := 0 }

def SeCtx.init : SeCtx :=
  { running := false, err := false, waitKind := 0, waitHq := 0, waitSite := 0, waitCore := 0, pc := 0, tag := 0,
    q := none, prog := none, x := [], y := [], loops := [], held := [], group := none, groupRun := none,
    waitTick := 0, acqHeld := [], popHeld := [], toIssue := [], inflight := [], ending := false }

def Hq.init : Hq :=
  { cfg := none, acquires := 0, pushes := 0, pops := 0, releases := 0, pAcq := 0, pPush := 0, pPop := 0, pRel := 0,
    misses := 0, popIndex := 0, stamps := [] }

/-- 06 R165, R185–R187; 07 R223–R227. DESIGN CHOICE, assumption 16. -/
def Se.init : Se :=
  { queue := [], ctxs := [], hqs := [], remotes := [], tdescs := [], tdInfo := 0, tdSeen := false, tdStat := 0, waitLimit := 0xE57E0,
    hqStallReg := 0, paceMiss := 0, xferCnt := 0, waitCnt := 0, pause := false, slotReserve := 0x20,
    haltedS := false, fenceCnt := 0, fence := none, waits := [], cause := 0, causeMask := 0x7FFFF, errInfo := 0 }

/-- DESIGN CHOICE, assumption 16. -/
def Core.init : Core :=
  { cc := Cc.init, me := Me.init, ve := Ve.init, se := Se.init, sp := Mem.zero, spPoison := [], ctx := none, stepNo := 0 }

/-- 12 R381; 15 R467. -/
def Site.init : Site :=
  { bed := Mem.zero, bedPoison := [], writes := [], deltas := [], rowCe := [], scrubPass := 0, repaired := [], sparesUsed := [],
    scrubEn := true, repairThr := 4, repairBusy := false, bedCause := 0, bedMask := 0x7F, bedErr := 0, bedCe := 0,
    bedFix := 0, sumMask := 0xCFFFFFFFF, cause := 0, causeMask := 0x3F, errInfo := 0, coreMap := [], failed := 0 }

/-- 10 R324–R326. -/
def TrDie.init : TrDie :=
  { en := false, ctx := 0, cfgValid := false, step := 0, cause := 0, causeMask := 0x7FF, errInfo := 0,
    grace := 0x2DE60, fold := 2, hbPeriod := 0x125C, hbLimit := 0xB798, recAddr := 0, epoch := 0, doneCnt := 0,
    bytesOut := 0, bytesIn := 0, lenientCnt := 0, foldCnt := 0, ringLost := 0, totals := [], pendingTags := [],
    running := [] }

/-- 11 R358–R360. -/
def FabDie.init : FabDie :=
  { en := false, encReq := false, portEn := 0xF, cause := 0, causeMask := 0x3FFF, errInfo := 0, ackTimeout := 0x758,
    stallLimit := 0xE57E0, sentCnt := 0, resendCnt := 0, groups := [], routes := [], dateline := 0, sends := [] }

def Device.init : Device := { consec := 0, errTicks := [], lastTrain := 0, hot := none }

/-- 12 R383, R384. -/
def Mc.init : Mc :=
  { rate := 2, rateActive := 2, retrainEn := true, devFailed := 0, doubleFault := false, selfRefresh := false,
    cause := 0, causeMask := 0x3F, errInfo := 0, crcCnt := 0, retryCnt := 0, reconCnt := 0, devs := [] }

/-- 15 R468. -/
def Xd.init : Xd :=
  { tr := TrDie.init, fab := FabDie.init, mc := Mc.init, sumMask := 0x1F, xdlCause := 0, xdlMask := 0xF, halves := 0 }

def Lanes.init : Lanes :=
  { failed := 0, spareUsed := false, spareBad := false, grafting := false, narrow := false, down := false, four := false,
    switch := none }

/-- DESIGN CHOICE, assumption 16. -/
def Port.init : Port :=
  { state := 0, peer := 0, tx := Lanes.init, rx := Lanes.init, enc := false, keyPhase := false, keys := [],
    txFrames := 0, rxFrames := 0, rxFrame := [], rxPacket := [], txQueue := [], wrr := 0, txSeq := 0, rxSeq := 0, replay := [], resent := 0, lastAck := 0,
    discarding := false, credits := [], zeroSince := [], delay := 0, pruned := false, cascade := 0, rxKeys := [], rxPhase := false, rxNext := none,
    own := [], dk := [], delayAsked := false }

def RxWin.init : RxWin :=
  { base := 0, en := false, encReq := false, trellis := false, bulk := false, ctx := 0, size := 0, nsite := 0,
    ncore := 0, ndmem := 0, notifyEn := false, notices := 0 }

/-- 11 R361. DESIGN CHOICE, assumption 16. -/
def Fab.init : Fab :=
  { addr := 0, cascade := 0, valid := false, lodestar := 0, provisional := false, generation := 0, src := false,
    syncOutEn := false, ptpEn := false, locked := false, holdover := false, lastCorr := 0, syncDly := 0,
    ptpOffset := 0, ptpRate := 0, wins := [], lastTime := 0, lastAdjust := 0, lastElect := 0, lastSend := 0,
    syncMissed := 0, lastSync := 0, proposal := none, answers := [], firstStep := 0, held := [],
    failedPeers := [], flows := [], waiting := [], timePort := 0, timeHops := 0xFFFF, adjust := 0,
    committed := false, electTick := 0, widen := false, inbox := [], parts := [], mailed := 0 }

/-- DESIGN CHOICE, assumption 16. -/
def Trellis.init : Trellis :=
  { cfg := none, heads := [], staging := [], folds := [], foldData := [], closes := [], owed := [], retained := [],
    complete := [], status := [], handed := [], watch := [], lone := [], failed := [], lastHb := 0, turn := 0 }

/-- 12 R382. -/
def Seedbank.init : Seedbank :=
  { en := false, protChunks := 15, state := 0, unprot := 0, rebuildSite := 0, progress := 0, cause := 0,
    causeMask := 0xF, ticks := 0, started := 0, began := 0 }

def Stash.init : Stash := { en := false, elem := 0, base := 0, sizeMib := 0 }

/-- The GDDR7 after a cold reset: undefined contents under a new module key (14 R423, 16 R485), key generation 1 in
slot 0 and no key in the other slots. -/
def Gddr.init (n : Nat) : Gddr :=
  { mem := Mem.undef n, poison := [], unitKey := [], unitFill := [], regions := [], slots := [(0, 1)], stash := [], logical := 0,
    stored := 0 }

def CtxDesc.init : CtxDesc :=
  { sealedCtx := false, paced := false, training := false, lean := false, saveBed := false, prio := 0, quantum := 0,
    sites := 0, ctxKey := 0, subAddr := 0, subN := 0, cplAddr := 0, cplN := 0, policyAddr := 0, trellisAddr := 0,
    saveAddr := 0, t0 := 0, lp := 0 }

/-- DESIGN CHOICE, assumption 16. -/
def StepRec.init : StepRec :=
  { step := 0, phase := 0, outcome := 0, sigma := 0, lenient := false, repeated := false, restored := false,
    early := false, repeats := 0, cur := false, firstCore := 0, firstTag := 0, goodSteps := 0, decisionTick := 0,
    epoch := 0, started := false, voteTick := 0, voted := false, votes := [], acks := [], acked := false,
    commit := none, decBits := 0, faulted := false, tally := 0, mirror := 0, lastDone := none, used := 0,
    entry := 0, c1 := 0, c2 := 0, restore := 0, restoreTick := 0 }

/-- DESIGN CHOICE, assumption 16. -/
def Ctx.init : Ctx :=
  { st := .free, desc := CtxDesc.init, oc := 0, subCons := 0, cplProd := 0, entries := [], loads := [],
    policy := none, srec := StepRec.init, upd := none, sliceStart := 0, saved := [], period := 0, pStart := 0, pLen := 0, pStarts := [],
    pFinish := 0, paceOn := false,
    snapshot := 0, switching := false, destroying := false, held := false, membership := none, records := 0,
    trRefused := false }

def OrrCore.init : OrrCore := { role := 0, wdogCnt := 0, restarted := 0, ticked := false, takeover := none }

/-- The spares OC4, OC9, OC14 and OC19 of 13 R396 (ORR_STAT.spare resets to 0x8_4210). -/
def OrrCore.spare : OrrCore := { OrrCore.init with role := 1 }

/-- 13 R419–R421. DESIGN CHOICE, assumption 16. -/
def Orr.init : Orr :=
  { cores := [(4, OrrCore.spare), (9, OrrCore.spare), (14, OrrCore.spare), (19, OrrCore.spare)], lead := 0,
    fwState := 0, cause := 0, causeMask := 0x3FFF, imgVersion := 0, lkgVersion := 0, drvHb := 0, drvHbSeen := 0,
    drvHbTick := 0, hbChanged := false, attached := false, hbLimit := 0x59A5380, adminBase := 0, adminCons := 0,
    adminProd := 0, adminOk := false, loadResult := 0, loadSlot := false, loadMap0 := 0, loadMap1 := 0,
    confirmed := false, confirmEnd := none, wdogLimit := 0x4970, image := none, imgSlot := false, handoff := 0,
    draining := false, stopping := false, opened := false, hold := false, fwdBeacons := [], rotate := 0, sram := Mem.undef 0 }

/-- 13 R386, R388: the default host memory region of 8 GiB at 0, empty slots and records. DESIGN CHOICE, assumption 2. -/
def Flash.init : Flash :=
  { orrA := none, orrB := none, lkgB := false, s1A := none, s1B := none, ldA := none, ldB := none, s1Sel := false,
    ldSel := false, record := [], coreRecord := [], rowRecord := [], colRecord := [], hostBase := 0, hostGib := 8,
    chain := [], customer := Mem.zero }

/-- 13 R385, R422: hart IDs 0–7 on physical harts 0–7, 8–15 on 9–16. -/
def HostCl.init : HostCl :=
  { inService := 0x1FEFF, harts := [], cause := 0, causeMask := 7, plic := 0, enables := [], claimed := [], rings := [], rxHold := [],
    txFrame := [], hart0 := false, boot := none, starts := [], failedHarts := 0 }

def SecChan.init : SecChan := { addr := 0, busy := false, record := [], result := 0, seq := 0 }

def SealSt.init : SealSt :=
  { state := 0, ranges := [], ek := [], dk := [], ck := none, modelId := [], meas := List.replicate 64 0, report := [] }

/-- 14 R428, R443: measurements 0; an unowned part with counters 0. DESIGN CHOICE, assumption 2. -/
def Sec.init : Sec :=
  { owners := [], svnS1 := 0, svnLd := 0, svnOrr := 0, runS1 := 0, runLd := 0,
    meas := List.replicate 8 (List.replicate 64 0), policy := none, dbgUsed := false, bootS1 := false,
    bootLd := false, cause := 0, causeMask := 0xFF, errInfo := 0, ch0 := SecChan.init, ch1 := SecChan.init,
    importPos := 0, seals := [], keyGen := 1, entropyBad := false, nonce := [], last := none }

/-- 15 R465; 12 R379. -/
def Gis.init : Gis :=
  { siteMask := BitVec.allOnes 64, sysMask := 0x1FFF, siteLost := 0, halted := 0, inForce := 0, tick := 0,
    arrive := [], urgent := [], mapAddr := 0, mapHole := false, grafts := [] }

/-- 16 R490, R491. DESIGN CHOICE, assumption 16. -/
def Power.init : Power :=
  { level := 0, govCap := 8, thermCap := 8, vin := 0, p1 := 0, hist := [], belowCap := 0, govLow := 0, cause := 0,
    causeMask := 0x3F, cap := 0x30D4, redo := 0, phases := [], phaseCnt := 0, phaseDom := 0, levelCnt := 0,
    aboveSince := [none, none, none, none], overSince := none, off := false, vinAt := none, govAt := none }

/-- 16 R492. -/
def Clk.init : Clk :=
  { locked := true, refclk := true, holdover := false, holdStart := 0, holdTicks := 0, cause := 0, causeMask := 0xF }

/-- 16 R492. -/
def Therm.init : Therm :=
  { warnC := 0x5F, throttleC := 0x64, temps := [], cause := 0, causeMask := 7, thermN := true, critical := false,
    lastStep := 0, sampled := [] }

/-- 17 R494: the module is powered, not held in reset, the flash writable. -/
def Pins.init : Pins := { rstN := true, pwrgd := true, flashWpN := true, syncOut := false }

/-- The part the model's reset stands for: an L7-60, silicon revision 0, no fused-off site (00 R2, R7; assumption
2: the manual gives these per part). DESIGN CHOICE, assumption 2. -/
def Part.init : Part := { grade := 1, rev := 0, fused := [], idSeed := List.replicate 48 0 }

/-- The spare sites of 00 R3. -/
def spareSites : List Nat := [9, 14, 49, 54]

/-- The manufactured role of a physical site (00 R3, 01 R22). DESIGN CHOICE, assumption 2. -/
def Part.role (p : Part) (phys : Nat) : Role :=
  if p.fused.contains phys then .fusedOff else if spareSites.contains phys then .spare else .active

/-- The physical sites of manufactured role active, ascending: position l serves logical ID l (01 R22 step 1). -/
def Part.actives (p : Part) : List Nat := (List.range 64).filter (fun s => decide (p.role s = .active))

/-- The sparse table of a list of values at keys 0, 1, …, leaving out defaults. -/
def tableFrom {α : Type} [DecidableEq α] (d : α) : Nat → List α → Sparse α
  | _, [] => []
  | k, v :: r => if v = d then tableFrom d (k + 1) r else (k, v) :: tableFrom d (k + 1) r

/-- One entry of the retirement record applied (01 R22 step 2): the retired site takes role retired, a named spare
takes role active and the recorded logical ID; an ID whose entry names no spare stays unserved. -/
def Grid.applyRetired (g : Grid) (r : Retired) : Grid :=
  let g := { g with roles := sset (fun _ => Role.active) g.roles r.phys.toNat .retired,
                    logical := sset (fun _ => 0) g.logical r.phys.toNat 0 }
  match r.logical, r.spare with
  | some l, some s =>
    { g with roles := sset (fun _ => Role.active) g.roles s.toNat .active,
             logical := sset (fun _ => 0) g.logical s.toNat l.toNat,
             map := sset (fun _ => none) g.map l.toNat (some s.toNat) }
  | some l, none => { g with map := sset (fun _ => none) g.map l.toNat none }
  | none, _ => g

/-- The graft map the boot block builds at cold reset (01 R22). DESIGN CHOICE, assumption 1. -/
def Grid.build (p : Part) (record : List Retired) : Grid :=
  let act := p.actives
  let g : Grid :=
    { roles := tableFrom .active 0 ((List.range 64).map p.role),
      logical := tableFrom 0 0 ((List.range 64).map (fun s =>
        if decide (p.role s = .active) then act.idxOf s else 0)),
      map := tableFrom none 0 (act.map some),
      gen := 0, commitTick := 0, edges := [], routeAvoid := [], routeEdges := [], routes := [], mcast := [] }
  record.foldl Grid.applyRetired g

/-- The physical core of presented core `c`, by default the same number (15 R456). -/
def Site.physCore (t : Site) (c : Nat) : Nat := sget (fun n => n) t.coreMap c

/-- A failed physical core leaves the map of its site: the lowest-numbered free core serves in its place (15 R456). -/
def Site.failCore (t : Site) (n : Nat) : Site :=
  let t := { t with failed := t.failed ||| BitVec.ofNat 34 (2 ^ n) }
  let used := (List.range 32).map t.physCore
  let free := (List.range 34).filter (fun m => !t.failed.getLsbD m && !used.contains m)
  match (List.range 32).find? (fun c => t.physCore c == n), free with
  | some c, m :: _ => { t with coreMap := sset (fun k => k) t.coreMap c m }
  | _, _ => t

/-- A repaired row takes a spare row of its bank (12 R363): 128 banks a bed. DESIGN CHOICE, assumption 20. -/
def Site.takeRow (t : Site) (row : Nat) : Site :=
  { t with repaired := t.repaired ++ [row],
           sparesUsed := sset (fun _ => 0) t.sparesUsed (row % 128) (sget (fun _ => 0) t.sparesUsed (row % 128) + 1) }

/-- The sites with the repair records of boot flash applied (12 R363, 13 R388). DESIGN CHOICE, assumption 1. -/
def Flash.sites (f : Flash) : Sparse Site :=
  let m := f.coreRecord.foldl (fun m x => sset (fun _ => Site.init) m x.1 ((sget (fun _ => Site.init) m x.1).failCore x.2)) []
  f.rowRecord.foldl (fun m x => sset (fun _ => Site.init) m x.1 ((sget (fun _ => Site.init) m x.1).takeRow x.2)) m

/-- The cores with the recorded column maps. DESIGN CHOICE, assumption 1. -/
def Flash.cores (f : Flash) : Sparse Core :=
  f.colRecord.foldl (fun m x => sset (fun _ => Core.init) m x.1
    { Core.init with me := { Me.init with colfail := x.2, test := x.2 } }) []

/-- The module after a cold reset (16 R485) of a part with a given flash: every register at its reset value, the
graft map built from the part and the retirement record, beds and core memories zeroed, GDDR7 undefined. `n` numbers
the undefined contents. DESIGN CHOICE, assumption 1. -/
def State.coldFrom (p : Part) (f : Flash) (n : Nat) : State :=
  { part := p, tick := 0, grid := Grid.build p f.record, sites := f.sites, cores := f.cores, xds := [], ports := [],
    trellis := Trellis.init, fab := Fab.init, sb := Seedbank.init, gddr := Gddr.init n, ctxs := [], orr := Orr.init,
    almHead := 0, alms := [], flash := f, host := HostCl.init, sec := Sec.init, gis := Gis.init, pwr := Power.init,
    clk := Clk.init, therm := Therm.init, pins := Pins.init, notices := [], warmLast := false, warm := .idle,
    freeCtr := n + 1, outbox := [], pending := [] }

/-- The module right after reset (16 R485, cold reset). DESIGN CHOICE, assumption 1. -/
def State.reset : State := State.coldFrom Part.init Flash.init 0

/-- Why the machine stops with a fault. No meaning of this model ends in one: the spec gives every command an effect,
and an access to an address that does not exist reads 0 and is recorded (12 R379). Safe: nothing raises it. -/
inductive Fault where
  | unreachable
deriving DecidableEq, Repr

/-- Why a command is refused. `notModelled` would name a row that has no meaning yet; no arm raises it. Safe. -/
inductive Refusal where
  | notModelled (mnemonic : String)
deriving DecidableEq, Repr

/-- The outcome type of every meaning. -/
abbrev Res := Host.Outcome State Fault Refusal

end Sys2Proof.Machine
end

