-- ==== Sys2Proof/Machine/Flags.lean ====
section
/-! DEFINITION. Access to the parts of the state by key, the leaf causes with the urgent latch (15 R446, R462), the
summaries of the interrupt tree (R463–R468) and numeric status (02 R65–R67). -/

namespace Sys2Proof.Machine

/-! ## Parts by key -/

def State.site (s : State) (p : Nat) : Site := sget (fun _ => Site.init) s.sites p
def State.setSite (s : State) (p : Nat) (x : Site) : State := { s with sites := sset (fun _ => Site.init) s.sites p x }
def State.modSite (s : State) (p : Nat) (f : Site → Site) : State := s.setSite p (f (s.site p))

def State.core (s : State) (k : Nat) : Core := sget (fun _ => Core.init) s.cores k
def State.setCore (s : State) (k : Nat) (x : Core) : State := { s with cores := sset (fun _ => Core.init) s.cores k x }
def State.modCore (s : State) (k : Nat) (f : Core → Core) : State := s.setCore k (f (s.core k))

def State.xd (s : State) (x : Nat) : Xd := sget (fun _ => Xd.init) s.xds x
def State.setXd (s : State) (x : Nat) (v : Xd) : State := { s with xds := sset (fun _ => Xd.init) s.xds x v }
def State.modXd (s : State) (x : Nat) (f : Xd → Xd) : State := s.setXd x (f (s.xd x))

def State.port (s : State) (p : Nat) : Port := sget (fun _ => Port.init) s.ports p
def State.setPort (s : State) (p : Nat) (v : Port) : State := { s with ports := sset (fun _ => Port.init) s.ports p v }
def State.modPort (s : State) (p : Nat) (f : Port → Port) : State := s.setPort p (f (s.port p))

def State.ctx (s : State) (n : Nat) : Ctx := sget (fun _ => Ctx.init) s.ctxs n
def State.setCtx (s : State) (n : Nat) (v : Ctx) : State := { s with ctxs := sset (fun _ => Ctx.init) s.ctxs n v }
def State.modCtx (s : State) (n : Nat) (f : Ctx → Ctx) : State := s.setCtx n (f (s.ctx n))

def State.oc (s : State) (n : Nat) : OrrCore := sget (fun _ => OrrCore.init) s.orr.cores n
def State.setOc (s : State) (n : Nat) (v : OrrCore) : State :=
  { s with orr := { s.orr with cores := sset (fun _ => OrrCore.init) s.orr.cores n v } }

def State.seal (s : State) (n : Nat) : SealSt := sget (fun _ => SealSt.init) s.sec.seals n
def State.setSeal (s : State) (n : Nat) (v : SealSt) : State :=
  { s with sec := { s.sec with seals := sset (fun _ => SealSt.init) s.sec.seals n v } }

def State.rxwin (s : State) (n : Nat) : RxWin := sget (fun _ => RxWin.init) s.fab.wins n
def State.setRxwin (s : State) (n : Nat) (v : RxWin) : State :=
  { s with fab := { s.fab with wins := sset (fun _ => RxWin.init) s.fab.wins n v } }

def State.modCc (s : State) (k : Nat) (f : Cc → Cc) : State := s.modCore k (fun c => { c with cc := f c.cc })
def State.modMe (s : State) (k : Nat) (f : Me → Me) : State := s.modCore k (fun c => { c with me := f c.me })
def State.modVe (s : State) (k : Nat) (f : Ve → Ve) : State := s.modCore k (fun c => { c with ve := f c.ve })
def State.modSe (s : State) (k : Nat) (f : Se → Se) : State := s.modCore k (fun c => { c with se := f c.se })
def State.modTr (s : State) (x : Nat) (f : TrDie → TrDie) : State := s.modXd x (fun d => { d with tr := f d.tr })
def State.modFab (s : State) (x : Nat) (f : FabDie → FabDie) : State := s.modXd x (fun d => { d with fab := f d.fab })
def State.modMc (s : State) (x : Nat) (f : Mc → Mc) : State := s.modXd x (fun d => { d with mc := f d.mc })
def State.modOrr (s : State) (f : Orr → Orr) : State := { s with orr := f s.orr }
def State.modSec (s : State) (f : Sec → Sec) : State := { s with sec := f s.sec }
def State.modPwr (s : State) (f : Power → Power) : State := { s with pwr := f s.pwr }
def State.modGis (s : State) (f : Gis → Gis) : State := { s with gis := f s.gis }

/-- Hand out the number of a fresh free value (00 R15). -/
def State.fresh (s : State) (count : Nat) : Nat × State := (s.freeCtr, { s with freeCtr := s.freeCtr + count })

/-- Record an output of the module. DESIGN CHOICE, assumption 10. -/
def State.emit (s : State) (o : Out) : State := { s with outbox := s.outbox ++ [o] }

/-! ## Leaf causes (R462) -/

/-- The leaf cause register. -/
def State.leaf (s : State) : Leaf → Nat
  | .cc k => (s.core k).cc.cause.toNat
  | .me k => (s.core k).me.cause.toNat
  | .ve k => (s.core k).ve.cause.toNat
  | .se k => (s.core k).se.cause.toNat
  | .bed p => (s.site p).bedCause.toNat
  | .site p => (s.site p).cause.toNat
  | .mc x => (s.xd x).mc.cause.toNat
  | .fab x => (s.xd x).fab.cause.toNat
  | .tr x => (s.xd x).tr.cause.toNat
  | .xdl x => (s.xd x).xdlCause.toNat
  | .sb => s.sb.cause.toNat
  | .orr => s.orr.cause.toNat
  | .hc => s.host.cause.toNat
  | .sec => s.sec.cause.toNat
  | .siteLost => s.gis.siteLost.toNat
  | .pwr => s.pwr.cause.toNat
  | .clk => s.clk.cause.toNat
  | .therm => s.therm.cause.toNat

/-- The urgent bits of each leaf register, as each chapter's table marks them. -/
def Leaf.urgentBits : Leaf → List Nat
  | .cc _ => [11, 13]
  | .me _ => [0, 9]
  | .ve _ => [8]
  | .se _ => [16, 17]
  | .bed _ => [1]
  | .site _ => [0, 1, 3, 4]
  | .mc _ => [1, 2, 5]
  | .fab _ => [4, 5, 13]
  | .tr _ => [6, 8, 10]
  | .xdl _ => [0, 2]
  | .sb => [2]
  | .orr => [0, 4, 9]
  | .hc => [0, 2]
  | .sec => [3, 4, 5, 6]
  | .siteLost => List.range 64
  | .pwr => [2, 4]
  | .clk => [0, 2]
  | .therm => [2]

/-- Write a bit of a leaf register. -/
def State.putLeaf (s : State) (b : Nat) (v : Bool) : Leaf → State
  | .cc k => s.modCc k (fun c => { c with cause := setBit c.cause b v })
  | .me k => s.modMe k (fun c => { c with cause := setBit c.cause b v })
  | .ve k => s.modVe k (fun c => { c with cause := setBit c.cause b v })
  | .se k => s.modSe k (fun c => { c with cause := setBit c.cause b v })
  | .bed p => s.modSite p (fun c => { c with bedCause := setBit c.bedCause b v })
  | .site p => s.modSite p (fun c => { c with cause := setBit c.cause b v })
  | .mc x => s.modMc x (fun c => { c with cause := setBit c.cause b v })
  | .fab x => s.modFab x (fun c => { c with cause := setBit c.cause b v })
  | .tr x => s.modTr x (fun c => { c with cause := setBit c.cause b v })
  | .xdl x => s.modXd x (fun c => { c with xdlCause := setBit c.xdlCause b v })
  | .sb => { s with sb := { s.sb with cause := setBit s.sb.cause b v } }
  | .orr => s.modOrr (fun c => { c with cause := setBit c.cause b v })
  | .hc => { s with host := { s.host with cause := setBit s.host.cause b v } }
  | .sec => s.modSec (fun c => { c with cause := setBit c.cause b v })
  | .siteLost => s.modGis (fun c => { c with siteLost := setBit c.siteLost b v })
  | .pwr => s.modPwr (fun c => { c with cause := setBit c.cause b v })
  | .clk => { s with clk := { s.clk with cause := setBit s.clk.cause b v } }
  | .therm => { s with therm := { s.therm with cause := setBit s.therm.cause b v } }

/-- Set a leaf cause. An urgent one enters the urgent latch with its tick, whether the bit was already 1 or not, and
whatever the masks say (R446). -/
def State.raiseArg (s : State) (lf : Leaf) (b arg : Nat) : State :=
  let s := s.putLeaf b true lf
  if lf.urgentBits.contains b then
    s.modGis (fun g => { g with urgent := g.urgent ++ [{ leaf := lf, bit := b, tick := s.tick, arg := arg }] })
  else s

def State.raise (s : State) (lf : Leaf) (b : Nat) : State := s.raiseArg lf b 0

/-- Low 32 bits of the current tick. -/
def State.tickLow (s : State) : Nat := s.tick.toNat % 2 ^ 32

/-! ## First-event registers -/

/-- BED_CAUSE with BED_ERR_INFO (12 R380). -/
def State.raiseBed (s : State) (p b off : Nat) : State :=
  let s := if (s.site p).bedCause == 0 then
    s.modSite p (fun c => { c with bedErr := reg64 [(off % 2 ^ 30, 0), (b, 32)] }) else s
  s.raise (.bed p) b

/-- SITE_CAUSE with SITE_ERR_INFO (15 R467). -/
def State.raiseSite (s : State) (p b core edge : Nat) : State :=
  let s := if (s.site p).cause == 0 then
    s.modSite p (fun c => { c with errInfo := reg64 [(core, 0), (edge, 5), (b, 8), (s.tickLow, 32)] }) else s
  s.raiseArg (.site p) b (if b == 1 then edge else core)

/-- MC_CAUSE with MC_ERR_INFO (12 R383). -/
def State.raiseMc (s : State) (x b chan addr : Nat) : State :=
  let s := if (s.xd x).mc.cause == 0 then
    s.modMc x (fun c => { c with errInfo := reg64 [(chan, 0), (b, 4), (fld addr 8 40, 8)] }) else s
  s.raise (.mc x) b

/-- FAB_CAUSE with FAB_ERR_INFO (11 R360). -/
def State.raiseFab (s : State) (x b port addr win : Nat) : State :=
  let s := if (s.xd x).fab.cause == 0 then
    s.modFab x (fun c => { c with
      errInfo := reg64 [(port, 0), (b, 4), (addr % 2 ^ 13, 8), (win % 16, 24), (s.tickLow, 32)] }) else s
  s.raise (.fab x) b

/-- TR_CAUSE with TR_ERR_INFO (10 R327). -/
def State.raiseTr (s : State) (x b tag rank step : Nat) : State :=
  let s := if (s.xd x).tr.cause == 0 then
    s.modTr x (fun c => { c with
      errInfo := reg64 [(tag % 4096, 0), (b, 12), (rank % 2 ^ 14, 16), (step % 2 ^ 32, 32)] }) else s
  s.raise (.tr x) b

/-- SEC_CAUSE with SEC_ERR_INFO (14 R442): requester class 0 host, 1 Ethernet, 2 other context, 3 debug, 4 fabric. -/
def State.raiseSec (s : State) (b addr cls : Nat) : State :=
  let s := if s.sec.cause == 0 then
    s.modSec (fun c => { c with errInfo := reg64 [(addr % 2 ^ 48, 0), (cls, 48), (b, 56)] }) else s
  s.raise .sec b

/-- Record an address that met no range in SYS_MAP_FAULT if it is free (12 R379). -/
def State.mapFault (s : State) (a : Nat) : State :=
  if s.gis.mapHole then s else s.modGis (fun g => { g with mapAddr := BitVec.ofNat 48 a, mapHole := true })

/-! ## Numeric status (02 R65, R66) -/

/-- Set nan, inf and sat for a command, with its tag when nan and inf were both 0; of two that set them in one core cycle
the earlier-issued gives the tag (R65, R67). -/
def NumStat.set (n : NumStat) (tag : Half) (order : Nat) (tick : DWord) (nan inf sat : Bool) : NumStat :=
  let n' := { n with nan := n.nan || nan, inf := n.inf || inf, sat := n.sat || sat }
  if (nan || inf) && ((!n.nan && !n.inf) || (n.firstTick == tick && decide (order < n.firstOrder))) then
    { n' with firstTag := tag, firstOrder := order, firstTick := tick }
  else n'

/-- What a command of a core wrote, in CC_NUM_STAT. -/
def State.numStat (s : State) (k : Nat) (tag : Half) (order : Nat) (nan inf sat : Bool) : State :=
  s.modCc k (fun c => { c with numStat := c.numStat.set tag order s.tick nan inf sat })

/-! ## Summaries (15 R463–R468) -/

/-- The key of a presented core of a physical site: 64 × site + physical core. -/
def State.keyOf (s : State) (p c : Nat) : Nat := 64 * p + (s.site p).physCore c

/-- Any masked cause of a core. -/
def Core.pending (c : Core) : Bool :=
  (c.cc.cause &&& c.cc.causeMask) != 0 || (c.me.cause &&& c.me.causeMask) != 0
    || (c.ve.cause &&& c.ve.causeMask) != 0 || (c.se.cause &&& c.se.causeMask) != 0

/-- SITE_CAUSE_SUM of a physical site. -/
def State.siteSum (s : State) (p : Nat) : Nat :=
  bitsOf 32 (fun c => (s.core (s.keyOf p c)).pending)
    + bit (((s.site p).bedCause &&& (s.site p).bedMask) != 0) * 2 ^ 34
    + bit (((s.site p).cause &&& (s.site p).causeMask) != 0) * 2 ^ 35

/-- Whether the bits of a site read 0: fused off, or retired with its lost bit clear (R463). -/
def State.siteSilent (s : State) (p : Nat) : Bool :=
  match sget (fun _ => Role.active) s.grid.roles p with
  | .fusedOff => true
  | .retired => !bitAt s.gis.siteLost.toNat p
  | _ => false

/-- GIS_SITE. -/
def State.gisSite (s : State) : Nat :=
  bitsOf 64 (fun p => !s.siteSilent p &&
    ((BitVec.ofNat 36 (s.siteSum p) &&& (s.site p).sumMask) != 0 || bitAt s.gis.siteLost.toNat p))

/-- XD_CAUSE_SUM. -/
def State.xdSum (s : State) (x : Nat) : Nat :=
  let d := s.xd x
  pack [(bit ((d.mc.cause &&& d.mc.causeMask) != 0), 0), (bit ((d.fab.cause &&& d.fab.causeMask) != 0), 1),
    (bit ((d.tr.cause &&& d.tr.causeMask) != 0), 2), (bit ((d.xdlCause &&& d.xdlMask) != 0), 3),
    (bit (x == 0 && s.gis.mapHole), 4)]

/-- XD_CAUSE_SUM after XD_SUM_MASK. -/
def State.xdMasked (s : State) (x : Nat) : Nat := (BitVec.ofNat 5 (s.xdSum x) &&& (s.xd x).sumMask).toNat

/-- GIS_SYS (R466). -/
def State.gisSys (s : State) : Nat :=
  let xs := List.range 4
  pack [(bitsOf 4 (fun x => bitAt (s.xdMasked x) 0 || bitAt (s.xdMasked x) 3 || bitAt (s.xdMasked x) 4), 0),
    (bit ((s.orr.cause &&& s.orr.causeMask) != 0), 4), (bit ((s.host.cause &&& s.host.causeMask) != 0), 5),
    (bit ((s.pwr.cause &&& s.pwr.causeMask) != 0), 6), (bit ((s.clk.cause &&& s.clk.causeMask) != 0), 7),
    (bit ((s.sec.cause &&& s.sec.causeMask) != 0), 8), (bit (xs.any (fun x => bitAt (s.xdMasked x) 1)), 9),
    (bit (xs.any (fun x => bitAt (s.xdMasked x) 2)), 10), (bit ((s.therm.cause &&& s.therm.causeMask) != 0), 11),
    (bit ((s.sb.cause &&& s.sb.causeMask) != 0), 12)]

/-- INT_N is low, and PLIC source 18 is on, while any masked top bit is 1 (R463). -/
def State.intAsserted (s : State) : Bool :=
  (BitVec.ofNat 64 s.gisSite &&& s.gis.siteMask) != 0 || (BitVec.ofNat 13 s.gisSys &&& s.gis.sysMask) != 0

end Sys2Proof.Machine
end

