-- ==== Sys2Proof/Machine/Map.lean ====
section
/-! DEFINITION. The address map (12 R378), logical and physical view (01 R19–R21), the memories behind it, and what an
access meets there: absent sites, holes, closed regions, encryption, poison. -/

namespace Sys2Proof.Machine

/-! ## Places -/

/-- Where an address of the 48-bit space lies (R378). Site fields are as the requester wrote them. -/
inductive Place where
  | gddr (a : Nat)
  | bed (site off : Nat)
  | core (site core off : Nat)
  | siteReg (site off : Nat)
  | xdReg (x off : Nat)
  | sys (off : Nat)
  | none
deriving DecidableEq, Repr

def gddrBytes : Nat := 0x3000000000
def bedBase : Nat := 0x100000000000
def coreBase : Nat := 0x200000000000
def siteRegBase : Nat := 0x300000000000
def xdRegBase : Nat := 0x310000000000
def sysBase : Nat := 0x320000000000
def mib : Nat := 0x100000
/-- The populated bytes of a bed window, and the start of the parity share (R364). -/
def bedSize : Nat := 768 * mib
def parityBase : Nat := 720 * mib
def chunkSize : Nat := 48 * mib
/-- The firmware region (13 R392). -/
def fwBase : Nat := 0x2FFC000000

/-- Decode an address (R20, R378). -/
def place (a : Nat) : Place :=
  if a < gddrBytes then .gddr a
  else if bedBase ≤ a ∧ a < bedBase + 2 ^ 36 then .bed (fld a 30 6) (a % 2 ^ 30)
  else if coreBase ≤ a ∧ a < coreBase + 2 ^ 34 then .core (fld a 28 6) (fld a 23 5) (a % 2 ^ 23)
  else if siteRegBase ≤ a ∧ a < siteRegBase + 2 ^ 30 then .siteReg (fld a 24 6) (a % 2 ^ 24)
  else if xdRegBase ≤ a ∧ a < xdRegBase + 2 ^ 26 then .xdReg (fld a 24 2) (a % 2 ^ 24)
  else if sysBase ≤ a ∧ a < sysBase + 2 ^ 24 then .sys (a - sysBase)
  else .none

/-! ## Sites -/

/-- SYS_PART_ID.active_sites (00 R2, R7). -/
def Part.activeSites (p : Part) : Nat :=
  match p.grade with
  | 1 => 60
  | 2 => 52
  | 3 => 44
  | _ => 60

def State.role (s : State) (p : Nat) : Role := sget (fun _ => Role.active) s.grid.roles p

/-- The state of a power domain (16 R471–R473, R478, R487). -/
def State.pd (s : State) (d : Nat) : Pd :=
  if s.pwr.off then .off
  else if d < 64 then
    match s.role d with
    | .active =>
      if sget (fun _ => 0) s.pwr.phases d ≥ 2 then .fault
      else if s.pwr.level ≥ 4 || s.warm = .resetting then .retain else .on
    | .spare => .retain
    | .fusedOff => .off
    | .retired => .off
  else if sget (fun _ => 0) s.pwr.phases d ≥ 2 then .fault else .on

/-- A site in retain or off: its windows and per-core registers read 0 and drop writes, with no flag (16 R487). -/
def State.dark (s : State) (p : Nat) : Bool := s.pd p = .retain || s.pd p = .off

/-- A present site: active, or spare available (01 R30). -/
def State.present (s : State) (p : Nat) : Bool :=
  match s.role p with
  | .active => decide (p < 64)
  | .spare => decide (p < 64)
  | _ => false

/-- The physical site that serves a logical ID; none when the ID is absent (01 R21). -/
def State.physOf (s : State) (l : Nat) : Option Nat :=
  if l < s.part.activeSites then sget (fun _ => none) s.grid.map l else none

/-- The logical ID that a physical site serves (01 R24). -/
def State.logicalOf (s : State) (p : Nat) : Option Nat :=
  if s.role p = .active then some (sget (fun _ => 0) s.grid.logical p) else none

/-- A site field in the logical or the physical view (01 R19, R21). -/
def State.siteField (s : State) (logical : Bool) (f : Nat) : Option Nat :=
  if logical then s.physOf f else if s.present f then some f else none

/-- The key of presented core `c` of logical site `l`, none while the site is dark. -/
def State.key (s : State) (l : SiteNo) (c : CoreNo) : Option Nat :=
  ((s.physOf l.toNat).filter (fun p => !s.dark p)).map (fun p => s.keyOf p c.toNat)

/-- Requesters of the physical view (01 R19). -/
def logicalReq : Requester → Bool
  | .orrery _ => false
  | .security => false
  | _ => true

/-- The site and presented core that a core key serves, logical. -/
def State.whoIs (s : State) (k : Nat) : Nat × Nat :=
  let p := k / 64
  ((s.logicalOf p).getD 0, ((List.range 32).find? (fun c => (s.site p).physCore c == k % 64)).getD 0)

/-! ## Sealed closures (14 R438) -/

/-- A context whose closure is in force. -/
def State.sealedNow (s : State) (n : Nat) : Bool := (s.seal n).state != 0

/-- The context whose closure covers a place given in the logical view. -/
def State.closedBy (s : State) (pl : Place) : Option Nat :=
  (List.range 16).find? (fun n => s.sealedNow n &&
    (match pl with
     | .gddr a => (s.seal n).ranges.any (fun r => decide (r.1 ≤ a ∧ a < r.1 + r.2))
     | .bed l _ => bitAt (s.ctx n).desc.sites.toNat l
     | .core l _ _ => bitAt (s.ctx n).desc.sites.toNat l
     | _ => false))

/-- The context whose work a requester carries: for an engine, the context its core runs. -/
def State.ctxOf (s : State) : Requester → Option Nat
  | .engine l c => (s.key l c).bind (fun k => (s.core k).ctx.map BitVec.toNat)
  | _ => none

/-- Requester class of SEC_ERR_INFO (14 R442). -/
def reqCls : Requester → Nat
  | .host => 0
  | .ethernet => 1
  | .engine _ _ => 2
  | .debug => 3
  | .fabric => 4
  | _ => 2

/-- Whether R438 refuses an access. `own` is the context the access belongs to. -/
def State.refusedBySeal (s : State) (req : Requester) (own : Option Nat) (write : Bool) (pl : Place) : Bool :=
  if !logicalReq req then false
  else match s.closedBy pl with
    | some n => !(own == some n)
    | none => write && (match own with
        | some n => s.sealedNow n && (match req with
          | .engine _ _ => true
          | _ => false)
        | none => false)

/-! ## GDDR7 (12 R373–R377, 09 R278) -/

/-- The key slot of an address (R377): its region's, slot 0 in no region. -/
def State.xtsSlot (s : State) (a : Nat) : Nat :=
  match s.gddr.regions.find? (fun r => match r.2 with
      | some g => decide (g.base ≤ a ∧ a < g.limit + 4096)
      | none => false) with
  | some (_, some g) => g.slot.toNat
  | _ => 0

/-- The key generation in a slot; 0 when the slot holds no key. DESIGN CHOICE, assumption 13. -/
def State.slotGen (s : State) (slot : Nat) : Nat := sget (fun _ => 0) s.gddr.slots slot

/-- What an unlisted unit was last written under. -/
def unitDflt (l : List (Nat × Nat × Nat)) (u : Nat) : Nat :=
  match l.find? (fun r => decide (r.1 ≤ u ∧ u < r.2.1)) with
  | some r => r.2.2
  | none => 1

/-- The key generation a 64-byte unit was last written under. DESIGN CHOICE, assumption 13. -/
def Gddr.unitGen (g : Gddr) (u : Nat) : Nat := sget (unitDflt g.unitFill) g.unitKey u

def Gddr.setUnit (g : Gddr) (u gen : Nat) : Gddr := { g with unitKey := sset (unitDflt g.unitFill) g.unitKey u gen }

/-- Units [lo, hi) were all written under one generation. -/
def Gddr.fillUnits (g : Gddr) (lo hi gen : Nat) : Gddr :=
  { g with unitFill := (lo, hi, gen) :: g.unitFill, unitKey := g.unitKey.filter (fun x => decide (x.1 < lo ∨ hi ≤ x.1)) }

/-- XD and channel of an address (R373). -/
def gddrXd (a : Nat) : Nat := a / 256 % 48 / 12
def gddrChan (a : Nat) : Nat := a / 256 % 48 % 12
/-- Row of an address: its 256-byte block within its device (R373). -/
def gddrRow (a : Nat) : Nat := a / 256 / 48
/-- Device byte address (R373). -/
def gddrDevAddr (a : Nat) : Nat := 256 * gddrRow a + a % 256
/-- The bytes of a stripe, and the stripe of an address (R373). -/
def stripeBytes : Nat := 3072
def stripeOf (a : Nat) : Nat := a / stripeBytes
/-- The module addresses of the blocks whose XOR, over ciphertext, the parity device of an XD holds at a row (R373). -/
def stripeBlocks (x row : Nat) : List Nat := (List.range 12).map (fun c => 256 * (48 * row + 12 * x + c))

/-- The stash region that holds an address (09 R279). -/
def State.stashOf (s : State) (a : Nat) : Option (Nat × Stash) :=
  s.gddr.stash.find? (fun r => r.2.en &&
    decide (r.2.base.toNat * mib ≤ a ∧ a < (r.2.base.toNat + r.2.sizeMib.toNat) * mib))

/-- The first metadata byte of a stash region: its last ⌈size / 4096⌉ bytes rounded up to 4 KiB (09 R278). -/
def Stash.metaBase (r : Stash) : Nat :=
  let size := r.sizeMib.toNat * mib
  r.base.toNat * mib + size - ((size / 4096 + 4095) / 4096) * 4096

/-- The address is a metadata byte of an enabled stash region. -/
def State.stashMeta (s : State) (a : Nat) : Bool :=
  match s.stashOf a with
  | some (_, r) => decide (r.metaBase ≤ a)
  | none => false

/-- Whether both devices that could give a block have failed (R375). -/
def State.gddrDead (s : State) (a : Nat) : Bool :=
  let m := (s.xd (gddrXd a)).mc
  m.doubleFault && bitAt m.devFailed.toNat (gddrChan a)

/-- The sectors that a page of a stash region takes (09 R278): none when it is all zero, at most eight. DEDUCED, assumption 39. -/
def State.sectorsOf (s : State) (r : Stash) (page : Nat) : Nat :=
  let bytes := s.gddr.mem.bytes (page * 4096) 4096
  if bytes.all (· == 0) then 0 else min 8 (Config.stashSectors s.part.rev.toNat r.elem.toNat bytes)

/-- The read of an address meets poison of lost devices: its own block, or a stored sector of its stash page (09 R278,
R375). DEDUCED, assumption 39. -/
def State.gddrLost (s : State) (a : Nat) : Bool :=
  match s.stashOf a with
  | some (_, r) =>
    (List.range (2 * s.sectorsOf r (a / 4096))).any (fun i => s.gddrDead (a / 4096 * 4096 + 256 * i))
  | none => s.gddrDead a

/-! ## What an access meets -/

/-- A side effect of an access. -/
inductive MemEv where
  | sbClosed (phys off : Nat)
  | bedHole (phys off : Nat)
  | keyFault (a : Nat)
  | unmapped (a : Nat)
  | absent (a : Nat)
  | fwClosed
  | sealedOut (a cls : Nat)
  | openValue
  | recon (block : Nat)
  | wake (x : Nat)
  | dropped
deriving DecidableEq, Repr

/-- A read: its bytes, whether a word of it is poisoned, and what it met. -/
structure Rd where
  bytes : List Byte
  poison : Bool
  ev : List MemEv
deriving DecidableEq, Repr

def Rd.zero (n : Nat) (ev : List MemEv) : Rd := { bytes := List.replicate n 0, poison := false, ev := ev }

/-- The 64-bit words that `n` bytes at `a` touch. -/
def wordsOf (a n : Nat) : List Nat := (List.range ((a + n + 7) / 8 - a / 8)).map (· + a / 8)

/-- Any poisoned word among those touched. -/
def poisoned (m : Sparse Bool) (a n : Nat) : Bool := (wordsOf a n).any (fun w => sget (fun _ => false) m w)

/-- The bytes of an accumulator buffer range; each value of a poisoned word reads as canonical NaN (03 R93). -/
def Core.accByte (c : Core) (o : Nat) : Byte :=
  let v : Word := if sget (fun _ => false) c.me.accPoison (o / 8) then 0x7FC00000
    else (sget (fun _ => Tile.zero) c.me.tiles (o / 65536)).get (o % 65536 / 4)
  v.extractLsb' (8 * (o % 4)) 8

/-- Read `n` bytes of a core window (08 R231). -/
def Core.winRead (c : Core) (o n : Nat) : Rd :=
  if o < 0x400000 then { bytes := c.sp.bytes o n, poison := poisoned c.spPoison o n, ev := [] }
  else if o < 0x500000 then
    { bytes := (List.range n).map (fun i => c.accByte (o - 0x400000 + i)), poison := false, ev := [] }
  else if 0x600000 ≤ o ∧ o < 0x620000 then { bytes := c.cc.imemA.bytes (o - 0x600000) n, poison := false, ev := [] }
  else if 0x620000 ≤ o ∧ o < 0x640000 then { bytes := c.cc.imemB.bytes (o - 0x620000) n, poison := false, ev := [] }
  else if 0x640000 ≤ o ∧ o < 0x650000 then
    (let o := o - 0x640000
     { bytes := (List.range n).map (fun i =>
         if sget (fun _ => false) c.cc.dmemPoison ((o + i) / 8) then 0 else c.cc.dmem.get (o + i)),
       poison := false, ev := [] })
  else Rd.zero n []

/-- Read GDDR7 bytes that lie in one 64-byte unit (R377, R375, 09 R278). -/
def State.gddrRead (s : State) (a n : Nat) : Rd :=
  let gen := s.slotGen (s.xtsSlot a)
  let x := gddrXd a
  let rc := if bitAt (s.xd x).mc.devFailed.toNat (gddrChan a) && !s.gddrDead a then [MemEv.recon (a / 256)] else []
  let rc := if (s.xd x).mc.selfRefresh then .wake x :: rc else rc
  if gen == 0 then Rd.zero n [.keyFault a]
  else if s.stashMeta a then Rd.zero n []
  else if s.gddrLost a then { bytes := s.gddr.mem.bytes a n, poison := true, ev := rc }
  else if s.gddr.unitGen (a / 64) == gen then
    { bytes := s.gddr.mem.bytes a n, poison := poisoned s.gddr.poison a n, ev := rc }
  else { bytes := (List.range n).map (fun i => Config.freeByte s.freeCtr (a + i)), poison := false,
         ev := .openValue :: rc }

/-- Read the bed of a physical site in a view (R364). -/
def State.bedRead (s : State) (logical : Bool) (p o n : Nat) : Rd :=
  if bedSize ≤ o then Rd.zero n [.bedHole p o]
  else if logical ∧ parityBase ≤ o then Rd.zero n [.sbClosed p o]
  else { bytes := (s.site p).bed.bytes o n, poison := poisoned (s.site p).bedPoison o n, ev := [] }

/-- Read `n` bytes at an address, all in one granule, as a requester of context `own` sees them. Register windows are
not read here. -/
def State.readAs (s : State) (req : Requester) (own : Option Nat) (a n : Nat) : Rd :=
  let pl := place a
  if s.refusedBySeal req own false pl then Rd.zero n [.sealedOut a (reqCls req)]
  else match pl with
    | .gddr a =>
      if fwBase ≤ a then
        (match req with
         | .orrery _ => s.gddrRead a n
         | .host => s.gddrRead a n
         | _ => Rd.zero n [.fwClosed])
      else s.gddrRead a n
    | .bed f o => (match s.siteField (logicalReq req) f with
        | some p => if s.dark p then Rd.zero n [] else s.bedRead (logicalReq req) p o n
        | none => Rd.zero n [.absent a])
    | .core f c o => (match s.siteField (logicalReq req) f with
        | some p => if s.dark p then Rd.zero n [] else (s.core (s.keyOf p c)).winRead o n
        | none => Rd.zero n [.absent a])
    | .none => Rd.zero n [.unmapped a]
    | _ => Rd.zero n []

/-- Apply what accesses met, in order. Absent sites are the requester's to report (00 R5). -/
def State.meetAll (s : State) : List MemEv → State
  | [] => s
  | e :: r =>
    (match e with
     | .sbClosed p o => s.raiseBed p 4 o
     | .bedHole p o => s.raiseBed p 3 o
     | .keyFault a => s.raiseMc (gddrXd a) 4 (gddrChan a) a
     | .unmapped a => s.mapFault a
     | .absent _ => s
     | .fwClosed => s.raise .orr 11
     | .sealedOut a cls => s.raiseSec 0 a cls
     | .openValue => (s.fresh 1).2
     | .recon b => s.modMc (gddrXd (256 * b)) (fun m => { m with reconCnt := m.reconCnt + 1 })
     | .wake x => s.modMc x (fun m => { m with selfRefresh := false })
     | .dropped => s).meetAll r

/-- Apply what one access or one transfer met, once each. -/
def State.meet (s : State) (evs : List MemEv) : State := s.meetAll evs.eraseDups

/-- Some access met an absent site. -/
def lostAny (ev : List MemEv) : Bool := ev.any (fun e => match e with
  | .absent _ => true
  | _ => false)

/-- Some access was refused by a closure. -/
def sealedAny (ev : List MemEv) : Bool := ev.any (fun e => match e with
  | .sealedOut _ _ => true
  | _ => false)

/-! ## Writes -/

/-- Translate an address to the physical view through the graft map (01 R27: at issue). -/
def State.toPhys (s : State) (req : Requester) (a : Nat) : Option Nat :=
  match place a with
  | .bed f o => (s.siteField (logicalReq req) f).map (fun p => bedBase + p * 2 ^ 30 + o)
  | .core f c o => (s.siteField (logicalReq req) f).map (fun p => coreBase + p * 2 ^ 28 + c * 2 ^ 23 + o)
  | _ => some a

/-- The Seedbank group count G (12 R365). -/
def State.groups (s : State) : Nat := s.part.activeSites / 15

/-- Whether a bed offset is in the protected region (R364). -/
def State.isProtected (s : State) (o : Nat) : Bool := s.sb.en && decide (o < chunkSize * s.sb.protChunks.toNat)

/-- While a site is rebuilt, its own group lacks a member, and the chunk whose parity it holds lacks its parity (R370). -/
def State.inRebuild (s : State) (l o : Nat) : Bool :=
  s.sb.state == 3 && (match s.logicalOf s.sb.rebuildSite.toNat with
    | some m => l % s.groups == m % s.groups || o / chunkSize * s.groups + (l % s.groups + 1) % s.groups == m
    | none => false)

/-- Whether parity covers a bed offset of a physical site (R365, R368): protected region, Seedbank in state 2, 3 or 4, a
group whose parity is valid, and no rebuild that takes a source away. -/
def State.covered (s : State) (p o : Nat) : Bool :=
  s.isProtected o && (s.sb.state == 2 || s.sb.state == 3 || s.sb.state == 4) &&
    (match s.logicalOf p with
     | some l => !bitAt s.sb.unprot.toNat (l % s.groups) && !s.inRebuild l o
     | none => false)

/-- A write under an empty key slot is dropped with key_fault (R377). -/
def State.keyCheck (s : State) (a : Nat) : Option MemEv :=
  if s.slotGen (s.xtsSlot a) == 0 then some (.keyFault a) else none

/-- What a write of bytes at an address meets before anything is written: none when it may land. -/
def State.writeCheck (s : State) (req : Requester) (own : Option Nat) (a : Nat) : Option MemEv :=
  let pl := place a
  if s.refusedBySeal req own true pl then some (.sealedOut a (reqCls req))
  else match pl with
    | .gddr a =>
      if fwBase ≤ a then
        (match req with
         | .orrery _ => s.keyCheck a
         | .host => if 0x2FFD000000 ≤ a ∧ a < 0x2FFF000000 then s.keyCheck a else some .fwClosed
         | _ => some .fwClosed)
      else s.keyCheck a
    | .bed f o => (match s.siteField (logicalReq req) f with
        | some p => if s.dark p then some .dropped else if bedSize ≤ o then some (.bedHole p o)
            else if (logicalReq req) ∧ parityBase ≤ o then some (.sbClosed p o) else none
        | none => some (.absent a))
    | .core f _ _ => (match s.siteField (logicalReq req) f with
        | some p => if s.dark p then some .dropped else none
        | none => some (.absent a))
    | .none => some (.unmapped a)
    | _ => none

/-- The byte a masked write leaves. -/
def Wr.over (w : Wr) (old : Byte) : Byte := (old &&& ~~~w.mask) ||| (w.b &&& w.mask)

def Mem.put (m : Mem) (a : Nat) (w : Wr) : Mem := m.set a (w.over (m.get a))

/-- Write one byte of GDDR7 under the key of its slot. A unit last written under another key is undefined first
(R377). Metadata bytes of a stash region are dropped (09 R278). -/
def State.gddrPut (s : State) (a : Nat) (w : Wr) : State :=
  let gen := s.slotGen (s.xtsSlot a)
  if gen == 0 || s.stashMeta a then s
  else
    let s := if (s.xd (gddrXd a)).mc.selfRefresh then s.modMc (gddrXd a) (fun m => { m with selfRefresh := false }) else s
    let g := s.gddr
    if g.unitGen (a / 64) == gen then { s with gddr := { g with mem := g.mem.put a w } }
    else
      let (n, s) := s.fresh 1
      let m := g.mem.spoil (a / 64 * 64) (a / 64 * 64 + 64) n
      { s with gddr := ({ g with mem := m.put a w } : Gddr).setUnit (a / 64) gen }

/-- Write one byte of the accumulator buffer; a write merged under SECDED keeps the rest of its word (08 R231). -/
def Core.accPut (c : Core) (o : Nat) (w : Wr) : Core :=
  let t := sget (fun _ => Tile.zero) c.me.tiles (o / 65536)
  let k := o % 65536 / 4
  let sh := 8 * (o % 4)
  let v := (t.get k &&& ~~~(w.mask.setWidth 32 <<< sh)) ||| ((w.b &&& w.mask).setWidth 32 <<< sh)
  { c with me := { c.me with tiles := sset (fun _ => Tile.zero) c.me.tiles (o / 65536) (t.set k v) } }

/-- Write one byte of a core window; IMEM is written through its own rules (08 R250). -/
def Core.winPut (c : Core) (o : Nat) (w : Wr) : Core :=
  if o < 0x400000 then { c with sp := c.sp.put o w }
  else if o < 0x500000 then c.accPut (o - 0x400000) w
  else if 0x600000 ≤ o ∧ o < 0x620000 then { c with cc := { c.cc with imemA := c.cc.imemA.put (o - 0x600000) w } }
  else if 0x620000 ≤ o ∧ o < 0x640000 then { c with cc := { c.cc with imemB := c.cc.imemB.put (o - 0x620000) w } }
  else if 0x640000 ≤ o ∧ o < 0x650000 then { c with cc := { c.cc with dmem := c.cc.dmem.put (o - 0x640000) w } }
  else c

/-- Queue a byte for a protected block (R366): into the newest unsent write of the same block, else as a new write. -/
def ProtWrite.enqueue (o : Nat) (b : Wr) : List ProtWrite → List ProtWrite
  | [] => [{ off := o / 64 * 64, bytes := [{ b with a := o % 64 }], sent := false, acked := false }]
  | [w] =>
    if w.off == o / 64 * 64 && !w.sent then [{ w with bytes := w.bytes ++ [{ b with a := o % 64 }] }]
    else [w, { off := o / 64 * 64, bytes := [{ b with a := o % 64 }], sent := false, acked := false }]
  | w :: r => w :: ProtWrite.enqueue o b r

/-- Write one byte at an address of the physical view. A byte of the protected region waits in its bed controller for
the parity delta (R366). -/
def State.putByte (s : State) (w : Wr) : State :=
  match place w.a with
  | .gddr a => s.gddrPut a w
  | .bed p o =>
    if s.isProtected o then s.modSite p (fun t => { t with writes := ProtWrite.enqueue o w t.writes })
    else if o < bedSize then s.modSite p (fun t => { t with bed := t.bed.put o w })
    else s
  | .core p c o => s.modCore (s.keyOf p c) (fun k => k.winPut o w)
  | _ => s

/-- The poison of the 64-bit word at an address of the physical view (07 R190, 12 R369). -/
def State.setPoison (s : State) (a : Nat) (v : Bool) : State :=
  match place a with
  | .gddr a => { s with gddr := { s.gddr with poison := sset (fun _ => false) s.gddr.poison (a / 8) v } }
  | .bed p o => s.modSite p (fun t => { t with bedPoison := sset (fun _ => false) t.bedPoison (o / 8) v })
  | .core p c o =>
    s.modCore (s.keyOf p c) (fun k =>
      if o < 0x400000 then { k with spPoison := sset (fun _ => false) k.spPoison (o / 8) v }
      else if o < 0x500000 then
        { k with me := { k.me with accPoison := sset (fun _ => false) k.me.accPoison ((o - 0x400000) / 8) v } }
      else if 0x640000 ≤ o ∧ o < 0x650000 then
        { k with cc := { k.cc with dmemPoison := sset (fun _ => false) k.cc.dmemPoison ((o - 0x640000) / 8) v } }
      else k)
  | _ => s

/-- The start addresses of the 64-bit words that a list of writes covers whole: their poison clears. -/
def wholeWords (ws : List Wr) : List Nat :=
  ((ws.map Wr.a).filter (fun a => a % 8 == 0)).filter (fun a =>
    (List.range 8).all (fun i => ws.any (fun w => w.a == a + i && w.mask == 0xFF)))

/-- SYS_STASH_LOGICAL and SYS_STASH_STORED for a list of writes (09 R279): the bytes written, eight written bits a
byte, and the sector bytes of each page written, after the write. -/
def State.stashCount (s : State) (ws : List Wr) : State :=
  let inStash := ws.filter (fun w => decide (w.a < gddrBytes) && (s.stashOf w.a).isSome && !s.stashMeta w.a)
  let pages := (inStash.map (fun w => w.a / 4096)).eraseDups
  let bits := (inStash.map (fun w => (onesOf 8 w.mask.toNat).length)).sum
  let sectors := pages.map (fun pg => match s.stashOf (pg * 4096) with
    | some (_, r) => s.sectorsOf r pg
    | none => 0)
  if inStash.isEmpty then s
  else { s with gddr := { s.gddr with logical := s.gddr.logical + BitVec.ofNat 64 ((bits + 7) / 8),
                                      stored := s.gddr.stored + BitVec.ofNat 64 (512 * sectors.sum) } }

/-- The write goes to a site that is no longer in service (01 R27: it is discarded). -/
def State.wrGone (s : State) (w : Wr) : Bool :=
  match place w.a with
  | .bed p _ => !s.present p
  | .core p _ _ => !s.present p
  | _ => false

/-- The address, in the physical view, lies in a protected region: its writes land at the bed controller later (R366). -/
def State.inProtected (s : State) (a : Nat) : Bool :=
  match place a with
  | .bed _ o => s.isProtected o
  | _ => false

/-- Land writes at addresses of the physical view, in order; those to a site that is gone are dropped (01 R27). -/
def State.land (s : State) (ws : List Wr) : State :=
  let ws := ws.filter (fun w => !s.wrGone w)
  let s := ws.foldl State.putByte s
  let s := ((wholeWords ws).filter (fun a => !s.inProtected a)).foldl (fun s a => s.setPoison a false) s
  s.stashCount ws

/-- Whether protected blocks of a list of writes are still on their way (R366). -/
def State.protBusy (s : State) (ws : List Wr) : Bool :=
  ws.any (fun w => match place w.a with
    | .bed p o => (s.site p).writes.any (fun q => q.off == o / 64 * 64)
    | _ => false)

/-- Check and translate the writes of a requester, giving those that may land (physical view) and what the others met
(one event per refused byte address). -/
def State.issueWrites (s : State) (req : Requester) (own : Option Nat) (ws : List Wr) : List Wr × List MemEv :=
  let r := ws.foldl (fun (acc : List Wr × List MemEv) w =>
    match s.writeCheck req own w.a with
    | some e => (acc.1, e :: acc.2)
    | none => match s.toPhys req w.a with
      | some a => ({ w with a := a } :: acc.1, acc.2)
      | none => (acc.1, .absent w.a :: acc.2)) ([], [])
  (r.1.reverse, r.2.reverse)

/-- Bytes at consecutive addresses. -/
def bytesAt : Nat → List Byte → List Wr
  | _, [] => []
  | a, b :: r => { a := a, b := b, mask := 0xFF } :: bytesAt (a + 1) r

/-- A write by a requester that is no engine: checked, reported and landed. Absent sites enter SYS_MAP_FAULT (00 R5). -/
def State.writeNow (s : State) (req : Requester) (own : Option Nat) (a : Nat) (bs : List Byte) : State :=
  let (ws, ev) := s.issueWrites req own (bytesAt a bs)
  let s := s.meet ev
  let s := if lostAny ev then s.mapFault a else s
  s.land ws

/-- A read by a requester that is no engine. -/
def State.readNow (s : State) (req : Requester) (own : Option Nat) (a n : Nat) : List Byte × State :=
  let r := s.readAs req own a n
  let s := s.meet r.ev
  (r.bytes, if lostAny r.ev then s.mapFault a else s)

/-- The first addresses of the 64-byte units that a run touches, within the run. -/
def unitStarts (a n : Nat) : List Nat := ((List.range n).map (a + ·)).filter (fun x => x == a || x % 64 == 0)

/-- What a read of a run meets, unit by unit. -/
def State.spanEv (s : State) (req : Requester) (own : Option Nat) (a n : Nat) : List MemEv :=
  (unitStarts a n).flatMap (fun x => (s.readAs req own x 1).ev)

/-- What an access of a requester that is no engine met is recorded, absent sites in SYS_MAP_FAULT (00 R5). -/
def State.met (s : State) (a : Nat) (ev : List MemEv) : State :=
  let s := s.meet ev
  if lostAny ev then s.mapFault a else s

/-- A requester that is no engine has read a run. -/
def State.seenRun (s : State) (req : Requester) (own : Option Nat) (a n : Nat) : State := s.met a (s.spanEv req own a n)

/-- Several runs have been read. -/
def State.seenRuns (s : State) (req : Requester) (l : List (Nat × Nat)) : State := l.foldl (fun s r => s.seenRun req none r.1 r.2) s

/-- Read a run that may span many granules, 64 bytes at a time, as the orrery or the module's own hardware does. -/
def State.readRun (s : State) (req : Requester) (a n : Nat) : List Byte :=
  (List.range n).flatMap (fun i => (s.readAs req none (a + i) 1).bytes)

end Sys2Proof.Machine
end

