-- ==== Sys2Proof/Machine/Routes.lean ====
section
/-! DEFINITION. The mesh: bridge edges between sites and to the I/O dies (01 R30), and the route tables that the orrery
writes (01 R31, 15 R457). -/

namespace Sys2Proof.Machine

/-- The neighbour of a site over an edge: 0 north, 1 east, 2 south, 3 west. -/
def neighbour (p e : Nat) : Option Nat :=
  match e with
  | 0 => if p < 8 then none else some (p - 8)
  | 1 => if p % 8 == 7 then none else some (p + 1)
  | 2 => if p ≥ 56 then none else some (p + 8)
  | _ => if p % 8 == 0 then none else some (p - 1)

/-- The node of an I/O die in the mesh: sites are nodes 0–63. -/
def dieNode (x : Nat) : Nat := 64 + x

/-- What lies at the far end of an edge of a site: its neighbour, or at the rim the bridge to the I/O die of that side
(XD0 north, XD1 east, XD2 south, XD3 west, R17, R30). -/
def farEnd (p e : Nat) : Nat := (neighbour p e).getD (dieNode e)

/-- A bridge edge as its two ends, the lower first. -/
def edgePair (p q : Nat) : Nat × Nat := (min p q, max p q)

/-- The edge is there (both ends present, an I/O die always is) and has not failed (R30, R457). -/
def State.edgeLive (s : State) (p e : Nat) : Bool :=
  let q := farEnd p e
  s.present p && (decide (64 ≤ q) || s.present q) && !s.grid.edges.contains (edgePair p q)

/-- The sites that one live edge joins to a node. -/
def State.linkedTo (s : State) (n : Nat) : List Nat :=
  if n < 64 then ((List.range 4).filter (s.edgeLive n)).filterMap (neighbour n)
  else (List.range 64).filter (fun p => farEnd p (n - 64) == n && s.edgeLive p (n - 64))

/-- Nodes at distance 0, 1, 2, … from the last frontier, over live edges; only sites pass traffic on. -/
def State.distLevels (s : State) : Nat → List Nat → List Nat → List (List Nat)
  | 0, _, _ => []
  | n + 1, seen, front =>
    let next := (front.flatMap s.linkedTo).eraseDups.filter (fun q => !seen.contains q)
    front :: s.distLevels n (seen ++ next) next

/-- Edges in the order in which shortest paths that tie are taken: along the column, then along the row (R31). Of two
along the column, or along the row, the lower-numbered. DESIGN CHOICE, assumption 84. -/
def edgeOrder : List Nat := [0, 2, 1, 3]

/-- The output edge of a site's router on a shortest path to a node whose levels are given; none at the destination and
where no path leads there. -/
def State.outputEdge (s : State) (levels : List (List Nat)) (p : Nat) : Option Nat :=
  match levels[levels.findIdx (fun l => l.contains p) - 1]? with
  | some near => if (levels.head?.getD []).contains p || !levels.any (fun l => l.contains p) then none
      else edgeOrder.find? (fun e => s.edgeLive p e && near.contains (farEnd p e))
  | none => none

/-- Key of a router's entry for a destination: a site, or 64 + an I/O die. -/
def routeKey (p d : Nat) : Nat := 68 * p + d

/-- The route tables of all routers (R31). -/
def State.routeTables (s : State) : Sparse (Option Nat) :=
  (List.range 68).foldl (fun m d =>
    let levels := s.distLevels 68 [d] [d]
    (List.range 64).foldl (fun m p => sset (fun _ => none) m (routeKey p d) (if s.present p then s.outputEdge levels p else none)) m) []

/-- The orrery writes the route tables anew: they avoid every absent site and every failed edge (R31, R457). -/
def State.rewriteRoutes (s : State) : State :=
  { s with grid := { s.grid with
      routeAvoid := (List.range 64).filter (fun p => !s.present p), routeEdges := s.grid.edges, routes := s.routeTables } }

/-- The failed edges of a site. -/
def State.edgesLost (s : State) (p : Nat) : Nat := (s.grid.edges.filter (fun e => e.1 == p || e.2 == p)).length

end Sys2Proof.Machine
end

