-- ==== Sys2Proof/Machine/Crypto.lean ====
section
/-! DEFINITION. The published algorithms that the manual names and that its commands run (00_scope.md, Standards): SHAKE256
(FIPS 202) and AES-256-GCM (FIPS 197, SP 800-38D). Falcon-1024 and ML-KEM-1024 are constants of Config (assumption 11). -/

namespace Sys2Proof.Machine

/-- Apply `k` to a number that is evaluated first, so that the kernel goes on with a literal: `strict n k = k n`. -/
def strict {α : Type} (n : Nat) (k : Nat → α) : α :=
  match n with
  | 0 => k 0
  | m + 1 => k (m + 1)

/-- The same for a list of numbers. -/
def strictList {α : Type} : List Nat → (List Nat → α) → α
  | [], k => k []
  | a :: r, k => strict a fun a => strictList r fun r => k (a :: r)

/-! ## SHAKE256 -/

/-- A 64-bit lane rotated left. -/
def rotl64 (x n : Nat) : Nat := (x <<< n ||| x >>> (64 - n)) % 2 ^ 64

/-- Rotations of step ρ, lane x + 5y. -/
def keccakRot : List Nat := [0, 1, 62, 28, 27, 36, 44, 6, 55, 20, 3, 10, 43, 25, 39, 41, 45, 15, 21, 8, 18, 2, 61, 56, 14]

/-- Round constants of step ι. -/
def keccakRc : List Nat :=
  [0x1, 0x8082, 0x800000000000808A, 0x8000000080008000, 0x808B, 0x80000001,
   0x8000000080008081, 0x8000000000008009, 0x8A, 0x88, 0x80008009, 0x8000000A,
   0x8000808B, 0x800000000000008B, 0x8000000000008089, 0x8000000000008003, 0x8000000000008002, 0x8000000000000080,
   0x800A, 0x800000008000000A, 0x8000000080008081, 0x8000000000008080, 0x80000001, 0x8000000080008008]

def keccakTheta (a : List Nat) : List Nat :=
  strictList ((List.range 5).map (fun x => (List.range 5).foldl (fun v y => v ^^^ a.getD (x + 5 * y) 0) 0)) fun c =>
  strictList ((List.range 5).map (fun x => c.getD ((x + 4) % 5) 0 ^^^ rotl64 (c.getD ((x + 1) % 5) 0) 1)) fun d =>
  (List.range 25).map (fun i => a.getD i 0 ^^^ d.getD (i % 5) 0)

def keccakRhoPi (a : List Nat) : List Nat :=
  (List.range 25).map (fun i =>
    let j := (i % 5 + 3 * (i / 5)) % 5 + 5 * (i % 5)
    rotl64 (a.getD j 0) (keccakRot.getD j 0))

def keccakChi (b : List Nat) : List Nat :=
  (List.range 25).map (fun i =>
    let at_ (k : Nat) : Nat := b.getD ((i + k) % 5 + i / 5 * 5) 0
    at_ 0 ^^^ ((at_ 1 ^^^ (2 ^ 64 - 1)) &&& at_ 2))

/-- Keccak-f[1600] on 25 lanes. -/
def keccakF (a : List Nat) : List Nat :=
  keccakRc.foldl (fun a rc =>
    strictList (keccakTheta a) fun a => strictList (keccakRhoPi a) fun a => match keccakChi a with
      | [] => []
      | l :: r => strictList ((l ^^^ rc) :: r) id) a

/-- Bytes of a block as lanes. -/
def lanesOf (bs : List Byte) : List Nat := (List.range 25).map (fun i => leNat ((bs.drop (8 * i)).take 8))

/-- The padded message: 1111, then 10*1 to the rate of 136 bytes. -/
def shakePad (bs : List Byte) : List Byte :=
  let k := 136 - bs.length % 136
  bs ++ (List.range k).map (fun i => (if i = 0 then 0x1F else 0) ||| (if i + 1 = k then 0x80 else 0))

def shakeSqueeze : Nat → List Nat → List Byte
  | 0, _ => []
  | n + 1, a => (a.flatMap (leBytes 8)).take 136 ++ shakeSqueeze n (keccakF a)

/-- SHAKE256 of a byte string with an output of `n` bytes. PRESUMED, assumption 11. -/
def shake256 (bs : List Byte) (n : Nat) : List Byte :=
  let p := shakePad bs
  let a := (List.range (p.length / 136)).foldl (fun a i =>
    strictList (List.zipWith (· ^^^ ·) a (lanesOf ((p.drop (136 * i)).take 136))) keccakF) (List.replicate 25 0)
  (shakeSqueeze ((n + 135) / 136) a).take n

/-! ## AES-256 -/

/-- The S-box, 32 entries a number, the lowest first. -/
def aesSboxRows : List Nat :=
  [0xC072A49CAFA2D4ADF04759FA7DC982CA76ABD7FE2B670130C56F6BF27B777C63,
   0x75B227EBE28012079A059618C323C7041531D871F1E5A534CCF73F362693FDB7,
   0xCF584C4A39BECB6A5BB1FC20ED00D153842FE329B3D63B52A05A6E1B1A2C8309,
   0xD2F3FF1021DAB6BCF5389D928F40A351A89F3C507F02F94585334D43FBAAEFD0,
   0xDB0B5EDE14B8EE4688902A22DC4F816073195D643D7EA7C41744975FEC130CCD,
   0x08AE7A65EAF4566CA94ED58D6D37C8E779E4959162ACD3C25C2406490A3A32E0,
   0x9E1DC186B95735610EF6034866B53E708A8BBD4B1F74DDE8C6B4A61C2E2578BA,
   0x16BB54B00F2D99416842E6BF0D89A18CDF2855CEE9871E9B948ED9691198F8E1]

def aesSub (b : Nat) : Nat := (aesSboxRows.getD (b / 32) 0 >>> (8 * (b % 32))) % 256

/-- Times x in GF(2⁸). -/
def aesX (b : Nat) : Nat := if b < 128 then 2 * b else (2 * b) ^^^ 0x11B

/-- The next word of the key schedule: words so far, newest first, and the number of the word. -/
def aesNext (ws : List (List Nat)) (i : Nat) : List Nat :=
  let t := ws.headD []
  let t := if i % 8 == 0 then (match (t.drop 1 ++ t.take 1).map aesSub with
      | [] => []
      | b :: r => (b ^^^ 2 ^ (i / 8 - 1)) :: r)
    else if i % 8 == 4 then t.map aesSub else t
  strictList (List.zipWith (· ^^^ ·) (ws.getD 7 []) t) id

/-- The 15 round keys of a 32-byte key. -/
def aesKeys (key : List Byte) : List (List Nat) :=
  let k := key.map BitVec.toNat
  let start := (List.range 8).map (fun i => (k.drop (4 * i)).take 4)
  let ws := (List.range 52).foldl (fun ws j => aesNext ws (j + 8) :: ws) start.reverse
  let ws := ws.reverse
  (List.range 15).map (fun r => ((ws.drop (4 * r)).take 4).flatten)

def aesShift (s : List Nat) : List Nat := (List.range 16).map (fun i => s.getD ((i + 4 * (i % 4)) % 16) 0)

def aesMix (s : List Nat) : List Nat :=
  (List.range 16).map (fun i =>
    let at_ (k : Nat) : Nat := s.getD (i / 4 * 4 + (i + k) % 4) 0
    aesX (at_ 0) ^^^ aesX (at_ 1) ^^^ at_ 1 ^^^ at_ 2 ^^^ at_ 3)

/-- One block under the round keys. -/
def aesBlock (ks : List (List Nat)) (b : List Nat) : List Nat :=
  let add (s : List Nat) (r : Nat) : List Nat := strictList (List.zipWith (· ^^^ ·) s (ks.getD r [])) id
  let s := (List.range 13).foldl (fun s r => strictList (aesShift (s.map aesSub)) fun s => add (aesMix s) (r + 1)) (add b 0)
  add (aesShift (s.map aesSub)) 14

/-! ## GCM -/

/-- The big-endian number of a byte list. -/
def beNum (l : List Nat) : Nat := l.foldl (fun v b => 256 * v + b) 0

/-- Big-endian bytes of a number. -/
def beList (n v : Nat) : List Nat := (List.range n).map (fun i => v / 256 ^ (n - 1 - i) % 256)

/-- `z + x v` in GF(2¹²⁸), the coefficient of x⁰ in the highest bit, over the lowest `f` bits of x. -/
def ghashGo : Nat → Nat → Nat → Nat → Nat
  | 0, _, _, z => z
  | f + 1, x, v, z =>
    strict (if bitAt x f then z ^^^ v else z) fun z => strict (if v % 2 == 1 then v / 2 ^^^ 0xE1 <<< 120 else v / 2) fun v => ghashGo f x v z

def ghashMul (x h : Nat) : Nat := ghashGo 128 x h 0

/-- A list in blocks of 16, the last one padded with zeros. -/
def blocks16 (l : List Nat) : List (List Nat) :=
  (List.range ((l.length + 15) / 16)).map (fun i => ((l.drop (16 * i)).take 16 ++ List.replicate 16 0).take 16)

def ghash (h : Nat) (aad ct : List Nat) : Nat :=
  (blocks16 aad ++ blocks16 ct ++ [beList 8 (8 * aad.length) ++ beList 8 (8 * ct.length)]).foldl
    (fun y b => strict (y ^^^ beNum b) fun x => strict (ghashMul x h) id) 0

/-- CTR mode from counter 2 on, under a 12-byte nonce. -/
def gcmCtr (ks : List (List Nat)) (nonce : List Nat) (data : List Nat) : List Nat :=
  ((List.range ((data.length + 15) / 16)).flatMap (fun i =>
    List.zipWith (· ^^^ ·) ((data.drop (16 * i)).take 16) (aesBlock ks (nonce ++ beList 4 ((i + 2) % 2 ^ 32)))))

def gcmTag (ks : List (List Nat)) (nonce aad ct : List Nat) : List Nat :=
  strict (beNum (aesBlock ks (List.replicate 16 0))) fun h =>
  List.zipWith (· ^^^ ·) (beList 16 (ghash h aad ct)) (aesBlock ks (nonce ++ [0, 0, 0, 1]))

def toBytes (l : List Nat) : List Byte := l.map (BitVec.ofNat 8)

/-- AES-256-GCM encryption: key, 12-byte nonce, associated data, plaintext, giving ciphertext and tag. PRESUMED, assumption 11. -/
def gcmSeal (key nonce aad pt : List Byte) : List Byte × List Byte :=
  let ks := aesKeys key
  let n := nonce.map BitVec.toNat
  let ct := gcmCtr ks n (pt.map BitVec.toNat)
  (toBytes ct, toBytes (gcmTag ks n (aad.map BitVec.toNat) ct))

/-- AES-256-GCM decryption: key, nonce, associated data, ciphertext, tag; none when the tag does not verify. PRESUMED, assumption 11. -/
def gcmOpen (key nonce aad ct tag : List Byte) : Option (List Byte) :=
  let ks := aesKeys key
  let n := nonce.map BitVec.toNat
  let c := ct.map BitVec.toNat
  if toBytes (gcmTag ks n (aad.map BitVec.toNat) c) = tag then some (toBytes (gcmCtr ks n c)) else none

end Sys2Proof.Machine
end

