-- ==== Sys2Proof/Machine/Num.lean ====
section
/-! DEFINITION. Number formats, exact values, rounding and FP32 arithmetic (02_numerics.md). A value is NaN, a signed
infinity, or exactly ±m·2^e. -/

namespace Sys2Proof.Machine

/-- An exact value (02 R44, R63: NaN payloads and signs are not propagated). -/
inductive Val where
  | nan
  | inf (neg : Bool)
  | fin (neg : Bool) (m : Nat) (e : Int)
deriving DecidableEq, Repr

def Val.zero : Val := .fin false 0 0

/-- The value is a NaN. -/
def Val.isNan : Val → Bool
  | .nan => true
  | _ => false

def Val.isInf : Val → Bool
  | .inf _ => true
  | _ => false

/-- The value is a zero of either sign. -/
def Val.isZero : Val → Bool
  | .fin _ m _ => m == 0
  | _ => false

def Val.isNeg : Val → Bool
  | .nan => false
  | .inf n => n
  | .fin n _ _ => n

/-- What the top exponent code of a format means (R44, R45): infinity and NaN, one NaN code (F8f), or a number
(F4b elements). -/
inductive Top where
  | ieee | oneNan | none
deriving DecidableEq, Repr

/-- A floating-point layout (R45): exponent width, fraction width, bias, top code. -/
structure Layout where
  eb : Nat
  fb : Nat
  bias : Nat
  top : Top
deriving DecidableEq, Repr

def layFp32 : Layout := { eb := 8, fb := 23, bias := 127, top := .ieee }
def layBf16 : Layout := { eb := 8, fb := 7, bias := 127, top := .ieee }
def layFp16 : Layout := { eb := 5, fb := 10, bias := 15, top := .ieee }
def layG16 : Layout := { eb := 6, fb := 9, bias := 31, top := .ieee }
def layF8f : Layout := { eb := 4, fb := 3, bias := 7, top := .oneNan }
def layF8b : Layout := { eb := 5, fb := 2, bias := 15, top := .ieee }
def layF4b : Layout := { eb := 2, fb := 1, bias := 1, top := .none }

/-- The largest positive finite code (R46). -/
def Layout.maxCode (l : Layout) : Nat :=
  match l.top with
  | .ieee => (2 ^ l.eb - 1) * 2 ^ l.fb - 1
  | .oneNan => 2 ^ (l.eb + l.fb) - 2
  | .none => 2 ^ (l.eb + l.fb) - 1

/-- The code of +∞ where the format has one (R46). -/
def Layout.infCode (l : Layout) : Nat := (2 ^ l.eb - 1) * 2 ^ l.fb

/-- The canonical NaN (R46). -/
def Layout.nanCode (l : Layout) : Nat :=
  match l.top with
  | .ieee => l.infCode + 2 ^ (l.fb - 1)
  | _ => 2 ^ (l.eb + l.fb) - 1

def Layout.signBit (l : Layout) : Nat := 2 ^ (l.eb + l.fb)

/-- The value of a code (R44, R45). -/
def Layout.decode (l : Layout) (c : Nat) : Val :=
  let neg := c / l.signBit % 2 == 1
  let e := c / 2 ^ l.fb % 2 ^ l.eb
  let m := c % 2 ^ l.fb
  let top := e == 2 ^ l.eb - 1
  if top && l.top == .ieee then (if m == 0 then .inf neg else .nan)
  else if top && l.top == .oneNan && m == 2 ^ l.fb - 1 then .nan
  else if e == 0 then .fin neg m (1 - (l.bias : Int) - l.fb)
  else .fin neg (2 ^ l.fb + m) ((e : Int) - l.bias - l.fb)

/-! ## Rounding (R51–R56) -/

/-- A mixing round of R56. -/
def mix64 (z : DWord) : DWord :=
  let z := (z ^^^ (z >>> 31)) * 0xC2B73E59A04D16F3#64
  let z := (z ^^^ (z >>> 29)) * 0x8F1D6A27B35CE0D9#64
  z ^^^ (z >>> 32)

/-- The key of a keyed stochastic rounding but for the index (R56). -/
structure SrKey where
  ctxKey : DWord
  step : Word
  tag : BitVec 12
  seq : Half
deriving DecidableEq, Repr

/-- The generator of R56. -/
def srBits (k : SrKey) (index : Nat) : Word :=
  let a := mix64 (k.ctxKey ^^^ (k.seq.setWidth 64 <<< 44) ^^^ (k.step.setWidth 64 <<< 12) ^^^ k.tag.setWidth 64)
  let r := mix64 (a ^^^ BitVec.ofNat 64 (index % 2 ^ 48))
  r.extractLsb' 32 32

/-- A reserved rnd encoding (R51, R52). -/
def rndReserved (r : BitVec 3) : Bool := r == 3 || r == 7

/-- A rounding request: the 3-bit rnd field and the 24-bit value R of R55 (read only by SR modes). -/
structure Rnd where
  mode : BitVec 3
  r24 : Nat
deriving DecidableEq, Repr

/-- Nearest even without saturation (R54). -/
def rne : Rnd := { mode := 0, r24 := 0 }

/-- The rounding of one element under a command's mode and key (R55, R56). -/
def rndAt (mode : BitVec 3) (k : SrKey) (index : Nat) : Rnd :=
  { mode := mode, r24 := if mode.extractLsb' 0 2 == 2 then (srBits k index).toNat / 256 else 0 }

/-- Round magnitude m·2^e to a multiple of 2^u, giving the multiple (R51, R55). -/
def roundQ (rn : Rnd) (m : Nat) (e u : Int) : Nat :=
  if u ≤ e then m * 2 ^ (e - u).toNat
  else
    let sh := (u - e).toNat
    let q := m / 2 ^ sh
    let r := m % 2 ^ sh
    match rn.mode.extractLsb' 0 2 with
    | 0 => if 2 * r > 2 ^ sh || (2 * r == 2 ^ sh && q % 2 == 1) then q + 1 else q
    | 2 => if rn.r24 < r * 2 ^ 24 / 2 ^ sh then q + 1 else q
    | _ => q

/-- m·2^e > n·2^f, exactly. -/
def magGt (m : Nat) (e : Int) (n : Nat) (f : Int) : Bool :=
  if f ≤ e then decide (m * 2 ^ (e - f).toNat > n) else decide (m > n * 2 ^ (f - e).toNat)

/-- A converted element: its code and what R65 reports of it. -/
structure Cv where
  code : Nat
  nan : Bool
  inf : Bool
  sat : Bool
deriving DecidableEq, Repr

/-- The exponent of the ulp of a magnitude m·2^e > 0 in a format: the subnormal spacing at least, the largest
binade's ulp at most (R55). -/
def Layout.ulpExp (l : Layout) (m : Nat) (e : Int) : Int :=
  let top : Int := (l.maxCode / 2 ^ l.fb : Nat) - (l.bias : Int) - l.fb
  min top (max ((Nat.log2 m : Int) + e - l.fb) (1 - (l.bias : Int) - l.fb))

/-- Convert an exact value to a floating format (R51–R55). -/
def Layout.encode (l : Layout) (rn : Rnd) : Val → Cv
  | .nan => { code := l.nanCode, nan := true, inf := false, sat := false }
  | .inf n =>
    match l.top with
    | .ieee => { code := l.infCode + (if n then l.signBit else 0), nan := false, inf := true, sat := false }
    | _ => { code := l.nanCode, nan := true, inf := false, sat := false }
  | .fin n m e =>
    let s := if n then l.signBit else 0
    if m == 0 then { code := s, nan := false, inf := false, sat := false }
    else
      let u := l.ulpExp m e
      let q := roundQ rn m e u
      let base : Nat := (u + l.fb + l.bias - 1).toNat * 2 ^ l.fb
      let maxQ := l.maxCode - base
      let satMode := rn.mode.extractLsb' 2 1 == 1
      let isMaxBinade := decide (base + 2 ^ l.fb ≤ l.maxCode + 1) && decide (l.maxCode < base + 2 * 2 ^ l.fb)
      let exactOver := isMaxBinade && magGt m e maxQ u
      let ovf := decide (base + q > l.maxCode)
      let toMax (sat : Bool) : Cv := { code := s + l.maxCode, nan := false, inf := false, sat := sat }
      match rn.mode.extractLsb' 0 2 with
      | 1 => if satMode then (if exactOver || ovf then toMax true else { code := s + base + q, nan := false, inf := false, sat := false })
             else if ovf then toMax false
             else { code := s + base + q, nan := false, inf := false, sat := false }
      | _ =>
        if ovf then
          (if satMode || l.top != .ieee then toMax true
           else { code := s + l.infCode, nan := false, inf := true, sat := false })
        else { code := s + base + q, nan := false, inf := false, sat := false }

/-- Convert to an unsigned index of the given largest value (R53, R64). -/
def encodeUint (maxV : Nat) (rn : Rnd) : Val → Cv
  | .nan => { code := 0, nan := false, inf := false, sat := true }
  | .inf n => { code := if n then 0 else maxV, nan := false, inf := false, sat := true }
  | .fin n m e =>
    if m == 0 then { code := 0, nan := false, inf := false, sat := false }
    else if n then { code := 0, nan := false, inf := false, sat := true }
    else
      let q := roundQ rn m e 0
      let rtz := rn.mode.extractLsb' 0 2 == 1
      let satMode := rn.mode.extractLsb' 2 1 == 1
      if rtz && satMode then
        (if magGt m e maxV 0 then { code := maxV, nan := false, inf := false, sat := true }
         else { code := q, nan := false, inf := false, sat := false })
      else if q > maxV then { code := maxV, nan := false, inf := false, sat := !rtz }
      else { code := q, nan := false, inf := false, sat := false }

/-- Multiply by 2^k, exactly. -/
def Val.scale (k : Int) : Val → Val
  | .fin n m e => .fin n m (e + k)
  | v => v

/-- The FP32 code of a value, nearest even (R54). -/
def toFp32 (v : Val) : Nat := (layFp32.encode rne v).code

/-- The value of an FP32 code. -/
def ofFp32 (c : Nat) : Val := layFp32.decode c

/-- Round to FP32, nearest even, as a value. -/
def fp32 (v : Val) : Val := ofFp32 (toFp32 v)

/-! ## Exact arithmetic -/

/-- Exact product (R59, R63). -/
def Val.mul : Val → Val → Val
  | .nan, _ => .nan
  | _, .nan => .nan
  | .inf a, .inf b => .inf (a != b)
  | .inf a, .fin b m _ => if m == 0 then .nan else .inf (a != b)
  | .fin a m _, .inf b => if m == 0 then .nan else .inf (a != b)
  | .fin a m e, .fin b n f => .fin (a != b) (m * n) (e + f)

/-- Exact sum, with the signed zeros of R62. -/
def Val.add : Val → Val → Val
  | .nan, _ => .nan
  | _, .nan => .nan
  | .inf a, .inf b => if a == b then .inf a else .nan
  | .inf a, .fin _ _ _ => .inf a
  | .fin _ _ _, .inf b => .inf b
  | .fin a m e, .fin b n f =>
    if m == 0 && n == 0 then .fin (a && b) 0 0
    else
      let g := min e f
      let x := m * 2 ^ (e - g).toNat
      let y := n * 2 ^ (f - g).toNat
      if a == b then .fin a (x + y) g
      else if x > y then .fin a (x - y) g
      else if y > x then .fin b (y - x) g
      else .fin false 0 0

def Val.neg : Val → Val
  | .nan => .nan
  | .inf n => .inf (!n)
  | .fin n m e => .fin (!n) m e

def Val.abs : Val → Val
  | .nan => .nan
  | .inf _ => .inf false
  | .fin _ m e => .fin false m e

/-- Numeric less-than of non-NaN values; zeros of either sign are equal. -/
def Val.lt : Val → Val → Bool
  | .nan, _ => false
  | _, .nan => false
  | .inf a, .inf b => a && !b
  | .inf a, .fin _ _ _ => a
  | .fin _ _ _, .inf b => !b
  | .fin a m e, .fin b n f =>
    if m == 0 && n == 0 then false
    else if m == 0 then !b
    else if n == 0 then a
    else if a != b then a
    else if a then magGt m e n f else magGt n f m e

/-- Numeric equality of non-NaN values. -/
def Val.numEq (x y : Val) : Bool := !x.isNan && !y.isNan && !x.lt y && !y.lt x

/-- FP32 addition, nearest even (R54, R59). -/
def addFp32 (x y : Val) : Val := fp32 (x.add y)

/-! ## Formats by code (R42, R43) -/

def fmtFp32 : BitVec 4 := 0
def fmtBf16 : BitVec 4 := 1
def fmtFp16 : BitVec 4 := 2
def fmtG16 : BitVec 4 := 3
def fmtF8f : BitVec 4 := 4
def fmtF8b : BitVec 4 := 5
def fmtF4b : BitVec 4 := 6
def fmtU16 : BitVec 4 := 8
def fmtU32 : BitVec 4 := 9

/-- A reserved format code (R43). -/
def fmtReserved (f : BitVec 4) : Bool := f == 7 || decide (f ≥ 10)

/-- Bits of an element (R42). -/
def fmtBits (f : BitVec 4) : Nat :=
  match f with
  | 0 => 32 | 1 => 16 | 2 => 16 | 3 => 16 | 4 => 8 | 5 => 8 | 6 => 4 | 8 => 16 | 9 => 32 | _ => 8

/-- The layout of a floating format code. -/
def fmtLayout (f : BitVec 4) : Layout :=
  match f with
  | 1 => layBf16 | 2 => layFp16 | 3 => layG16 | 4 => layF8f | 5 => layF8b | 6 => layF4b | _ => layFp32

/-- The value an element of a format reads as, before any widening. `k` is the G16 scale exponent (R49). -/
def fmtDecode (f : BitVec 4) (k : Int) (c : Nat) : Val :=
  match f with
  | 3 => (layG16.decode c).scale k
  | 8 => .fin false c 0
  | 9 => .fin false c 0
  | _ => (fmtLayout f).decode c

/-- The widening to FP32 (R63). -/
def widen (f : BitVec 4) (k : Int) (c : Nat) : Val := fp32 (fmtDecode f k c)

/-- The widened value of an F4b element in a block of scale byte `e` (R48, R63). -/
def widenF4b (e c : Nat) : Val :=
  if e == 255 then .nan else fp32 ((layF4b.decode c).scale ((e : Int) - 127))

/-- Convert a value to an element of a format other than F4b (R49, R51, R53, R64). -/
def fmtEncode (f : BitVec 4) (k : Int) (rn : Rnd) (v : Val) : Cv :=
  match f with
  | 3 => layG16.encode rn (v.scale (-k))
  | 8 => encodeUint 65535 rn v
  | 9 => encodeUint 4294967295 rn v
  | _ => (fmtLayout f).encode rn v

/-- The scale byte of an F4b block (R50 steps 1 and 2). -/
def f4bScale (xs : List Val) : Nat :=
  if xs.any (fun v => v.isNan || v.isInf) then 255
  else
    let a := xs.foldl (fun (a : Val) v => if a.lt v.abs then v.abs else a) Val.zero
    match a with
    | .fin _ m e => if m == 0 then 0 else (min (max ((Nat.log2 m : Int) + e + 125) 0) 254).toNat
    | _ => 0

/-- One element of an F4b block of scale `e` (R50 steps 3 and 4). -/
def f4bElem (rn : Rnd) (e : Nat) (v : Val) : Cv :=
  if e == 255 then { code := 0, nan := true, inf := false, sat := false }
  else layF4b.encode rn (v.scale (127 - (e : Int)))

/-- Whether an element code of a format is a NaN, or an infinity (R66: what a write reports). -/
def codeNan (f : BitVec 4) (c : Nat) : Bool :=
  if f == fmtU16 || f == fmtU32 || f == fmtF4b then false else ((fmtLayout f).decode c).isNan

def codeInf (f : BitVec 4) (c : Nat) : Bool :=
  if f == fmtU16 || f == fmtU32 || f == fmtF4b then false else ((fmtLayout f).decode c).isInf

end Sys2Proof.Machine
end

