-- ==== Sys2Proof/Machine/Seedbank.lean ====
section
/-! DEFINITION. The bed's rows (12 R362, R363) and the Seedbank (12 R364–R371): groups, parity, deltas, repair,
initialisation, rebuild. -/

namespace Sys2Proof.Machine

/-! ## Rows (R363) -/

/-- The row of a bed offset: 512 bytes of one bank of one MD (R362 interleave; assumption 20). DESIGN CHOICE, assumption 20. -/
def rowOf (off : Nat) : Nat := off / 512
/-- The bank of a row: MD and bank. DESIGN CHOICE, assumption 20. -/
def bankOfRow (row : Nat) : Nat := row % 128

/-- The row's correction count has reached the threshold: its live repair is under way (R363). -/
def Site.rowIsDue (t : Site) (row : Nat) : Bool := decide (t.repairThr.toNat ≤ sget (fun _ => 0) t.rowCe row)

/-- The correction counts of a scrub pass: a new pass starts from none, but a repair under way goes on. -/
def Site.passCounts (t : Site) (pass : Nat) : Sparse Nat :=
  if t.scrubPass == pass then t.rowCe else t.rowCe.filter (fun x => decide (t.repairThr.toNat ≤ x.2))

/-- Set a row's correction count in a scrub pass; BED_STAT.repair_busy from the threshold on (R363, R381). -/
def Site.countRow (t : Site) (pass row n : Nat) : Site :=
  { t with scrubPass := pass, rowCe := sset (fun _ => 0) (t.passCounts pass) row n,
           repairBusy := t.repairBusy || decide (t.repairThr.toNat ≤ n) }

/-- Count a correction in a bed (R363): BED_CE_CNT, the row's count of this scrub pass, bed_ce. -/
def State.bedCorrect (s : State) (p off : Nat) : State :=
  let pass := s.tick.toNat / 2 ^ 33
  let s := s.modSite p (fun t =>
    ({ t with bedCe := t.bedCe + 1 } : Site).countRow pass (rowOf off) (sget (fun _ => 0) (t.passCounts pass) (rowOf off) + 1))
  s.raiseBed p 0 off

/-- The row is to be repaired (R363, R368). -/
def State.rowDue (s : State) (p off : Nat) : State :=
  s.modSite p (fun t => t.countRow (s.tick.toNat / 2 ^ 33) (rowOf off) t.repairThr.toNat)

/-- Poison a bed word (R369). -/
def State.bedPoisonAt (s : State) (p off : Nat) : State :=
  (s.modSite p (fun t => { t with bedPoison := sset (fun _ => false) t.bedPoison (off / 8) true })).raiseBed p 1 off

/-- ROW_REPAIR (R363): the row moves to a spare row of its bank, or stays in use when none is left. -/
def State.rowRepair (s : State) (p row : Nat) : State :=
  let t := s.site p
  if !t.rowIsDue row then s
  else
    let ce := sset (fun _ => 0) t.rowCe row 0
    let s := s.modSite p (fun t => { t with rowCe := ce, repairBusy := ce.any (fun x => decide (t.repairThr.toNat ≤ x.2)) })
    if sget (fun _ => 0) t.sparesUsed (bankOfRow row) ≥ 32 then s.raiseBed p 6 (512 * row)
    else (s.modSite p (fun t => t.takeRow row)).raiseBed p 5 (512 * row)

/-! ## Groups (R365) -/

/-- Group and rank of a logical site. -/
def State.groupOf (s : State) (l : Nat) : Nat := l % s.groups
def State.rankOf (s : State) (l : Nat) : Nat := l / s.groups

/-- Logical sites of a group. -/
def State.groupSites (s : State) (g : Nat) : List Nat := (List.range s.part.activeSites).filter (fun l => s.groupOf l == g)

/-- The logical site that holds the parity of chunk `k` of group `g`: rank k of the next group. -/
def State.holder (s : State) (g k : Nat) : Nat := k * s.groups + (g + 1) % s.groups

/-- The offset of the parity of a protected offset in the holder's bed. -/
def parityOff (o : Nat) : Nat := parityBase + o % chunkSize

/-- The group whose parity a group's members hold. -/
def State.heldGroup (s : State) (g : Nat) : Nat := (g + s.groups - 1) % s.groups

def State.prot (s : State) : Nat := s.sb.protChunks.toNat

def State.modBed (s : State) (p : Nat) (f : Mem → Mem) : State := s.modSite p (fun t => { t with bed := f t.bed })
def State.bedAt (s : State) (l : Nat) : Option Mem := (s.physOf l).map (fun p => (s.site p).bed)

/-- Write the bytes of a block write into a bed. -/
def landBlock (m : Mem) (w : ProtWrite) : Mem := w.bytes.foldl (fun m b => m.put (w.off + b.a) b) m

/-- A block write lands in its bed: the words it covers whole lose their poison (R366, 07 R190). -/
def Site.landWrite (t : Site) (w : ProtWrite) : Site :=
  { t with bed := landBlock t.bed w,
           bedPoison := (wholeWords w.bytes).foldl (fun m a => sset (fun _ => false) m ((w.off + a) / 8) false) t.bedPoison }

/-- Land acknowledged writes of a site. -/
def State.landAcked (s : State) (p : Nat) (sel : ProtWrite → Bool) : State :=
  s.modSite p (fun t =>
    { (t.writes.filter (fun w => w.acked && sel w)).foldl Site.landWrite t with
      writes := t.writes.filter (fun w => !(w.acked && sel w)) })

/-- Land every acknowledged write of a group's members: their parity has it already. -/
def State.landGroup (s : State) (g : Nat) (sel : ProtWrite → Bool) : State :=
  ((s.groupSites g).filterMap s.physOf).foldl (fun s q => s.landAcked q sel) s

/-! ## Protected writes (R366) -/

/-- The bytes of a block after its write. -/
def newBlock (m : Mem) (w : ProtWrite) : List Byte := (landBlock m w).bytes w.off 64

/-- The oldest write of a site whose delta can be sent: none before it on its block (two writes to one block apply in
arrival order). -/
def sendable : List ProtWrite → List Nat → Option ProtWrite
  | [], _ => none
  | w :: r, seen => if !w.sent && !seen.contains w.off then some w else sendable r (w.off :: seen)

/-- Replace the first write of a list that a test picks. -/
def updFirst (f : ProtWrite → Bool) (g : ProtWrite → ProtWrite) : List ProtWrite → List ProtWrite
  | [] => []
  | w :: r => if f w then g w :: r else w :: updFirst f g r

/-- Drop the first write of a list that a test picks. -/
def dropFirst (f : ProtWrite → Bool) : List ProtWrite → List ProtWrite
  | [] => []
  | w :: r => if f w then r else w :: dropFirst f r

/-- Send the delta of a write to its holder; a block whose holder is absent has no parity and is written at once. -/
def State.sendDelta (s : State) (p : Nat) (w : ProtWrite) : State :=
  let l := (s.logicalOf p).getD 0
  let h := s.physOf (s.holder (s.groupOf l) (w.off / chunkSize))
  let m := (s.site p).bed
  let mark (w' : ProtWrite) : ProtWrite := { w' with sent := true, acked := h.isNone }
  let s := s.modSite p (fun t => { t with writes := updFirst (fun x => x == w) mark t.writes })
  match h with
  | none => s
  | some h =>
    let d : Delta := { src := BitVec.ofNat 6 p, srcOff := w.off, off := parityOff w.off,
                       bytes := List.zipWith (· ^^^ ·) (m.bytes w.off 64) (newBlock m w) }
    s.modSite h (fun t => { t with deltas := t.deltas ++ [d] })

/-- Protected writes of a site are held: during the initialisation pass (R367), and at a spare whose protected region
is being rebuilt (R370: until it holds the failed site's contents there is no old data to send a delta against). DEDUCED, assumption 38. -/
def State.protHeld (s : State) (p : Nat) : Bool :=
  s.sb.state == 1 || (s.sb.state == 3 && s.sb.rebuildSite.toNat == p)

/-- One step of the protected writes of a physical site: an acknowledged one lands, else the next delta leaves. DEDUCED,
assumption 38. -/
def State.protStep (s : State) (p : Nat) : State :=
  if s.protHeld p then s
  else match (s.site p).writes.find? ProtWrite.acked with
    | some w => s.modSite p (fun t => { t.landWrite w with writes := dropFirst (fun x => x == w) t.writes })
    | none => match sendable (s.site p).writes [] with
      | some w => s.sendDelta p w
      | none => s

def execProtectedWrite (site : SiteNo) (s : State) : Res := .next (s.protStep site.toNat)

/-- PARITY_DELTA at the holder (a physical site): XOR in and acknowledge (R366). -/
def State.takeDelta (s : State) (p : Nat) : State :=
  match (s.site p).deltas with
  | [] => s
  | d :: r =>
    let old := (s.site p).bed.bytes d.off 64
    let s := s.modSite p (fun t => { t with deltas := r, bed := t.bed.setBytes d.off (List.zipWith (· ^^^ ·) old d.bytes) })
    s.modSite d.src.toNat (fun t => { t with
      writes := updFirst (fun w => w.sent && !w.acked && w.off == d.srcOff) (fun w => { w with acked := true }) t.writes })

def execParityDelta (site : SiteNo) (s : State) : Res := .next (s.takeDelta site.toNat)

/-! ## Parity from contents (R365, R367, R370) -/

/-- Groups without valid parity: a member or a holder of a protected chunk is absent. -/
def State.unprotNow (s : State) : Nat :=
  bitsOf s.groups (fun g => (s.groupSites g).any (fun l => (s.physOf l).isNone)
    || (List.range s.prot).any (fun k => (s.physOf (s.holder g k)).isNone))

/-- The poisoned words of a chunk of some logical sites' beds, as word numbers within the chunk. -/
def State.chunkPoison (s : State) (ls : List Nat) (k : Nat) : List Nat :=
  let lo := chunkSize * k / 8
  (ls.filterMap s.physOf).flatMap (fun p => ((s.site p).bedPoison.filter (fun w =>
    w.2 && decide (lo ≤ w.1 ∧ w.1 < lo + chunkSize / 8))).map (fun w => w.1 - lo))

/-- The poison of a range of words is that of a list of word numbers within it. -/
def Site.setPoisonRange (t : Site) (lo n : Nat) (ws : List Nat) : Site :=
  let rest := t.bedPoison.filter (fun w => decide (w.1 < lo ∨ lo + n ≤ w.1))
  { t with bedPoison := ws.foldl (fun m w => sset (fun _ => false) m (lo + w) true) rest }

/-- Compute the parity of chunk `k` of group `g` into its holder; a poisoned word of a member leaves its parity word
poisoned (R369). DEDUCED, assumption 38. -/
def State.parityInit (s : State) (g k : Nat) : State :=
  match s.physOf (s.holder g k) with
  | none => s
  | some h =>
    let bad := s.chunkPoison (s.groupSites g) k
    let src := (s.groupSites g).filterMap (fun l => (s.bedAt l).map (fun b => (b, chunkSize * k)))
    s.modSite h (fun t =>
      let t := { t with bed := t.bed.xorRange parityBase chunkSize src }
      t.setPoisonRange (parityBase / 8) (chunkSize / 8) bad)

def State.parityAll (s : State) : State :=
  (List.range s.groups).foldl (fun s g => (List.range s.prot).foldl (fun s k => s.parityInit g k) s) s

/-- The sources that XOR to bytes [o, …) of a member: the same offsets of the others, and the parity. -/
def State.rebuildSrc (s : State) (l o : Nat) : List (Mem × Nat) :=
  let g := s.groupOf l
  ((s.groupSites g).filter (· != l)).filterMap (fun x => (s.bedAt x).map (fun b => (b, o)))
    ++ ((s.bedAt (s.holder g (o / chunkSize))).map (fun b => (b, parityOff o))).toList

/-! ## Repair (R368) -/

/-- A word that a repair at a protected offset of a member reads is poisoned: of another member, or of the parity (R369). -/
def State.rebuildBad (s : State) (l o : Nat) : Bool :=
  let g := s.groupOf l
  let bad (x w : Nat) : Bool := match s.physOf x with
    | some p => sget (fun _ => false) (s.site p).bedPoison w
    | none => false
  ((s.groupSites g).filter (· != l)).any (fun x => bad x (o / 8)) || bad (s.holder g (o / chunkSize)) (parityOff o / 8)

/-- Rebuild the word of a bed offset of physical site `p` from its group and parity, once the acknowledged writes to its
block have landed. A source that cannot be read poisons the word instead (R369). -/
def State.sbRepair (s : State) (p off : Nat) : State :=
  match s.logicalOf p with
  | none => s
  | some l =>
    let o := off / 8 * 8
    let s := s.landGroup (s.groupOf l) (fun w => w.off == off / 64 * 64)
    if s.rebuildBad l o then s.bedPoisonAt p off
    else
      let src := s.rebuildSrc l o
      let s := s.modSite p (fun t => { t with
        bed := t.bed.setBytes o ((List.range 8).map (xorAt src)), bedFix := t.bedFix + 1,
        bedPoison := sset (fun _ => false) t.bedPoison (o / 8) false })
      (s.rowDue p off).raiseBed p 2 off

/-- The parity word of a protected bed offset of a physical site cannot be read: it is poisoned (R369). -/
def State.parityLost (s : State) (p off : Nat) : State :=
  match (s.logicalOf p).bind (fun l => s.physOf (s.holder (s.groupOf l) (off / chunkSize))) with
  | some h => s.bedPoisonAt h (parityOff off)
  | none => s

/-- SEEDBANK_REPAIR: an uncorrectable word of a protected region with valid parity (R368), whose parity can be read or
not; elsewhere the word is poisoned (R369). -/
def State.seedbankRepair (s : State) (p off : Nat) (parityOk : Bool) : State :=
  if !s.present p || bedSize ≤ off then s
  else if !s.covered p off then s.bedPoisonAt p off
  else if parityOk then s.sbRepair p off else (s.parityLost p off).sbRepair p off

def execSeedbankRepair (site : SiteNo) (off : RepairWord) (s : State) : Res :=
  .next (s.seedbankRepair site.toNat off.off.toNat off.parityOk)

/-- PATROL_SCRUB (R363, R368, R369) of a bed word of a physical site. -/
def State.scrub (s : State) (p off : Nat) (e : Ecc) : State :=
  if !(s.site p).scrubEn || !s.present p || bedSize ≤ off then s
  else match e with
    | .clean => s
    | .corrected => s.bedCorrect p off
    | .uncorrectable => s.seedbankRepair p off true

def execPatrolScrub (site : SiteNo) (off : BitVec 30) (ecc : Ecc) (s : State) : Res := .next (s.scrub site.toNat off.toNat ecc)

/-! ## SB_CTL (R367, R382) -/

/-- Every parity share becomes undefined, held writes complete without parity. DEDUCED, assumption 38. -/
def State.sbStop (s : State) : State :=
  (List.range 64).foldl (fun s p =>
    let (n, s) := s.fresh 1
    s.modSite p (fun t => { t with
      bed := (t.writes.foldl landBlock t.bed).spoil parityBase bedSize n, writes := [], deltas := [] })) s

/-- A write of SB_CTL: prot_chunks only while en = 0; setting en starts the initialisation pass, clearing it stops all
parity. -/
def State.sbCtl (s : State) (v : DWord) : State :=
  let en := bitAt v.toNat 0
  let s := if s.sb.en then s else { s with sb := { s.sb with protChunks := BitVec.ofNat 4 (fld v.toNat 1 4) } }
  if en && !s.sb.en then { s with sb := { s.sb with en := true, state := 1, started := s.tick } }
  else if !en && s.sb.en then
    let s := s.sbStop
    { s with sb := { s.sb with en := false, state := 0, unprot := 0 } }
  else s

def execSbCtlWrite (value : DWord) (s : State) : Res := .next (s.sbCtl value)

/-- Set bits of SB_STAT.unprot; group_unprot tells of a new one (R382). DEDUCED, assumption 38. -/
def State.setUnprot (s : State) (bits : Nat) : State :=
  let v := s.sb.unprot ||| BitVec.ofNat 4 bits
  let new := v != s.sb.unprot
  let s := { s with sb := { s.sb with unprot := v } }
  if new then s.raise .sb 3 else s

/-- INIT_PASS_END (R367). DEDUCED, assumption 38. -/
def State.initEnd (s : State) : State :=
  if s.sb.state != 1 then s
  else
    let s := s.parityAll
    let s := { s with sb := { s.sb with state := 2, unprot := 0 } }
    (s.setUnprot s.unprotNow).raise .sb 0

def execInitPassEnd (s : State) : Res := .next s.initEnd

/-! ## Rebuild (R370, R371) -/

/-- Words of chunk `k` of logical site `l` that cannot be rebuilt: poisoned in another member or in the parity (R369). -/
def State.rebuildLost (s : State) (l k : Nat) : List Nat :=
  let g := s.groupOf l
  let parity := ((s.physOf (s.holder g k)).map (fun h => ((s.site h).bedPoison.filter (fun w =>
    w.2 && decide (parityBase / 8 ≤ w.1))).map (fun w => w.1 - parityBase / 8))).getD []
  (s.chunkPoison ((s.groupSites g).filter (· != l)) k ++ parity).eraseDups

/-- Rebuild chunk `k` of the protected region of logical site `l` into physical site `p`. -/
def State.rebuildChunk (s : State) (l p k : Nat) : State :=
  let bad := s.rebuildLost l k
  let src := s.rebuildSrc l (chunkSize * k)
  let s := s.modSite p (fun t =>
    let t := { t with bed := t.bed.xorRange (chunkSize * k) chunkSize src }
    t.setPoisonRange (chunkSize * k / 8) (chunkSize / 8) bad)
  bad.foldl (fun s w => s.raiseBed p 1 (chunkSize * k + 8 * w)) s

/-- Rebuild the protected region of logical site `l`, now served by physical site `p`, and the parity share it holds:
acknowledged writes of both groups land first, so that neither misses one. -/
def State.rebuild (s : State) (l p : Nat) : State :=
  let g := s.groupOf l
  let s := (s.landGroup g (fun _ => true)).landGroup (s.heldGroup g) (fun _ => true)
  let s := (List.range s.prot).foldl (fun s k => s.rebuildChunk l p k) s
  if s.rankOf l < s.prot then s.parityInit (s.heldGroup g) (s.rankOf l) else s

/-- SB_STAT.progress during a rebuild: whole chunks of 48 MiB that e edges of 6 TB/s have moved into the spare since it
began, e its live edges to sites (R370, R382). -/
def State.rebuilt (s : State) : BitVec 4 :=
  let p := s.sb.rebuildSite.toNat
  let e := ((List.range 4).filter (fun i => (neighbour p i).isSome && s.edgeLive p i)).length
  let n := (s.tick - s.sb.began).toNat * e * 6000000000000 / (chunkSize * 940000000)
  if s.sb.state == 3 then BitVec.ofNat 4 (min s.prot n) else s.sb.progress

/-- REBUILD_END (R370): the spare holds the failed site's protected contents, the parity is whole again. DEDUCED, assumption 38. -/
def State.rebuildEnd (s : State) : State :=
  if s.sb.state != 3 then s
  else
    let p := s.sb.rebuildSite.toNat
    let l := (s.logicalOf p).getD 0
    let s := s.rebuild l p
    let s := { s with sb := { s.sb with state := 2, progress := s.sb.protChunks, ticks := (s.tick - s.sb.started).setWidth 32 } }
    s.raise .sb 1

def execRebuildEnd (s : State) : Res := .next s.rebuildEnd

/-- No place answers at an address of the logical view: it lies in no range (R379), or in the bed, core or register
window of an absent site (00 R5). -/
def State.unserved (s : State) (a : Nat) : Bool :=
  match place a with
  | .none => true
  | .bed l _ => (s.physOf l).isNone
  | .core l _ _ => (s.physOf l).isNone
  | .siteReg l _ => (s.physOf l).isNone
  | _ => false

/-- UNMAPPED_ACCESS (R379): an access that nothing answers reads 0, drops its write and is recorded; so is one of a host
hart, Ethernet DMA or the fabric to the window of an absent site (00 R5). -/
def execUnmappedAccess (addr : Addr) (acc : Access) (s : State) : Res :=
  .next (if s.unserved addr.toNat then
      let s := s.mapFault addr.toNat
      (match acc with
       | .read n => s.emit (.reply (List.replicate n 0))
       | .write _ => s)
    else s)

/-! ## GDDR7 devices (R375, R376) -/

/-- The module address of the first byte of a device's block: of the stripe for the parity device (R373). -/
def deviceAddr (x ch row : Nat) : Nat := if ch < 12 then 256 * (48 * row + 12 * x + ch) else stripeBytes * (4 * row + x)

/-- A device is declared failed: dev_fail; a second one on the die is a double fault. `a` is the module address for
MC_ERR_INFO. -/
def State.devFail (s : State) (x ch a : Nat) : State :=
  if bitAt (s.xd x).mc.devFailed.toNat ch then s
  else
    let second := (s.xd x).mc.devFailed != 0
    let s := s.modMc x (fun m => { m with devFailed := setBit m.devFailed ch true, doubleFault := m.doubleFault || second })
    let s := s.raiseMc x 1 ch a
    if second then (s.raiseMc x 5 ch a).raiseMc x 2 ch a else s

/-- GDDR7_CRC_RETRY: a CRC error in row `row` of one device. Errors within 3,760 ticks of one another count as
consecutive failures of one burst. DEDUCED, assumption 21. -/
def State.crcRetry (s : State) (x ch row : Nat) : State :=
  if ch ≥ 13 then s
  else
    let d := sget (fun _ => Device.init) (s.xd x).mc.devs ch
    let near := match d.errTicks.getLast? with
      | some t => decide (s.tick.toNat - t.toNat ≤ 3760)
      | none => false
    let consec := if near then d.consec + 1 else 1
    let ticks := (d.errTicks.filter (fun t => decide (s.tick.toNat - t.toNat < 940000))) ++ [s.tick]
    let fail := decide (consec ≥ 8) || decide (ticks.length ≥ 64)
    let s := s.modMc x (fun m => { m with
      crcCnt := m.crcCnt + 1, retryCnt := if consec ≥ 8 then m.retryCnt else m.retryCnt + 1,
      devs := sset (fun _ => Device.init) m.devs ch { d with consec := consec, errTicks := ticks } })
    let s := s.raiseMc x 0 ch (deviceAddr x ch row)
    if fail then s.devFail x ch (deviceAddr x ch row) else s

def execGddr7CrcRetry (xd : BitVec 2) (ch : ChanRow) (s : State) : Res :=
  .next (s.crcRetry xd.toNat ch.ch.toNat ch.row.toNat)

/-- The tick at which a device's retraining falls due: 100 ms after its last, or at a temperature change before (R376). -/
def Device.dueTick (d : Device) : Nat :=
  let period := d.lastTrain.toNat + 94000000
  match d.hot with
  | some t => min t.toNat period
  | none => period

/-- Retraining has fallen due. -/
def Device.isDue (d : Device) (now : Nat) : Bool := decide (d.dueTick ≤ now)

/-- No slot has occurred for 940,000 ticks after retraining fell due: the controller makes one (R376). -/
def Device.isForced (d : Device) (now : Nat) : Bool := decide (d.dueTick + 940000 ≤ now)

/-- DEVICE_RETRAIN (R376). `moved`: the device's temperature has changed by 5 °C; `idle`: the device has no request now;
`eyeGood`: its eye is above the floor after retraining. A device that fails so is declared failed at no module address, so
that of MC_ERR_INFO is open (assumption 21). -/
def State.retrain (s : State) (x ch : Nat) (moved idle eyeGood : Bool) : State :=
  if ch ≥ 13 || !(s.xd x).mc.retrainEn || bitAt (s.xd x).mc.devFailed.toNat ch then s
  else
    let d := sget (fun _ => Device.init) (s.xd x).mc.devs ch
    let d := if moved && d.hot.isNone then { d with hot := some s.tick } else d
    let runs := d.isDue s.tick.toNat && (idle || d.isForced s.tick.toNat)
    let keep := if runs then { d with lastTrain := s.tick, hot := none } else d
    let s := s.modMc x (fun m => { m with devs := sset (fun _ => Device.init) m.devs ch keep })
    if !runs then s
    else
      let (n, s) := s.fresh 1
      let a := (Config.freeWord 40 n).toNat
      let s := if idle then s else s.raiseMc x 3 ch a
      if eyeGood then s else s.devFail x ch a

def execDeviceRetrain (xd : BitVec 2) (ch : BitVec 4) (slot : RetrainSlot) (eyeGood : Bool) (s : State) : Res :=
  .next (s.retrain xd.toNat ch.toNat slot.moved slot.idle eyeGood)

end Sys2Proof.Machine
end

