-- ==== Sys2Proof/Machine/Ops.lean ====
section
/-! DEFINITION. Operations shared by the families: the Almanac (13 R410–R412), the error log (08 R253), engine queues
and counters (08 R239–R243), skip-and-log (00 R14), ECC events. -/

namespace Sys2Proof.Machine

/-! ## Almanac -/

def Alm.init : Alm := { seq := 0, tick := 0, kind := 0, sev := 0, ctx := 0, origin := 0, payload := List.replicate 40 0 }

/-- The 64 bytes of an entry (13 R411). -/
def Alm.bytes (e : Alm) : List Byte :=
  leBytes 8 e.seq.toNat ++ leBytes 8 e.tick.toNat ++ [e.kind, e.sev, e.ctx, 0] ++ leBytes 2 e.origin.toNat ++ [0, 0]
    ++ (e.payload ++ List.replicate 40 0).take 40

/-- Severity of an entry. The manual names the codes (R411) and gives no code to most kinds: a free value then. -/
inductive Sev where
  | urgent | open_
deriving DecidableEq, Repr

def ctxByte : Option (BitVec 4) → Byte
  | some n => n.setWidth 8 ||| 0x80
  | none => 0

/-- Write an Almanac entry: on-die copy and ring in GDDR7 (R410). DESIGN CHOICE, assumption 3; DESIGN CHOICE, assumption 15. -/
def State.almanac (s : State) (kind : Byte) (sev : Sev) (ctx : Option (BitVec 4)) (origin : Half)
    (payload : List Byte) : State :=
  let (n, s) := s.fresh (match sev with | .urgent => 0 | .open_ => 1)
  let sv : Byte := match sev with
    | .urgent => 3
    | .open_ => (Config.freeWord 2 n).setWidth 8
  let e : Alm := { seq := s.almHead, tick := s.tick, kind := kind, sev := sv, ctx := ctxByte ctx, origin := origin,
                   payload := (payload ++ List.replicate 40 0).take 40 }
  let seq := s.almHead.toNat
  let s := { s with alms := sset (fun _ => Alm.init) s.alms (seq % 4096) e, almHead := s.almHead + 1 }
  let a := fwBase + seq % 262144 * 64
  if s.gddrDead a || s.slotGen (s.xtsSlot a) == 0 then s.raise .orr 13
  else s.land (bytesAt a e.bytes)

/-- Origin field of a core: logical site in [10:5], core in [4:0] (R411). -/
def originCore (l c : Nat) : Half := BitVec.ofNat 16 (l % 64 * 32 + c % 32)

/-- Origin field of an orrery core. -/
def originOc (oc : Nat) : Half := BitVec.ofNat 16 (oc % 32 + 2 ^ 15)

/-- Whether the context a core runs is sealed. -/
def State.coreSealed (s : State) (k : Nat) : Bool :=
  match (s.core k).ctx with
  | some n => s.sealedNow n.toNat
  | none => false

/-! ## Error log (08 R253) -/

/-- Word 0 of an error-log entry. -/
def errWord (addr : Half) (bank : Bool) (slot source cause : Nat) (tag seq : Half) : DWord :=
  reg64 [(addr.toNat, 0), (bit bank, 16), (slot, 17), (source, 20), (cause, 24), (tag.toNat, 32), (seq.toNat, 48)]

/-- Write CC_ERRLOG and send the entry to the Almanac. In a sealed context the Almanac copy carries no tag (R411). -/
def State.errLog (s : State) (k : Nat) (addr : Half) (bank : Bool) (slot source cause : Nat) (tag : Half) : State :=
  let cc := (s.core k).cc
  let w := errWord addr bank slot source cause tag cc.errSeq
  let s := s.modCc k (fun c => { c with
    errlog := sset (fun _ => { word0 := 0, tick := 0 }) c.errlog c.errNext.toNat { word0 := w, tick := s.tick },
    errNext := c.errNext + 1, errSeq := c.errSeq + 1 })
  let wa := if s.coreSealed k then errWord addr bank slot source cause 0 cc.errSeq else w
  let who := s.whoIs k
  s.almanac 0x01 .open_ (s.core k).ctx (originCore who.1 who.2) (leBytes 8 wa.toNat)

/-! ## Engines -/

inductive Eng where
  | me | ve | se
deriving DecidableEq, Repr

def Eng.idx : Eng → Nat
  | .me => 0
  | .ve => 1
  | .se => 2

/-- Slot number of an engine's commands (08 R239). -/
def Eng.slot (e : Eng) : Nat := e.idx + 3

/-- Source code of an engine in CC_ERRLOG (R253). -/
def Eng.source (e : Eng) : Nat := e.idx + 1

def Eng.leaf (e : Eng) (k : Nat) : Leaf :=
  match e with
  | .me => .me k
  | .ve => .ve k
  | .se => .se k

def Cc.cnt (c : Cc) : Eng → EngCnt
  | .me => c.meCnt
  | .ve => c.veCnt
  | .se => c.seCnt

def Cc.setCnt (c : Cc) (e : Eng) (v : EngCnt) : Cc :=
  match e with
  | .me => { c with meCnt := v }
  | .ve => { c with veCnt := v }
  | .se => { c with seCnt := v }

def Core.queue (c : Core) : Eng → List QEntry
  | .me => c.me.queue
  | .ve => c.ve.queue
  | .se => c.se.queue

def Core.setQueue (c : Core) (e : Eng) (q : List QEntry) : Core :=
  match e with
  | .me => { c with me := { c.me with queue := q } }
  | .ve => { c with ve := { c.ve with queue := q } }
  | .se => { c with se := { c.se with queue := q } }

/-- Move `done` over the commands that completed early. -/
def EngCnt.settle : Nat → EngCnt → EngCnt
  | 0, c => c
  | n + 1, c =>
    if c.early.contains (c.done + 1) then
      EngCnt.settle n { c with done := c.done + 1, early := c.early.filter (· != c.done + 1) }
    else c

/-- Command number `n` is complete: `done` is the largest count with all before it complete (R243). -/
def EngCnt.complete (c : EngCnt) (n : Half) : EngCnt :=
  EngCnt.settle (c.early.length + 1) { c with early := n :: c.early }

/-- The engine takes the head of its queue. -/
def State.take (s : State) (k : Nat) (e : Eng) : State :=
  s.modCore k (fun c =>
    let c := c.setQueue e (c.queue e).tail
    { c with cc := c.cc.setCnt e { c.cc.cnt e with started := (c.cc.cnt e).started + 1 } })

/-- A command is complete. -/
def State.finish (s : State) (k : Nat) (e : Eng) (q : QEntry) : State :=
  s.modCc k (fun c => c.setCnt e ((c.cnt e).complete q.num))

/-- Fields of a command word (08 R239). -/
def QEntry.w (q : QEntry) : Nat := q.word.toNat
def QEntry.op (q : QEntry) : Nat := fld q.w 0 8
def QEntry.tag (q : QEntry) : Half := BitVec.ofNat 16 (fld q.w 8 16)

/-- Skip the command at the head of an engine's queue and log it (00 R14, 08 R252): the cause, the log entry, the
counts; nothing else. -/
def State.skipHead (s : State) (k : Nat) (e : Eng) (q : QEntry) (cause : Nat) : State :=
  let s := s.raise (e.leaf k) cause
  let s := s.errLog k q.addr q.bank q.slot.toNat e.source cause q.tag
  (s.take k e).finish k e q

/-! ## ECC events on a core's memories -/

/-- An uncorrectable word of table memory: both its values read as canonical NaN (04 R137). Word 8192 × (2 × table +
bank) + w holds values 2w and 2w + 1 of the bank, and w = 8191 its scale and offset. DESIGN CHOICE, assumption 9. -/
def Ve.tableUe (v : Ve) (word : Nat) : Ve :=
  let key := word / 8192
  let t := sget (fun _ => VTable.init) v.tables key
  let i := 2 * (word % 8192)
  let t := if word % 8192 == 8191 then { t with scale := 0x7FC00000, off := 0x7FC00000 }
    else { t with words := (t.words.set i 0x7FC00000).set (i + 1) 0x7FC00000 }
  { v with tables := sset (fun _ => VTable.init) v.tables key t }

/-- An error in the scratchpad of a core: sp_ce, or sp_ue with the poison mark (07 R190). -/
def State.spHit (s : State) (k word : Nat) (ue : Bool) : State :=
  if ue then (s.modCore k (fun c => { c with spPoison := sset (fun _ => false) c.spPoison word true })).raise (.se k) 16
  else s.raise (.se k) 15

/-- Apply one ECC event of a core: corrected, or uncorrectable with the poison mark (03 R93, 07 R190, 08 R230, R250,
12 R363, R369). A bed word in a protected group is the Seedbank's to repair (12 R368) and is not poisoned. DESIGN CHOICE, assumption 9. -/
def State.eccHit (s : State) (k : Nat) (h : EccHit) : State :=
  match h.at_, h.ue with
  | .sp, ue => s.spHit k h.word ue
  | .spOf l c, ue => (match s.key l c with
      | some m => s.spHit m h.word ue
      | none => s)
  | .acc, false => s.raise (.me k) 8
  | .acc, true =>
    (s.modMe k (fun m => { m with accPoison := sset (fun _ => false) m.accPoison h.word true })).raise (.me k) 9
  | .dmem, false => s.raise (.cc k) 12
  | .dmem, true => s.modCc k (fun c => { c with dmemPoison := sset (fun _ => false) c.dmemPoison h.word true })
  | .imemA, false => s.raise (.cc k) 10
  | .imemB, false => s.raise (.cc k) 10
  | .imemA, true => s
  | .imemB, true => s
  | .vtab, false => s.raise (.ve k) 7
  | .vrow, false => s.raise (.ve k) 7
  | .vrow, true => s.raise (.ve k) 8
  | .vtab, true => (s.modVe k (fun v => v.tableUe h.word)).raise (.ve k) 8
  | .bed p, false => s.bedCorrect p.toNat (8 * h.word)
  | .bed p, true => s.seedbankRepair p.toNat (8 * h.word) true

/-- DESIGN CHOICE, assumption 9. -/
def State.eccHits (s : State) (k : Nat) (hs : List EccHit) : State := hs.foldl (fun s h => s.eccHit k h) s

/-! ## DMEM operands (08 R230, R244) -/

/-- Read `n` DMEM bytes for an engine command: none when the read touches a poisoned word (the command is skipped and
logged with cause dmem_ue, R230) or runs past the end. -/
def Cc.dmemRead (c : Cc) (a n : Nat) : Option (List Byte) :=
  if poisoned c.dmemPoison a n then none else some (c.dmem.bytes a n)

/-- Skip the head of an engine's queue for a poisoned DMEM operand: cause dmem_ue of CC_CAUSE (R230, R252). -/
def State.skipDmem (s : State) (k : Nat) (e : Eng) (q : QEntry) : State :=
  let s := s.raise (.cc k) 13
  let s := s.errLog k q.addr q.bank q.slot.toNat 0 13 q.tag
  (s.take k e).finish k e q

/-- Stochastic-rounding key of a core's context for a tag and sequence number (02 R56). The step number is the one the
orrery stamped on the core when it started it. DEDUCED, assumption 24; DESIGN CHOICE, assumption 34. -/
def State.srKey (s : State) (k : Nat) (tag : Nat) (seq : Nat) : SrKey :=
  match (s.core k).ctx with
  | some n =>
    { ctxKey := (s.ctx n.toNat).desc.ctxKey, step := (s.core k).stepNo, tag := BitVec.ofNat 12 tag,
      seq := BitVec.ofNat 16 seq }
  | none => { ctxKey := Config.noCtxKey k, step := Config.noCtxStep k, tag := BitVec.ofNat 12 tag, seq := BitVec.ofNat 16 seq }

end Sys2Proof.Machine
end

