-- ==== Sys2Proof/Machine/Land.lean ====
section
/-! DEFINITION. Write streams (06 R179) and how their writes land: those to a site that is gone are dropped (01 R27),
those that another stream has on its way to the same bytes leave them undefined (R179). -/

namespace Sys2Proof.Machine

/-- A stream: the write sequence of one engine of one core (R179). -/
inductive Stream where
  | se (k x : Nat)
  | me (k : Nat)
  | ve (k : Nat)
deriving DecidableEq, Repr

/-- Change the writes on their way in an SE context, by transfer. -/
def SeCtx.mapWrites (c : SeCtx) (f : List Wr → List Wr) : SeCtx :=
  let g (t : Xfer) : Xfer := if t.landed then t else { t with writes := f t.writes }
  { c with inflight := c.inflight.map g, toIssue := c.toIssue.map g }

def MeWork.mapWrites (f : List Wr → List Wr) : MeWork → MeWork
  | .store t ws release nan inf sat landed => .store t (if landed then ws else f ws) release nan inf sat landed
  | w => w

/-- Change the writes on their way in each stream of a core. -/
def Core.mapWrites (k : Nat) (f : Stream → List Wr → List Wr) (c : Core) : Core :=
  { c with
    se := { c.se with ctxs := c.se.ctxs.map (fun x : Nat × SeCtx => (x.1, x.2.mapWrites (f (.se k x.1)))) }
    me := { c.me with jobs := c.me.jobs.map (fun j => { j with work := j.work.mapWrites (f (.me k)) }) }
    ve := { c.ve with chain := c.ve.chain.map (fun j => { j with writes := f (.ve k) j.writes }) } }

/-- The writes on their way in an ME job. -/
def MeWork.onWay : MeWork → List Wr
  | .store _ ws _ _ _ _ landed => if landed then [] else ws
  | _ => []

/-- The writes on their way in each stream of a core. -/
def Core.onWay (k : Nat) (c : Core) : List (Stream × List Wr) :=
  c.se.ctxs.map (fun x : Nat × SeCtx => (.se k x.1, ((x.2.inflight ++ x.2.toIssue).filter (fun t => !t.landed)).flatMap Xfer.writes))
    ++ [(.me k, c.me.jobs.flatMap (fun j => j.work.onWay)), (.ve k, (c.ve.chain.map ChainJob.writes).getD [])]

/-- The writes that all streams but one have on their way. -/
def State.othersOnWay (s : State) (st : Stream) : List Wr :=
  (s.cores.flatMap (fun c : Nat × Core => c.2.onWay c.1)).flatMap (fun w => if w.1 = st then [] else w.2)

/-- A write meets one of a list: some bit of its byte is written by both. -/
def Wr.meets (w : Wr) (os : List Wr) : Bool := os.any (fun o => o.a == w.a && (o.mask &&& w.mask) != 0)

/-- Writes of which those that meet others carry an undefined byte. -/
def blur (n : Nat) (os ws : List Wr) : List Wr :=
  ws.map (fun w => if w.meets os then { w with b := Config.freeByte n w.a } else w)

/-- The writes of a stream land (R179): in order within the stream; a byte that another stream has on its way too becomes
undefined, whichever lands last. DEDUCED, assumption 75. -/
def State.landStream (s : State) (st : Stream) (ws : List Wr) : State :=
  let os := s.othersOnWay st
  if ws.any (fun w => w.meets os) then
    let (n, s) := s.fresh 1
    let f (t : Stream) (vs : List Wr) : List Wr := if t = st then vs else blur n ws vs
    ({ s with cores := s.cores.map (fun c : Nat × Core => (c.1, c.2.mapWrites c.1 f)) }).land (blur n os ws)
  else s.land ws

end Sys2Proof.Machine
end

