-- ==== Sys2Proof/Machine/Desc.lean ====
section
/-! DEFINITION. Tensor descriptors (06): images, creation checks, resolution, reads and writes of elements. -/

namespace Sys2Proof.Machine

/-! ## Images (R169) -/

/-- Bytes [hi : lo] of an image as a number. -/
def bfld (bs : List Byte) (lo n : Nat) : Nat := leNat ((bs.drop lo).take n)

/-- Decode a descriptor image. -/
def decodeDesc (bs : List Byte) : Desc :=
  let b18 := bfld bs 18 1
  let b19 := bfld bs 19 1
  { base := bfld bs 0 6, allocBase := bfld bs 6 6, allocSize := bfld bs 12 6, fmt := BitVec.ofNat 4 b18,
    dir := bitAt b18 4, aw := BitVec.ofNat 2 (fld b18 5 2), padWrite := bitAt b18 7, rank := fld b19 0 3,
    padMode := bitAt b19 3, kind := BitVec.ofNat 2 (fld b19 4 2), scatAdd := bitAt b19 6,
    aux := BitVec.ofNat 16 (bfld bs 20 2), idxDim := fld (bfld bs 22 1) 0 3, padValue := BitVec.ofNat 32 (bfld bs 24 4),
    size := (List.range 6).map (fun d => bfld bs (28 + 3 * d) 3 + 1),
    stride := (List.range 6).map (fun d => sfld (bfld bs (48 + 4 * d) 4) 0 32),
    padLo := (List.range 6).map (fun d => bfld bs (72 + 2 * d) 1),
    padHi := (List.range 6).map (fun d => bfld bs (73 + 2 * d) 1) }

/-- A reserved field of an image is set. -/
def descReserved (bs : List Byte) : Bool :=
  bitAt (bfld bs 19 1) 7 || fld (bfld bs 22 1) 3 5 != 0 || bfld bs 23 1 != 0 || bfld bs 46 2 != 0
    || (bs.drop 84).any (· != 0)

def nth {α : Type} (l : List α) (d : Nat) (x : α) : α := (l[d]?).getD x

def Desc.n (t : Desc) (d : Nat) : Nat := nth t.size d 1
def Desc.s (t : Desc) (d : Nat) : Int := nth t.stride d 0
def Desc.lo (t : Desc) (d : Nat) : Nat := nth t.padLo d 0
def Desc.hi (t : Desc) (d : Nat) : Nat := nth t.padHi d 0
/-- Valid positions v_d of a dimension (R170). -/
def Desc.v (t : Desc) (d : Nat) : Int := (t.n d : Int) - t.lo d - t.hi d

def Desc.isGather (t : Desc) : Bool := t.kind == 2
def Desc.isScatter (t : Desc) : Bool := t.kind == 3
def Desc.indexed (t : Desc) : Bool := t.isGather || t.isScatter
/-- An F4b element tensor, and an F4b scale tensor (R169). -/
def Desc.f4bElem (t : Desc) : Bool := t.fmt == fmtF4b && t.kind == 0
def Desc.f4bScale (t : Desc) : Bool := t.kind == 1

/-- Element size in nibbles (R42, R169). -/
def Desc.nib (t : Desc) : Nat := if t.f4bScale then 2 else fmtBits t.fmt / 4

def Desc.awBytes (t : Desc) : Nat :=
  match t.aw with
  | 0 => 32
  | 1 => 64
  | 2 => 128
  | _ => 512

/-- The reachable stored-index interval of a dimension (R173). DEDUCED, assumption 28. -/
def Desc.reach (t : Desc) (d : Nat) : Int × Int :=
  if t.indexed && d == t.idxDim then (0, (t.n d : Int) - 1)
  else if t.dir && t.padWrite then (-(t.lo d : Int), t.v d - 1 + t.hi d)
  else (0, t.v d - 1)

/-- More than one reachable index. -/
def Desc.wide (t : Desc) (d : Nat) : Bool := decide ((t.reach d).1 < (t.reach d).2)

/-- The run dimension (R172). -/
def Desc.runDim (t : Desc) : Option Nat := (List.range 6).find? (fun d => decide (t.s d ≠ 0) && t.wide d)

/-- Check 4: kind, direction and format agree. -/
def Desc.kindOk (t : Desc) : Bool :=
  let auxUsed := t.f4bElem || t.indexed
  !(t.isGather && t.dir) && !(t.isScatter && !t.dir) && !(t.indexed && t.fmt == fmtF4b)
    && !(t.f4bScale && t.fmt != fmtF4b)
    && !(t.indexed && (decide (t.idxDim ≥ t.rank) || t.lo t.idxDim != 0 || t.hi t.idxDim != 0))
    && (auxUsed == (t.aux != 0xFFFF)) && !(t.padWrite && !t.dir) && !(t.padMode && t.dir)
    && !(t.f4bElem && (decide (t.s 0 ≠ 1) || t.lo 0 != 0 || t.hi 0 != 0))
    && !(t.scatAdd && !t.isScatter)

/-- The lowest and highest reachable element offset (R173). DEDUCED, assumption 28. -/
def Desc.span (t : Desc) : Int × Int :=
  (List.range 6).foldl (fun a d =>
    let x := (t.reach d).1 * t.s d
    let y := (t.reach d).2 * t.s d
    (a.1 + min x y, a.2 + max x y)) (0, 0)

/-- The region that an allocation lies in (R173): GDDR7, the bed of a present logical site, or a scratchpad of one. -/
inductive Region where
  | gddr
  | bed (l : Nat)
  | sp (l c : Nat)
deriving DecidableEq, Repr

def State.regionOf (s : State) (lo size : Nat) : Option Region :=
  match place lo with
  | .gddr a => if a + size ≤ gddrBytes then some .gddr else none
  | .bed l o => if (s.physOf l).isSome ∧ o + size ≤ bedSize then some (.bed l) else none
  | .core l c o => if (s.physOf l).isSome ∧ o + size ≤ 0x400000 then some (.sp l c) else none
  | _ => none

/-- Insert by ascending |stride|, ties by ascending dimension (R174). -/
def insertStride (t : Desc) (d : Nat) : List Nat → List Nat
  | [] => [d]
  | e :: r => if (t.s d).natAbs < (t.s e).natAbs then d :: e :: r else e :: insertStride t d r

/-- The sorted-stride extent test of R174: the failing dimension, if any. -/
def Desc.alias (t : Desc) : Option Nat :=
  let ds := ((List.range t.rank).filter t.wide).foldl (fun acc d => insertStride t d acc) []
  (ds.foldl (fun (acc : Nat × Option Nat) d =>
    match acc.2 with
    | some b => (acc.1, some b)
    | none =>
      let a := (t.s d).natAbs
      if a ≤ acc.1 then (acc.1, some d)
      else (acc.1 + a * ((t.reach d).2 - (t.reach d).1).toNat, none)) (0, none)).2

/-- The first failing creation check of R171: check number, SE_CAUSE bit, dimension. DEDUCED, assumption 28. -/
def State.descCheck (s : State) (dmemAddr : Nat) (bs : List Byte) : Option (Nat × Nat × Nat) :=
  let t := decodeDesc bs
  let neutral := (List.range 6).all (fun d => decide (d < t.rank) ||
    (t.n d == 1 && decide (t.s d = 0) && t.lo d == 0 && t.hi d == 0))
  let al (x : Int) : Bool := decide (x % (t.awBytes : Int) = 0)
  let badStride := (List.range 6).find? (fun d => t.wide d && t.runDim != some d &&
    !decide ((t.s d * (t.nib : Int)) % (2 * t.awBytes : Int) = 0))
  let region := s.regionOf t.allocBase t.allocSize
  let lowByte : Int := (t.base : Int) + (t.nib : Int) * t.span.1 / 2
  let highByte : Int := (t.base : Int) + ((t.nib : Int) * (t.span.2 + 1) + 1) / 2 - 1
  if dmemAddr + 128 > 65536 then some (1, 0, 0)
  else if descReserved bs || t.rank == 0 || t.rank > 6 || !neutral
      || (List.range 6).any (fun d => decide (t.v d < 1)) then some (2, 4, 0)
  else if fmtReserved t.fmt then some (3, 1, 0)
  else if !t.kindOk then some (4, 4, 0)
  else if !al t.base || !al t.allocBase || !al t.allocSize then some (5, 5, 0)
  else match badStride with
  | some d => some (5, 5, d)
  | none =>
    if region == some .gddr && t.aw == 0 then some (5, 5, 0)
    else if region.isNone || decide (lowByte < t.allocBase)
        || decide (highByte ≥ (t.allocBase : Int) + t.allocSize) then some (6, 6, 0)
    else if t.dir then (match t.alias with
      | some d => some (7, 7, d)
      | none => none)
    else none

/-! ## Resolution (R168, R180) -/

/-- A descriptor copy with the copy of its auxiliary descriptor. DEDUCED, assumption 28. -/
structure RDesc where
  d : Desc
  aux : Option Desc
deriving DecidableEq, Repr

/-- How a descriptor may be used: direction, whether a scatter may be named, whether a scale tensor may be named
directly. -/
structure Use where
  write : Bool
  scatter : Bool
  scale : Bool
deriving DecidableEq, Repr

/-- An index tensor: a read descriptor of rank 1 with format U16 or U32, plain (R180, R181). -/
def Desc.isIndex (t : Desc) : Bool := !t.dir && t.rank == 1 && (t.fmt == fmtU16 || t.fmt == fmtU32) && t.kind == 0

/-- Resolve a descriptor index; none is desc_fault (R180). Reach is the caller's to test. -/
def resolve (tab : Nat → Option Desc) (u : Use) (i : Nat) : Option RDesc :=
  if i ≥ 512 then none
  else match tab i with
  | none => none
  | some t =>
    if t.dir != u.write then none
    else if t.isScatter && !u.scatter then none
    else if t.f4bScale && !u.scale then none
    else if t.f4bElem then
      (match (if t.aux.toNat < 512 then tab t.aux.toNat else none) with
       | some a =>
         if a.f4bScale && a.dir == t.dir && decide ((a.n 0 : Int) = (t.v 0 + 15) / 16) then some { d := t, aux := some a }
         else none
       | none => none)
    else if t.indexed then
      (match (if t.aux.toNat < 512 then tab t.aux.toNat else none) with
       | some a => if a.isIndex then some { d := t, aux := some a } else none
       | none => none)
    else some { d := t, aux := none }

/-- Logical size of a dimension: that of the index tensor along idx_dim (R170). -/
def RDesc.size (r : RDesc) (d : Nat) : Nat :=
  match r.aux with
  | some a => if r.d.indexed && d == r.d.idxDim then a.n 0 else r.d.n d
  | none => r.d.n d

def RDesc.sizes (r : RDesc) : List Nat := (List.range 6).map r.size

/-! ## Reading an element (R175, R176, R181) -/

/-- Flags and events gathered while elements move. -/
structure Acc where
  clamp : Bool
  drop : Bool
  padWritten : Bool
  poison : Bool
  ev : List MemEv
deriving DecidableEq, Repr

def Acc.init : Acc := { clamp := false, drop := false, padWritten := false, poison := false, ev := [] }

def Acc.join (a b : Acc) : Acc :=
  { clamp := a.clamp || b.clamp, drop := a.drop || b.drop, padWritten := a.padWritten || b.padWritten,
    poison := a.poison || b.poison, ev := a.ev ++ b.ev }

/-- An element as it is read: format, code, scale byte of an F4b block, whether its word is poisoned, and the nibble
address it was read at (none for a synthesised pad). -/
structure Elem where
  fmt : BitVec 4
  code : Nat
  scale : Nat
  poison : Bool
  na : Option Nat
deriving DecidableEq, Repr

def clampInt (x lo hi : Int) : Int := if x < lo then lo else if x > hi then hi else x

/-- Address of the nibble of a stored index, moved up by `rel` bytes (R170, R199). -/
def Desc.nibAddr (t : Desc) (rel : Nat) (j : List Int) : Nat :=
  let off := (List.range 6).foldl (fun a d => a + nth j d 0 * t.s d) (0 : Int)
  (2 * ((t.base + rel : Nat) : Int) + (t.nib : Int) * off).toNat

/-- Who makes an engine's accesses: the core it belongs to. -/
structure Mover where
  req : Requester
  own : Option Nat
deriving DecidableEq, Repr

/-- Read the raw code at a stored index. -/
def State.rawElem (s : State) (p : Mover) (t : Desc) (rel : Nat) (j : List Int) : Elem × List MemEv :=
  let na := t.nibAddr rel j
  let bytes := (t.nib + 1) / 2
  let r := s.readAs p.req p.own (na / 2) bytes
  let v := leNat r.bytes
  ({ fmt := t.fmt, code := if t.nib == 1 then fld v (4 * (na % 2)) 4 else v, scale := 0, poison := r.poison,
     na := some na }, r.ev)

/-- Read a plain descriptor without an auxiliary at logical index `i`: clamp, pads (R175, R176). -/
def State.plainElem (s : State) (p : Mover) (t : Desc) (rel : Nat) (i : List Int) : Elem × Acc :=
  let ic := (List.range 6).map (fun d => clampInt (nth i d 0) 0 ((t.n d : Int) - 1))
  let clamp := (List.range 6).any (fun d => nth ic d 0 != nth i d 0)
  let j := (List.range 6).map (fun d => nth ic d 0 - t.lo d)
  let isPad := (List.range 6).any (fun d => decide (nth j d 0 < 0) || decide (nth j d 0 ≥ t.v d))
  if isPad && t.padMode then
    ({ fmt := t.fmt, code := t.padValue.toNat % 2 ^ (4 * t.nib), scale := 0, poison := false, na := none },
      { Acc.init with clamp := clamp })
  else
    let jc := (List.range 6).map (fun d => clampInt (nth j d 0) 0 (t.v d - 1))
    let (e, ev) := s.rawElem p t rel jc
    (e, { Acc.init with clamp := clamp, poison := e.poison, ev := ev })

/-- The value of an index element: a poisoned one reads as 0 (07 R190). -/
def Elem.index (e : Elem) : Int := if e.poison then 0 else (e.code : Int)

/-- Some element of the F4b block of a stored index is poisoned (07 R190). -/
def State.blockPoison (s : State) (p : Mover) (t : Desc) (rel : Nat) (j : List Int) : Bool :=
  (List.range 16).any (fun o =>
    let j0 := nth j 0 0 / 16 * 16 + o
    decide (j0 < t.v 0) && (s.rawElem p t rel ((List.range 6).map (fun d => if d == 0 then j0 else nth j d 0))).1.poison)

/-- Read a resolved read descriptor at logical index `i` (R175, R176, R181, R48). An F4b tensor with pads above dimension 0
and pad_mode = 1, which creation accepts, reads the nibble of pad_value under the scale of the nearest block. DESIGN CHOICE, assumption 77. -/
def State.elem (s : State) (p : Mover) (r : RDesc) (rel : Nat) (i : List Int) : Elem × Acc :=
  let t := r.d
  match r.aux with
  | none => s.plainElem p t rel i
  | some a =>
    if t.isGather then
      let (ie, ia) := s.plainElem p a 0 [nth i t.idxDim 0]
      let u := clampInt ie.index 0 ((t.n t.idxDim : Int) - 1)
      let i' := (List.range 6).map (fun d => if d == t.idxDim then u else nth i d 0)
      let (e, ac) := s.plainElem p t rel i'
      (e, ia.join { ac with clamp := ac.clamp || u != ie.index })
    else
      let (e, ac) := s.plainElem p t rel i
      let j := (List.range 6).map (fun d =>
        clampInt (clampInt (nth i d 0) 0 ((t.n d : Int) - 1) - t.lo d) 0 (t.v d - 1))
      let (se, sa) := s.plainElem p a 0 ((List.range 6).map (fun d => if d == 0 then nth j 0 0 / 16 else nth j d 0))
      let bad := se.poison || s.blockPoison p t rel j
      ({ e with scale := if bad then 255 else se.code, poison := bad }, ac.join { sa with poison := bad })

/-- The exact value of an element under the reader's G16 scale, poison reading as canonical NaN, an E = 0xFF block, or
0 (07 R190, R220). -/
def Elem.val (e : Elem) (g16k : Int) : Val :=
  if e.fmt == fmtF4b then (if e.scale == 255 then .nan else (layF4b.decode e.code).scale ((e.scale : Int) - 127))
  else if e.poison then (if e.fmt == fmtU16 || e.fmt == fmtU32 then .fin false 0 0 else .nan)
  else fmtDecode e.fmt g16k e.code

/-- The element widened to FP32 (02 R63). -/
def Elem.widened (e : Elem) (g16k : Int) : Val := fp32 (e.val g16k)

/-- The value a conversion rounds: exact, but through FP32 for F4b, G16 and U32 sources (02 R63). -/
def Elem.source (e : Elem) (g16k : Int) : Val :=
  if e.fmt == fmtF4b || e.fmt == fmtG16 || e.fmt == fmtU32 then e.widened g16k else e.val g16k

/-- An integer format. -/
def fmtInt (f : BitVec 4) : Bool := f == fmtU16 || f == fmtU32

/-- The value a copy converts into a destination format: a poisoned element is a NaN, and 0 for an integer destination
(07 R220). -/
def Elem.carried (e : Elem) (dst : BitVec 4) (g16k : Int) : Val :=
  if e.poison then (if fmtInt dst then .fin false 0 0 else .nan) else e.source g16k

/-- The code a move copies: a poisoned element moves as canonical NaN or 0, a poisoned scale byte as 0xFF (07 R220). -/
def Elem.moved (e : Elem) (scaleTensor : Bool) : Nat :=
  if scaleTensor then (if e.poison then 255 else e.code)
  else if e.poison then
    (if e.fmt == fmtU16 || e.fmt == fmtU32 then 0 else if e.fmt == fmtF4b then e.code else (fmtLayout e.fmt).nanCode)
  else e.code

/-! ## Writing elements (R177, R178, R511) -/

/-- What is written at a destination index: a value to convert, or bits to move. -/
inductive Src where
  | val (v : Val)
  | code (c : Nat)
deriving DecidableEq, Repr

/-- One element to write: destination logical index, what, and the number of the transfer that carries it (07 R201). -/
structure WElem where
  i : List Int
  src : Src
  run : Nat := 0
deriving DecidableEq, Repr

/-- The rounding index of a logical position over sizes, dimension 0 fastest (02 R57). -/
def rowMajor (sizes : List Nat) (i : List Int) : Nat :=
  ((List.range 6).foldl (fun (acc : Int × Nat) d => (acc.1 + nth i d 0 * (acc.2 : Int), acc.2 * nth sizes d 1)) (0, 1)).1.toNat

/-- How a position of a write descriptor is treated (R177). -/
inductive WPos where
  | outside | padSkip | padPut | valid
deriving DecidableEq, Repr

def Desc.wpos (t : Desc) (i : List Int) : WPos :=
  if (List.range 6).any (fun d => decide (nth i d 0 < 0) || decide (nth i d 0 ≥ (t.n d : Int))) then .outside
  else if (List.range 6).any (fun d => decide (nth i d 0 < t.lo d) || decide (nth i d 0 ≥ (t.lo d : Int) + t.v d)) then
    (if t.padWrite then .padPut else .padSkip)
  else .valid

def Desc.stored (t : Desc) (i : List Int) : List Int := (List.range 6).map (fun d => nth i d 0 - t.lo d)

/-- The conversion of a command: mode, key, index base and G16 scale (02 R56, R57). -/
structure Cvt where
  mode : BitVec 3
  key : SrKey
  indexBase : Nat
  g16k : Int
deriving DecidableEq, Repr

/-- What one written element amounts to: its bytes (logical addresses), numeric status, and its transfer. -/
structure WOut where
  ws : List Wr
  nan : Bool
  inf : Bool
  sat : Bool
  run : Nat := 0
deriving DecidableEq, Repr

/-- The byte writes of a code at a nibble address. -/
def codeWrites (na nib code : Nat) : List Wr :=
  if nib == 1 then
    [{ a := na / 2, b := BitVec.ofNat 8 (code * 16 ^ (na % 2)), mask := if na % 2 == 0 then 0x0F else 0xF0 }]
  else bytesAt (na / 2) (leBytes (nib / 2) code)

/-- Write one element of a format other than F4b at a stored index. -/
def putElem (t : Desc) (rel : Nat) (cv : Cvt) (j : List Int) (idx : Nat) (src : Src) (run : Nat) : WOut :=
  let c : Cv := match src with
    | .code c => { code := c, nan := codeNan t.fmt c, inf := codeInf t.fmt c, sat := false }
    | .val v => fmtEncode t.fmt cv.g16k (rndAt cv.mode cv.key ((idx + cv.indexBase) % 2 ^ 48)) v
  { ws := codeWrites (t.nibAddr rel j) t.nib c.code, nan := c.nan, inf := c.inf, sat := c.sat, run := run }

/-- The position of each element, dropping those R177 drops, with the flags. -/
def placeElems (t : Desc) (es : List WElem) : List (WElem × Nat) × Acc :=
  let r := es.foldl (fun (acc : List (WElem × Nat) × Acc) e =>
    match t.wpos e.i with
    | .outside => (acc.1, { acc.2 with drop := true })
    | .padSkip => acc
    | .padPut => ((e, rowMajor t.size e.i) :: acc.1, { acc.2 with padWritten := true })
    | .valid => ((e, rowMajor t.size e.i) :: acc.1, acc.2)) ([], Acc.init)
  (r.1.reverse, r.2)

/-- The block of a stored index (R511). DEDUCED, assumption 29. -/
def blockOf (j : List Int) : List Int := (List.range 6).map (fun d => if d == 0 then nth j 0 0 / 16 else nth j d 0)

/-- The value an element to be written carries, for conversion into F4b. -/
def Src.value : Src → Val
  | .val v => v
  | .code _ => .nan

/-- The bytes of a block's scale through the scale descriptor, whose own positions R177 governs. DEDUCED, assumption 29. -/
def Desc.scaleWrites (a : Desc) (b : List Int) (e : Nat) : List Wr :=
  match a.wpos b with
  | .outside => []
  | .padSkip => []
  | _ => codeWrites (a.nibAddr 0 (a.stored b)) 2 e

/-- The flags of a block's scale write (R177, R187). DEDUCED, assumption 29. -/
def Desc.scaleFlags (a : Desc) (b : List Int) : Acc :=
  match a.wpos b with
  | .outside => { Acc.init with drop := true }
  | .padPut => { Acc.init with padWritten := true }
  | _ => Acc.init

/-- Write converted elements through a resolved write descriptor (R177, R178, R511), in order. -/
def writeElems (r : RDesc) (rel : Nat) (cv : Cvt) (es : List WElem) : List WOut × Acc :=
  let t := r.d
  let (ps, ac) := placeElems t es
  match t.f4bElem, r.aux with
  | true, some a =>
    let blocks := (ps.map (fun p => blockOf (t.stored p.1.i))).eraseDups
    (blocks.flatMap (fun b =>
      let mem := ps.filter (fun p => blockOf (t.stored p.1.i) == b)
      let e := Machine.f4bScale (mem.map (fun p => p.1.src.value))
      { ws := a.scaleWrites b e, nan := e == 255, inf := false, sat := false, run := (mem.map (fun p => p.1.run)).foldl max 0 } ::
      mem.map (fun p =>
        let c := Machine.f4bElem (rndAt cv.mode cv.key ((p.2 + cv.indexBase) % 2 ^ 48)) e p.1.src.value
        { ws := codeWrites (t.nibAddr rel (t.stored p.1.i)) 1 c.code, nan := c.nan, inf := false, sat := c.sat,
          run := p.1.run })),
      blocks.foldl (fun ac b => ac.join (a.scaleFlags b)) ac)
  | _, _ => (ps.map (fun p => putElem t rel cv (t.stored p.1.i) p.2 p.1.src p.1.run), ac)

/-- Move F4b elements block by block (R511, second case): each entry is a destination index with nibble and the source
block's scale byte. DEDUCED, assumption 29. -/
def moveF4b (r : RDesc) (rel : Nat) (es : List (WElem × Nat)) : List WOut × Acc :=
  let t := r.d
  match r.aux with
  | none => ([], Acc.init)
  | some a =>
    let rs := es.map (fun e =>
      match t.wpos e.1.i with
      | .outside => ([], { Acc.init with drop := true })
      | .padSkip => ([], Acc.init)
      | pos =>
        let j := t.stored e.1.i
        let c := match e.1.src with
          | .code c => c
          | .val _ => 0
        ([{ ws := a.scaleWrites (blockOf j) e.2 ++ codeWrites (t.nibAddr rel j) 1 c,
            nan := e.2 == 255, inf := false, sat := false, run := e.1.run }],
          (a.scaleFlags (blockOf j)).join { Acc.init with padWritten := decide (pos = .padPut) }))
    (rs.flatMap Prod.fst, (rs.map Prod.snd).foldl Acc.join Acc.init)

/-- Check, translate and sum up the elements an engine writes: the writes that may land (physical view), numeric status
of the elements that go out, and what the refused ones met. -/
structure Issued where
  ws : List Wr
  nan : Bool
  inf : Bool
  sat : Bool
  ev : List MemEv
deriving DecidableEq, Repr

def State.issueElems (s : State) (p : Mover) (os : List WOut) : Issued :=
  let r := os.foldl (fun (acc : Issued) o =>
    let (ws, ev) := s.issueWrites p.req p.own o.ws
    let live := !ws.isEmpty
    { ws := ws.reverse ++ acc.ws, nan := acc.nan || (live && o.nan), inf := acc.inf || (live && o.inf),
      sat := acc.sat || (live && o.sat), ev := ev.reverse ++ acc.ev })
    { ws := [], nan := false, inf := false, sat := false, ev := [] }
  { r with ws := r.ws.reverse, ev := r.ev.reverse }

/-- Set SE_TD_STAT (R187). -/
def State.tdStat (s : State) (k : Nat) (a : Acc) : State :=
  s.modSe k (fun e => { e with tdStat := e.tdStat ||| BitVec.ofNat 3 (bit a.clamp + 2 * bit a.drop + 4 * bit a.padWritten) })

/-- The descriptor table of a core (R165). -/
def Se.desc (e : Se) (i : Nat) : Option Desc := sget (fun _ => none) e.tdescs i

end Sys2Proof.Machine
end

