-- ==== Sys2Proof/Machine/Operands.lean ====
section
/-! DEFINITION. Operand forms of the control core: bundles, slots and their decoding (08 R232–R240). -/

namespace Sys2Proof.Machine

/-- One 16-bit unit of a bank; addresses wrap within the bank (R232). -/
def unitAt (m : Mem) (u : Nat) : Nat := m.nat (2 * (u % 65536)) 2

/-- `n` units from `u` on, least significant first. -/
def unitsAt (m : Mem) (u : Nat) : Nat → Nat
  | 0 => 0
  | n + 1 => unitAt m u + 65536 * unitsAt m (u + 1) n

/-- A fetched bundle: header and the slots it marks present (R232). -/
structure Bundle where
  header : Nat
  len : Nat
  s0 : Option Nat
  s1 : Option Nat
  s2 : Option Nat
  s3 : Option Nat
  s4 : Option Nat
  s5 : Option Nat
deriving DecidableEq, Repr

/-- Length in units of a bundle with this header. -/
def bundleLen (h : Nat) : Nat :=
  1 + 2 * (bit (bitAt h 0) + bit (bitAt h 1) + bit (bitAt h 2)) + 4 * (bit (bitAt h 3) + bit (bitAt h 4) + bit (bitAt h 5))

/-- Fetch a bundle. -/
def fetchBundle (m : Mem) (pc : Nat) : Bundle :=
  let h := unitAt m pc
  let p (i : Nat) := bit (bitAt h i)
  let o0 := pc + 1
  let o1 := o0 + 2 * p 0
  let o2 := o1 + 2 * p 1
  let o3 := o2 + 2 * p 2
  let o4 := o3 + 4 * p 3
  let o5 := o4 + 4 * p 4
  let g (i o n : Nat) : Option Nat := if bitAt h i then some (unitsAt m o n) else none
  { header := h, len := bundleLen h, s0 := g 0 o0 2, s1 := g 1 o1 2, s2 := g 2 o2 2, s3 := g 3 o3 4, s4 := g 4 o4 4,
    s5 := g 5 o5 4 }

/-- Operations of slots S0 and S1 (R236, R237). `alu` and `imm` keep the opcode. -/
inductive SOp where
  | nop
  | alu (op rd rs1 rs2 : Nat)
  | imm (op rd rs1 imm : Nat)
  | cnti (rd eng : Nat)
  | patch (w : Nat)
  | b (off : Nat)
  | br (op rs1 rs2 off : Nat)
  | jal (rd off : Nat)
  | jr (rs1 : Nat)
  | loop (level rs1 stop : Nat)
  | switch (chk : Bool) (rs1 target : Nat)
  | wait (eng : Nat) (started : Bool) (rs1 : Nat)
  | sync (mask : Nat)
  | beacon (rs1 num : Nat)
  | stop (code : Nat)
  | brk
deriving DecidableEq, Repr

/-- The scalar operations of R236; none is bad_instr. -/
def decodeScalar (w : Nat) : Option SOp :=
  let op := fld w 0 6
  let rd := fld w 6 5
  let rs1 := fld w 11 5
  let rs2 := fld w 16 5
  let imm := fld w 16 16
  if op == 0 then (if w / 64 == 0 then some .nop else none)
  else if 1 ≤ op ∧ op ≤ 0x0D then (if fld w 21 11 == 0 then some (.alu op rd rs1 rs2) else none)
  else if 0x10 ≤ op ∧ op ≤ 0x13 then some (.imm op rd rs1 imm)
  else if 0x14 ≤ op ∧ op ≤ 0x16 then (if fld imm 5 11 == 0 then some (.imm op rd rs1 imm) else none)
  else if op == 0x17 then some (.imm op rd rs1 imm)
  else if op == 0x18 then (if rs1 == 0 then some (.imm op rd rs1 imm) else none)
  else if op == 0x19 ∨ op == 0x1A then
    (if fld imm 10 6 == 0 ∧ fld imm 0 5 + fld imm 5 5 + 1 ≤ 32 then some (.imm op rd rs1 imm) else none)
  else if op == 0x1B then (if rs1 == 0 ∧ imm < 3 then some (.cnti rd imm) else none)
  else if op == 0x1E then some (.patch w)
  else none

/-- Slot S1: scalar and control operations (R237). -/
def decodeS1 (w : Nat) : Option SOp :=
  let op := fld w 0 6
  let rs1 := fld w 11 5
  let hi := fld w 16 16
  if op < 0x20 then decodeScalar w
  else if op == 0x20 then (if fld w 6 10 == 0 then some (.b hi) else none)
  else if 0x21 ≤ op ∧ op ≤ 0x26 then some (.br op rs1 (fld w 6 5) hi)
  else if op == 0x27 then (if rs1 == 0 then some (.jal (fld w 6 5) hi) else none)
  else if op == 0x28 then (if fld w 6 5 == 0 ∧ hi == 0 then some (.jr rs1) else none)
  else if op == 0x29 then (if fld w 8 3 == 0 ∧ hi ≠ 0 then some (.loop (fld w 6 2) rs1 hi) else none)
  else if op == 0x2A then (if fld w 7 4 == 0 then some (.switch (bitAt w 6) rs1 hi) else none)
  else if op == 0x2B then
    (if fld w 9 2 == 0 ∧ hi == 0 ∧ fld w 6 2 < 3 then some (.wait (fld w 6 2) (bitAt w 8) rs1) else none)
  else if op == 0x2C then (if w / 512 == 0 ∧ fld w 6 3 ≠ 0 then some (.sync (fld w 6 3)) else none)
  else if op == 0x2D then
    (if fld w 6 5 == 0 ∧ fld w 28 4 == 0 ∧ fld w 16 12 < 0xFFD then some (.beacon rs1 (fld w 16 12)) else none)
  else if op == 0x2E then (if fld w 6 10 == 0 then some (.stop hi) else none)
  else if op == 0x2F then (if w / 64 == 0 then some .brk else none)
  else none

/-- Operations of slot S2 (R238). -/
inductive DOp where
  | nop
  | load (size : Nat) (signed : Bool) (rd rs1 imm : Nat)
  | store (size rs2 rs1 imm : Nat)
  | rdreg (rd off : Nat)
deriving DecidableEq, Repr

def decodeS2 (w : Nat) : Option DOp :=
  let op := fld w 0 6
  let rd := fld w 6 5
  let rs1 := fld w 11 5
  let imm := fld w 16 16
  match op with
  | 0x00 => if w / 64 == 0 then some .nop else none
  | 0x01 => some (.load 4 false rd rs1 imm)
  | 0x02 => some (.load 2 true rd rs1 imm)
  | 0x03 => some (.load 2 false rd rs1 imm)
  | 0x04 => some (.load 1 true rd rs1 imm)
  | 0x05 => some (.load 1 false rd rs1 imm)
  | 0x08 => some (.store 4 rd rs1 imm)
  | 0x09 => some (.store 2 rd rs1 imm)
  | 0x0A => some (.store 1 rd rs1 imm)
  | 0x10 =>
    if rs1 == 0 ∧ ((imm % 4 == 0 ∧ imm ≤ 0xFC) ∨ imm == 0xF80) then some (.rdreg rd imm) else none
  | _ => none

/-- The register a slot writes, 0 when none (R234). -/
def SOp.dest : SOp → Nat
  | .alu _ rd _ _ => rd
  | .imm _ rd _ _ => rd
  | .cnti rd _ => rd
  | .jal rd _ => rd
  | _ => 0

/-- The registers a slot reads. -/
def SOp.sources : SOp → List Nat
  | .alu _ _ r1 r2 => [r1, r2]
  | .imm op rd a _ => if op == 0x19 then [rd, a] else if op == 0x18 then [] else [a]
  | .patch w => [fld w 11 5]
  | .br _ r1 r2 _ => [r1, r2]
  | .jr a => [a]
  | .loop _ a _ => [a]
  | .switch chk a _ => if chk then [a] else []
  | .wait _ _ a => [a]
  | .beacon a _ => [a]
  | _ => []

def DOp.dest : DOp → Nat
  | .load _ _ rd _ _ => rd
  | .rdreg rd _ => rd
  | _ => 0

def DOp.sources : DOp → List Nat
  | .load _ _ _ a _ => [a]
  | .store _ r2 r1 _ => [r2, r1]
  | _ => []

/-! ## TQ.PATCH (R240) -/

/-- A patch: slot, lowest command bit, width, source register and lowest source bit. -/
structure Patch where
  slot : Nat
  lsb : Nat
  w : Nat
  rs1 : Nat
  src : Nat
  reserved : Nat
deriving DecidableEq, Repr

def decodePatch (w : Nat) : Patch :=
  { slot := fld w 6 2, lsb := fld w 16 6, w := fld w 22 5 + 1, rs1 := fld w 11 5, src := fld w 27 5,
    reserved := fld w 8 3 }

/-- The fields keep R240. -/
def Patch.ok (p : Patch) : Bool :=
  decide (p.slot ≠ 3 ∧ p.reserved = 0 ∧ p.lsb + p.w ≤ 64 ∧ p.src + p.w ≤ 32)

/-- Replace bits [lsb + w − 1 : lsb] of a command with source bits. -/
def Patch.apply (p : Patch) (cmd x : Nat) : Nat :=
  cmd - fld cmd p.lsb p.w * 2 ^ p.lsb + fld x p.src p.w * 2 ^ p.lsb

/-- Two patches of one command write overlapping bits. -/
def Patch.overlaps (p q : Patch) : Bool :=
  p.slot == q.slot && decide (p.lsb < q.lsb + q.w ∧ q.lsb < p.lsb + p.w)

/-! ## Scalar results (R229, R236) -/

def sx16 (imm : Nat) : Word := (BitVec.ofNat 16 imm).signExtend 32

def aluOp (op : Nat) (a b : Word) : Word :=
  match op with
  | 0x01 => a + b
  | 0x02 => a - b
  | 0x03 => a &&& b
  | 0x04 => a ||| b
  | 0x05 => a ^^^ b
  | 0x06 => a <<< (b.toNat % 32)
  | 0x07 => a >>> (b.toNat % 32)
  | 0x08 => a.sshiftRight (b.toNat % 32)
  | 0x09 => if a.slt b then 1 else 0
  | 0x0A => if a.ult b then 1 else 0
  | 0x0B => a * b
  | 0x0C => if b.slt a then b else a
  | 0x0D => if a.slt b then b else a
  | _ => 0

def immOp (op : Nat) (d a : Word) (imm : Nat) : Word :=
  let z := BitVec.ofNat 32 imm
  let lsb := fld imm 0 5
  let w := fld imm 5 5 + 1
  match op with
  | 0x10 => a + sx16 imm
  | 0x11 => a &&& z
  | 0x12 => a ||| z
  | 0x13 => a ^^^ z
  | 0x14 => a <<< (imm % 32)
  | 0x15 => a >>> (imm % 32)
  | 0x16 => a.sshiftRight (imm % 32)
  | 0x17 => if a.slt (sx16 imm) then 1 else 0
  | 0x18 => z <<< 16
  | 0x19 => BitVec.ofNat 32 (d.toNat - fld d.toNat lsb w * 2 ^ lsb + fld a.toNat 0 w * 2 ^ lsb)
  | 0x1A => BitVec.ofNat 32 (fld a.toNat lsb w)
  | _ => 0

/-- The comparison of a conditional branch (R237). -/
def brTaken (op : Nat) (a b : Word) : Bool :=
  match op with
  | 0x21 => a == b
  | 0x22 => a != b
  | 0x23 => a.slt b
  | 0x24 => !a.slt b
  | 0x25 => a.ult b
  | 0x26 => !a.ult b
  | _ => false

end Sys2Proof.Machine
end

