-- ==== Sys2Proof/Machine/Cc.lean ====
section
/-! DEFINITION. The control core: its registers, the bundle step and its commands (08). -/

namespace Sys2Proof.Machine

/-! ## Registers of the CC block (R262–R265) -/

/-- Scalar register `n`; x0 reads 0 (R228). -/
def Cc.reg (c : Cc) (n : Nat) : Word := if n == 0 then 0 else sget (fun _ => 0) c.regs n

/-- Write scalar register `n`; writes to x0 are discarded (R228). -/
def Cc.setReg (c : Cc) (n : Nat) (v : Word) : Cc :=
  if n == 0 then c else { c with regs := sset (fun _ => 0) c.regs n v }

def CcSt.code : CcSt → Nat
  | .stopped => 0
  | .running => 1
  | .queueWait => 2
  | .syncWait => 3
  | .debugHalted => 4
  | .paused => 5
  | .halted => 6
  | .fault => 7

/-- Debug is enabled; a sealed context holds CC_DBG.en at 0 (R260). -/
def State.dbgEn (s : State) (k : Nat) : Bool := (s.core k).cc.ctl.dbgEn && !s.coreSealed k

/-- States in which CC_XREG may be accessed (R260). -/
def CcSt.xregOk (st : CcSt) : Bool := [0, 4, 5, 6, 7].contains st.code

def EngCnt.reg (c : EngCnt) : Nat := pack [(c.issued.toNat, 0), (c.started.toNat, 16), (c.done.toNat, 32)]

def NumStat.reg (n : NumStat) : Nat :=
  pack [(bit n.nan, 0), (bit n.inf, 1), (bit n.sat, 2), (bit (n.nan || n.inf), 3),
    (n.firstTag.toNat, 16)]

/-- From P3 on every CC and SE is paused (16 R477). -/
def State.paused3 (s : State) : Bool := decide (s.pwr.level ≥ 3)

/-- The CC fetches bundles in states running, queue_wait and sync_wait (R255). -/
def CcSt.fetches : CcSt → Bool
  | .running => true
  | .queueWait => true
  | .syncWait => true
  | _ => false

/-- The state a CC is in (R255). -/
def State.ccSt (s : State) (k : Nat) : CcSt := if s.paused3 && (s.core k).cc.st.fetches then .paused else (s.core k).cc.st

/-- Read a register of the CC block at an 8-byte aligned offset (CC_NUM_STAT at 0xF80). -/
def State.ccRead (s : State) (k off : Nat) : Nat :=
  let c := (s.core k).cc
  let t := c.ctl
  match off with
  | 0x000 => pack [(bit t.pause, 0), (bit t.haltOnLog, 1), (bit t.beaconStall, 2), (bit t.traceCmds, 3)]
  | 0x008 => pack [((s.ccSt k).code, 0), (bit c.bank, 3), (c.pc.toNat, 4),
      (bitsOf 4 (fun i => c.loops.any (fun l => l.level.toNat == i)), 20), (c.eng.toNat, 24), (c.stopCode.toNat, 32)]
  | 0x010 => c.cause.toNat
  | 0x018 => c.causeMask.toNat
  | 0x028 => pack [(bit (s.dbgEn k), 0), (bit t.dbgStep, 1), (bit t.cntEn, 3), (bit t.tagEn, 4), (t.why.toNat, 8)]
  | 0x030 => t.brkCnt.toNat
  | 0x038 => pack [(t.brkTag.toNat, 0), (t.brkMask.toNat, 16), (t.brkEng.toNat, 32)]
  | 0x040 => t.beaconMask.toNat
  | 0x048 => c.beaconDrop.toNat
  | 0x050 => pack [(c.errNext.toNat, 0), (c.errSeq.toNat, 16)]
  | 0x058 => pack [(c.verA.toNat, 0), (c.verB.toNat, 16)]
  | 0x060 => c.meCnt.reg
  | 0x068 => c.veCnt.reg
  | 0x070 => c.seCnt.reg
  | 0x078 => c.perf.cmd.toNat
  | 0x080 => c.perf.cycle.toNat
  | 0x088 => c.perf.bundle.toNat
  | 0x090 => c.perf.stallMe.toNat
  | 0x098 => c.perf.stallVe.toNat
  | 0x0A0 => c.perf.stallSe.toNat
  | 0x0A8 => c.perf.stallWait.toNat
  | 0x0B0 => c.perf.stallHaz.toNat
  | 0x0B8 => s.tick.toNat
  | 0xF80 => c.numStat.reg
  | _ =>
    if 0x100 ≤ off ∧ off < 0x200 then
      let e := sget (fun _ => ({ word0 := 0, tick := 0 } : ErrEntry)) c.errlog ((off - 0x100) / 16)
      if off % 16 == 0 then e.word0.toNat else e.tick.toNat
    else if 0x200 ≤ off ∧ off < 0x300 then
      (if (s.ccSt k).xregOk && s.dbgEn k then (c.reg ((off - 0x200) / 8)).toNat else 0)
    else 0

/-! ## Instruction memory -/

def Cc.imem (c : Cc) (bankB : Bool) : Mem := if bankB then c.imemB else c.imemA

/-- Window writes already taken from the mesh reach IMEM (R251). DEDUCED, assumption 33. -/
def Cc.drainImem (c : Cc) : Cc :=
  c.imemBusy.foldl (fun c w =>
    if w.1 then { c with imemB := c.imemB.setBytes w.2.1 w.2.2 } else { c with imemA := c.imemA.setBytes w.2.1 w.2.2 })
    { c with imemBusy := [] }

/-- The active bank, if any (R250). -/
def Cc.activeBank (c : Cc) : Option Bool :=
  match c.st with
  | .stopped => none
  | .halted => none
  | .fault => none
  | _ => some c.bank

/-! ## Beacons (R261) -/

/-- Put a record into the beacon queue; a full queue drops it, counts it and sets beacon_drop. `keep` is the
forward-end beacon, which is never dropped. DESIGN CHOICE, assumption 15. -/
def State.beacon (s : State) (k : Nat) (num : Nat) (value : Word) (addr : Half) (bank keep : Bool) : State :=
  let c := (s.core k).cc
  let who := s.whoIs k
  let r : Beacon := { num := BitVec.ofNat 12 num, site := BitVec.ofNat 6 who.1, core := BitVec.ofNat 5 who.2,
                      tick := s.tick, value := value, addr := addr, bank := bank }
  let s := if decide (c.beacons.length < 16) || keep then s.modCc k (fun c => { c with beacons := c.beacons ++ [r] })
    else (s.modCc k (fun c => { c with
      beaconDrop := if c.beaconDrop = BitVec.allOnes 32 then c.beaconDrop else c.beaconDrop + 1 })).raise (.cc k) 14
  match keep, (s.core k).ctx with
  | true, some n => s.modOrr (fun o => { o with fwdBeacons := o.fwdBeacons ++ [(n, (s.core k).stepNo)] })
  | _, _ => s

/-! ## The bundle step (R233) -/

/-- Log a CC condition: slot, cause, no tag (R252, R253). -/
def State.ccLog (s : State) (k slot cause : Nat) : State :=
  let c := (s.core k).cc
  (s.raise (.cc k) cause).errLog k c.pc c.bank slot 0 cause 0

/-- What S1 decides (R233 step 6). -/
inductive Ctl where
  | seq
  | go (target : Nat) (bank : Bool)
  | halt
deriving DecidableEq, Repr

/-- The armed levels after a taken branch or jump to `t`: a target outside the range of a level disarms it and every
level armed after it (R247). The list is most recently armed first. -/
def disarm (t : Nat) (ls : List LoopLevel) : List LoopLevel :=
  ls.reverse.takeWhile (fun l => decide (l.start.toNat ≤ t ∧ t ≤ l.stop.toNat)) |>.reverse

/-- The back-edge of R248 at the end address `a`: the new levels and where to fetch, if a level repeats. -/
def backEdge (a : Half) : List LoopLevel → List LoopLevel × Option Half
  | [] => ([], none)
  | l :: r =>
    if l.stop == a then
      (if decide (l.remaining.toNat > 1) then ({ l with remaining := l.remaining - 1 } :: r, some l.start)
       else backEdge a r)
    else
      let (r', t) := backEdge a r
      (l :: r', t)

/-- Finish a bundle that completed, executed or skipped: back-edge, next address, counts and breaks (R248, R259,
R254). -/
def State.endBundle (s : State) (k : Nat) (len : Nat) (ctl : Ctl) (brk : Bool) : State :=
  let c := (s.core k).cc
  let (loops, target) := match ctl with
    | .seq => backEdge c.pc c.loops
    | _ => (c.loops, none)
  let nextPc : Half := match ctl, target with
    | .go t _, _ => BitVec.ofNat 16 t
    | _, some t => t
    | _, none => c.pc + BitVec.ofNat 16 len
  let bank := match ctl with
    | .go _ b => b
    | _ => c.bank
  let logged := c.errSeq != c.ctl.logMark
  let dbg := s.dbgEn k
  let why : Nat := if !dbg then 0 else if brk then 3 else if c.ctl.dbgStep then 4
    else if c.ctl.haltOnLog && logged then 5 else 0
  let st := if ctl == .halt then CcSt.stopped else if why != 0 then CcSt.debugHalted else CcSt.running
  let broke := why != 0 && ctl != .halt
  let s := s.modCc k (fun c => { c with
    loops := if ctl == .halt then [] else loops, pc := nextPc, bank := bank, st := st,
    ctl := { c.ctl with suppress := false, logMark := c.errSeq, why := if broke then BitVec.ofNat 3 why else c.ctl.why },
    perf := { c.perf with bundle := c.perf.bundle + 1 } })
  if broke then s.raise (.cc k) 8 else s

/-- One engine command issues (R233 step 4, R242): into its queue, or skipped and logged with engine_absent. -/
def State.issue (s : State) (k : Nat) (e : Eng) (w : Nat) : State :=
  let c := (s.core k).cc
  let cnt := c.cnt e
  let num := cnt.issued + 1
  let q : QEntry := { word := BitVec.ofNat 64 w, addr := c.pc, bank := c.bank, slot := BitVec.ofNat 3 e.slot,
                      num := num, order := c.perf.cmd.toNat }
  let s := s.modCc k (fun c => { c with perf := { c.perf with cmd := c.perf.cmd + 1 } })
  let s :=
    if bitAt c.eng.toNat e.idx then
      s.modCore k (fun c =>
        let c := { c with cc := c.cc.setCnt e { cnt with issued := num } }
        c.setQueue e (c.queue e ++ [q]))
    else
      let s := s.modCc k (fun c => c.setCnt e { (cnt.complete num) with issued := num, started := cnt.started + 1 })
      (s.raise (.cc k) 5).errLog k c.pc c.bank e.slot 0 5 q.tag
  if c.ctl.traceCmds then
    s.beacon k (0xFFD + e.idx) (BitVec.ofNat 32 (q.op * 65536 + q.tag.toNat)) c.pc c.bank false
  else s

/-- TQ.RDREG (R238): the register it writes and the half of the CC block it reads. DEDUCED, assumption 32. -/
def State.sampled (s : State) (k : Nat) : DOp → Option (Nat × Word)
  | .rdreg rd off =>
    let v := s.ccRead k (off / 8 * 8)
    some (rd, BitVec.ofNat 32 (if off % 8 == 4 then v / 2 ^ 32 else v))
  | _ => none

/-- The S2 access (R238, R230): the register write it makes, if any, and the new state. -/
def State.s2 (s : State) (k : Nat) (o : DOp) (ecc : Ecc) : State × Option (Nat × Word) :=
  let c := (s.core k).cc
  let addr (rs1 imm : Nat) : Nat := (c.reg rs1 + sx16 imm).toNat
  match o with
  | .nop => (s, none)
  | .rdreg rd off => (s, s.sampled k (.rdreg rd off))
  | .load size sg rd rs1 imm =>
    let a := addr rs1 imm
    if a ≥ 0x10000 then (s.ccLog k 2 3, none)
    else if a % size ≠ 0 then (s.ccLog k 2 2, none)
    else
      let s := match ecc with
        | .clean => s
        | .corrected => s.eccHit k { at_ := .dmem, word := a / 8, ue := false }
        | .uncorrectable => s.eccHit k { at_ := .dmem, word := a / 8, ue := true }
      let c := (s.core k).cc
      if poisoned c.dmemPoison a size then (s.ccLog k 2 13, some (rd, 0))
      else
        let v := c.dmem.nat a size
        let w := if sg then (BitVec.ofNat (8 * size) v).signExtend 32 else BitVec.ofNat 32 v
        (s, some (rd, w))
  | .store size rs2 rs1 imm =>
    let a := addr rs1 imm
    if a ≥ 0x10000 then (s.ccLog k 2 3, none)
    else if a % size ≠ 0 then (s.ccLog k 2 2, none)
    else
      let s := match ecc with
        | .clean => s
        | .corrected => s.eccHit k { at_ := .dmem, word := a / 8, ue := false }
        | .uncorrectable => s.eccHit k { at_ := .dmem, word := a / 8, ue := true }
      let c := (s.core k).cc
      if poisoned c.dmemPoison a size then (s.ccLog k 2 13, none)
      else (s.modCc k (fun c => { c with dmem := c.dmem.setBytes a (leBytes size (c.reg rs2).toNat) }), none)

/-- The engine commands of a bundle after its patches, S3 first (R233 step 3). -/
def patched (b : Bundle) (ps : List Patch) (c : Cc) : List (Eng × Nat) :=
  let one (e : Eng) (w : Option Nat) : List (Eng × Nat) := match w with
    | some w => [(e, (ps.filter (fun p => p.slot == e.idx)).foldl (fun w p => p.apply w (c.reg p.rs1).toNat) w)]
    | none => []
  one .me b.s3 ++ one .ve b.s4 ++ one .se b.s5

/-- The patches among the decoded scalar slots. -/
def patchesOf (os : List SOp) : List Patch :=
  os.filterMap (fun o => match o with
    | .patch w => some (decodePatch w)
    | _ => none)

/-- Whether a bundle is inconsistent (R234): its decoded slots write one register twice, or its patches break R240, name
an absent slot, or overlap. -/
def inconsistent (b : Bundle) (os : List SOp) (d : Option DOp) : Bool :=
  let dests := (os.map SOp.dest ++ (match d with
    | some o => [o.dest]
    | none => [])).filter (· != 0)
  let ps := patchesOf os
  let absent (p : Patch) : Bool := match p.slot with
    | 0 => b.s3.isNone
    | 1 => b.s4.isNone
    | 2 => b.s5.isNone
    | _ => true
  let overlap := match ps with
    | [p, q] => p.overlaps q
    | _ => false
  dests.eraseDups.length != dests.length || ps.any (fun p => !p.ok || absent p) || overlap

/-- The wait condition of a slot S1 operation holds (R245, R251). -/
def Cc.ready (c : Cc) : SOp → Bool
  | .wait e started rs1 =>
    let n := match e with
      | 0 => c.meCnt
      | 1 => c.veCnt
      | _ => c.seCnt
    decide (0 ≤ cmp16 (if started then n.started else n.done) ((c.reg rs1).setWidth 16))
  | .sync m =>
    (!bitAt m 0 || c.meCnt.done == c.meCnt.issued) && (!bitAt m 1 || c.veCnt.done == c.veCnt.issued)
      && (!bitAt m 2 || c.seCnt.done == c.seCnt.issued)
  | .switch chk rs1 _ =>
    c.imemBusy.all (fun w => w.1 == c.bank) &&
      (!chk || (if c.bank then c.verA else c.verB) == (c.reg rs1).setWidth 16)
  | _ => true

/-- Commands of a bundle that match the tag break (R259). -/
def tagHit (t : CcCtl) (cmds : List (Eng × Nat)) : Bool :=
  cmds.any (fun x => bitAt t.brkEng.toNat x.1.idx &&
    (BitVec.ofNat 16 (fld x.2 8 16) &&& t.brkMask) == (t.brkTag &&& t.brkMask))

/-- The registers a scalar slot writes at the end of the bundle (R236). `cmds` counts this bundle's commands for
TQ.CNTI. -/
def Cc.scalar (c : Cc) (cmds : List (Eng × Nat)) (len : Nat) : SOp → List (Nat × Word)
  | .alu op rd r1 r2 => [(rd, aluOp op (c.reg r1) (c.reg r2))]
  | .imm op rd r1 i => [(rd, immOp op (c.reg rd) (c.reg r1) i)]
  | .cnti rd e =>
    let n := (cmds.filter (fun x => x.1.idx == e)).length
    let i := match e with
      | 0 => c.meCnt.issued
      | 1 => c.veCnt.issued
      | _ => c.seCnt.issued
    [(rd, (i + BitVec.ofNat 16 n).setWidth 32)]
  | .jal rd _ => [(rd, BitVec.ofNat 32 ((c.pc + BitVec.ofNat 16 len).toNat + bit c.bank * 65536))]
  | _ => []

/-- TQ.LOOP (R248): armed, skipped over (count 0), or loop_fault. DEDUCED, assumption 32. -/
def State.loopOp (s : State) (k : Nat) (c : Cc) (len level rs1 stop : Nat) : State × Ctl :=
  let e := c.pc + BitVec.ofNat 16 stop
  if c.loops.any (fun l => l.level.toNat == level) || c.loops.any (fun l => decide (l.stop.toNat < e.toNat)) then
    (s.ccLog k 1 7, .seq)
  else
    let n := c.reg rs1
    if n == 0 then (s, .go (e.toNat + bundleLen (unitAt (c.imem c.bank) e.toNat)) c.bank)
    else
      (s.modCc k (fun c' => { c' with loops :=
        { level := BitVec.ofNat 2 level, start := c.pc + BitVec.ofNat 16 len, stop := e, remaining := n } :: c'.loops }),
        .seq)

/-- A taken branch within the bank: loop levels it leaves are disarmed (R247). DEDUCED, assumption 32. -/
def State.jump (s : State) (k : Nat) (t : Nat) : State × Ctl :=
  (s.modCc k (fun c => { c with loops := disarm (t % 65536) c.loops }), .go t (s.core k).cc.bank)

/-- S1 decides the next bundle (R237). `c` holds the registers as they stood at the start of the bundle. -/
def State.s1 (s : State) (k : Nat) (c : Cc) (len : Nat) : SOp → State × Ctl
  | .b off => s.jump k (c.pc + BitVec.ofNat 16 off).toNat
  | .br op r1 r2 off =>
    if brTaken op (c.reg r1) (c.reg r2) then s.jump k (c.pc + BitVec.ofNat 16 off).toNat else (s, .seq)
  | .jal _ off => (s, .go (c.pc + BitVec.ofNat 16 off).toNat c.bank)
  | .jr r1 =>
    let v := (c.reg r1).toNat
    if v / 2 ^ 17 == 0 && (bitAt v 16 == c.bank) then s.jump k (v % 65536) else (s.ccLog k 1 6, .seq)
  | .loop lv r1 stop => s.loopOp k c len lv r1 stop
  | .switch _ _ t => (s.modCc k (fun c => { c with loops := [] }), .go t (!c.bank))
  | .beacon r1 num =>
    if num == 0xFFC then (s.beacon k num (c.reg r1) c.pc c.bank true, .seq)
    else if bitAt c.ctl.beaconMask.toNat (num / 64) then (s.beacon k num (c.reg r1) c.pc c.bank false, .seq)
    else (s, .seq)
  | .stop code =>
    ((s.modCc k (fun c => { c with stopCode := BitVec.ofNat 16 code, loops := [] })).raise (.cc k) 9, .halt)
  | _ => (s, .seq)

/-- Beacon records a bundle may emit, and whether one of them must not be dropped (R261). -/
def beaconNeed (c : Cc) (cmds : List (Eng × Nat)) (o1 : Option SOp) : Nat × Bool :=
  let tr := if c.ctl.traceCmds then cmds.length else 0
  match o1 with
  | some (.beacon _ num) =>
    if num == 0xFFC then (tr + 1, true)
    else (tr + bit (bitAt c.ctl.beaconMask.toNat (num / 64)), false)
  | _ => (tr, false)

/-- Execute a bundle whole (R233). `w0` is what a TQ.RDREG sampled at the start of the bundle. -/
def State.runBundle (s : State) (k : Nat) (b : Bundle) (o0 o1 : Option SOp) (o2 : Option DOp)
    (cmds : List (Eng × Nat)) (dmem : Ecc) (w0 : Option (Nat × Word)) : State :=
  let c := (s.core k).cc
  let (s, w2) := match o2 with
    | some o => s.s2 k o dmem
    | none => (s, none)
  let s := cmds.foldl (fun s x => s.issue k x.1 x.2) s
  let ws := (o0.map (c.scalar cmds b.len)).getD [] ++ (o1.map (c.scalar cmds b.len)).getD [] ++ (w0.or w2).toList
  let s := s.modCc k (fun c' => ws.foldl (fun c' w => c'.setReg w.1 w.2) c')
  let (s, ctl) := match o1 with
    | some o => s.s1 k c b.len o
    | none => (s, .seq)
  s.endBundle k b.len ctl (o1 == some .brk)

/-- Log each slot that does not decode (R234 stage 2). -/
def State.logBad (s : State) (k : Nat) (b : Bundle) (o0 o1 : Option SOp) (o2 : Option DOp) : State :=
  let one (s : State) (bad : Bool) (slot : Nat) : State := if bad then s.ccLog k slot 0 else s
  one (one (one s (b.s0.isSome && o0.isNone) 0) (b.s1.isSome && o1.isNone) 1) (b.s2.isSome && o2.isNone) 2

/-- A control cycle in which the bundle stalls for full queues (R241). DEDUCED, assumption 32. -/
def State.queueStall (s : State) (k : Nat) (full : List Eng) : State :=
  s.modCc k (fun c => { c with st := .queueWait, perf := { c.perf with
    stallMe := c.perf.stallMe + BitVec.ofNat 64 (bit (full.contains .me)),
    stallVe := c.perf.stallVe + BitVec.ofNat 64 (bit (full.contains .ve)),
    stallSe := c.perf.stallSe + BitVec.ofNat 64 (bit (full.contains .se)) } })

/-- Stop before the bundle for a count or tag break (R259). DESIGN CHOICE, assumption 7. -/
def State.breakBefore (s : State) (k why : Nat) : State :=
  (s.modCc k (fun c => { c with st := .debugHalted, ctl := { c.ctl with why := BitVec.ofNat 3 why } })).raise (.cc k) 8

/-- The hazard count of R249 and the loaded registers for the next bundle. -/
def State.hazards (s : State) (k : Nat) (o0 o1 : Option SOp) (o2 : Option DOp) : State :=
  let uses := (o0.map (fun o => o.dest :: o.sources)).getD [] ++ (o1.map (fun o => o.dest :: o.sources)).getD []
    ++ (o2.map (fun o => o.dest :: o.sources)).getD []
  let loaded := match o2 with
    | some (.load _ _ rd _ _) => if rd == 0 then [] else [BitVec.ofNat 5 rd]
    | some (.rdreg rd _) => if rd == 0 then [] else [BitVec.ofNat 5 rd]
    | _ => []
  s.modCc k (fun c => { c with hazard := loaded, perf := { c.perf with
    stallHaz := c.perf.stallHaz + BitVec.ofNat 64 (bit (c.hazard.any (fun r => uses.contains r.toNat))) } })

/-- One control cycle of a CC that fetches: the bundle at the program counter executes, is skipped, or stalls. -/
def State.bundleStep (s : State) (k : Nat) (imem dmem : Ecc) : State :=
  let c := (s.core k).cc
  if c.ctl.pause then s.modCc k (fun c => { c with st := .paused })
  else
    let s := if imem = .corrected then s.raise (.cc k) 10 else s
    if imem = .uncorrectable then
      (s.ccLog k 6 11).modCc k (fun c => { c with st := .fault, imemUes := c.imemUes + 1 })
    else
      let b := fetchBundle (c.imem c.bank) c.pc.toNat
      if b.header / 64 ≠ 0 then ((s.ccLog k 6 0).hazards k none none none).endBundle k b.len .seq false
      else
        let o0 := b.s0.bind decodeScalar
        let o1 := b.s1.bind decodeS1
        let o2 := b.s2.bind decodeS2
        let os := o0.toList ++ o1.toList
        if inconsistent b os o2 then
          (((s.logBad k b o0 o1 o2).ccLog k 6 1).hazards k none none none).endBundle k b.len .seq false
        else
          let cmds := patched b (patchesOf os) c
          let dbg := s.dbgEn k && !c.ctl.suppress
          let n := c.perf.cmd.toNat
          let full := (cmds.map Prod.fst).filter (fun e => decide (((s.core k).queue e).length ≥ 64))
          let need := beaconNeed c cmds o1
          let room := decide (c.beacons.length + need.1 ≤ 16)
          if dbg && c.ctl.cntEn && decide (n < c.ctl.brkCnt.toNat ∧ c.ctl.brkCnt.toNat ≤ n + cmds.length) then
            s.breakBefore k 1
          else if dbg && c.ctl.tagEn && tagHit c.ctl cmds then s.breakBefore k 2
          else if !full.isEmpty then (s.queueStall k full).modCc k Cc.drainImem
          else if !((o1.map c.ready).getD true) then
            let cnt := match o1 with
              | some (.switch _ _ _) => 0
              | _ => 1
            s.modCc k (fun c => Cc.drainImem { c with
              st := .syncWait, perf := { c.perf with stallWait := c.perf.stallWait + BitVec.ofNat 64 cnt } })
          else if !room && (need.2 || c.ctl.beaconStall) then
            s.modCc k (fun c => ({ c with st := .syncWait } : Cc).drainImem)
          else
            (((s.logBad k b o0 o1 o2).hazards k o0 o1 o2).runBundle k b o0 o1 o2 cmds dmem (o2.bind (s.sampled k))).modCc k
              Cc.drainImem

/-- BUNDLE: one bundle executes as one step, or stalls whole (R233). -/
def execBundle (l : SiteNo) (c : CoreNo) (imem dmem : Ecc) (s : State) : Res :=
  match s.key l c with
  | some k => if (s.core k).cc.st.fetches && !s.paused3 then .next (s.bundleStep k imem dmem) else .next s
  | none => .next s

/-! ## Commands to the CC -/

/-- CC_START with go = 1 is accepted in states stopped, halted and fault (R255): loop levels disarm, the named bank
becomes active, fetching starts at pc, registers keep their values. With CC_CTL.pause = 1 it pauses before the first
bundle (R257). DEDUCED, assumption 33. -/
def State.ccStart (s : State) (k : Nat) (pc : Half) (bank : Bool) : State :=
  s.modCc k (fun c => match c.st with
    | .stopped => ({ c with loops := [], bank := bank, pc := pc, st := if c.ctl.pause then .paused else .running, hazard := [],
                            ctl := { c.ctl with logMark := c.errSeq, suppress := false } } : Cc).drainImem
    | .halted => ({ c with loops := [], bank := bank, pc := pc, st := if c.ctl.pause then .paused else .running, hazard := [],
                           ctl := { c.ctl with logMark := c.errSeq, suppress := false } } : Cc).drainImem
    | .fault => ({ c with loops := [], bank := bank, pc := pc, st := if c.ctl.pause then .paused else .running, hazard := [],
                          ctl := { c.ctl with logMark := c.errSeq, suppress := false } } : Cc).drainImem
    | _ => c)

def execCcStart (l : SiteNo) (c : CoreNo) (pc : Half) (bank go : Bool) (s : State) : Res :=
  match s.key l c with
  | some k => .next (if go then s.ccStart k pc bank else s)
  | none => .next s

/-- CC_CTL.pause (R257): a fetching CC stops at the next bundle boundary, a paused one returns to running; a bundle
that was stalled is evaluated again. -/
def State.ccPause (s : State) (k : Nat) (pause : Bool) : State :=
  s.modCc k (fun c =>
    let c := { c with ctl := { c.ctl with pause := pause } }
    if pause then (if c.st.fetches then { c with st := .paused } else c)
    else if c.st = .paused then { c with st := .running } else c)

def execCcCtlPause (l : SiteNo) (c : CoreNo) (pause : Bool) (s : State) : Res :=
  match s.key l c with
  | some k => .next (s.ccPause k pause)
  | none => .next s

/-- CC_DBG.resume (R259): debug_halted returns to running, count and tag compares suppressed for the first bundle. DEDUCED, assumption 33. -/
def State.ccResume (s : State) (k : Nat) : State :=
  s.modCc k (fun c => if c.st = .debugHalted then
    { c with st := if c.ctl.pause then .paused else .running, ctl := { c.ctl with suppress := true, logMark := c.errSeq } } else c)

def execCcDbgResume (l : SiteNo) (c : CoreNo) (s : State) : Res :=
  match s.key l c with
  | some k => .next (s.ccResume k)
  | none => .next s

/-- Refuse an access to the active bank: dropped, imem_active set and logged with slot 7 and the written unit
(R250). DEDUCED, assumption 33. -/
def State.imemRefuse (s : State) (k unit : Nat) (bank : Bool) : State :=
  ((s.raise (.cc k) 4).errLog k (BitVec.ofNat 16 unit) bank 7 0 4 0).emit .refusedWrite

/-- A CC_IMEM_VER write changes the version of the active bank. -/
def Cc.changesActive (c : Cc) (va vb : Half) : Bool :=
  match c.activeBank with
  | some true => c.verB != vb
  | some false => c.verA != va
  | none => false

/-- CC_IMEM_VER write: refused when it changes the active bank's version (R250). The logged unit of such a write is a
value the manual does not give: a free value. -/
def State.imemVer (s : State) (k : Nat) (va vb : Half) : State :=
  let c := (s.core k).cc
  if c.changesActive va vb then
    let (n, s) := s.fresh 1
    s.imemRefuse k (Config.freeWord 16 n).toNat c.bank
  else s.modCc k (fun c => { c with verA := va, verB := vb })

def execCcImemVerWrite (l : SiteNo) (c : CoreNo) (va vb : Half) (s : State) : Res :=
  match s.key l c with
  | some k => .next (s.imemVer k va vb)
  | none => .next s

/-- CC_XREG access (R260): in states 0, 4, 5, 6 and 7 with debug enabled; otherwise a read returns 0 and a write is
ignored. -/
def State.xreg (s : State) (k x : Nat) (wr : Option Word) : State :=
  let ok := (s.ccSt k).xregOk && s.dbgEn k
  match wr with
  | some v => if ok then s.modCc k (fun c => c.setReg x v) else s
  | none => s.emit (.readReg (if ok then ((s.core k).cc.reg x).setWidth 64 else 0))

def execCcXregAccess (l : SiteNo) (c : CoreNo) (x : BitVec 5) (wr : Option Word) (s : State) : Res :=
  match s.key l c with
  | some k => .next (s.xreg k x.toNat wr)
  | none => .next (match wr with
    | some _ => s
    | none => s.emit (.readReg 0))

/-! ## The core window (R231) -/

/-- Tiles that unfinished commands of the core read or write: their window access leaves tile and value undefined. ME.SEAL
only sets a mark (03 R84). -/
def Core.busyTiles (c : Core) : List Nat :=
  let ofQ (q : QEntry) : List Nat := if [0x20, 0x30, 0x31, 0x32, 0x40, 0x50].contains q.op then [fld q.w 24 4] else []
  let ofVe (q : QEntry) : List Nat :=
    if q.op == 0x60 then
      let h := fld q.w 24 16
      let t := c.cc.dmem.nat (h + 2) 1
      if bitAt (c.cc.dmem.nat (h + 1) 1) 3 then (List.range (t / 16 + 1)).map (· + t % 16) else []
    else []
  c.me.queue.flatMap ofQ ++ c.me.jobs.flatMap (fun j => ofQ j.q) ++ c.ve.queue.flatMap ofVe
    ++ ((c.ve.chain.map ChainJob.tiles).getD [])

/-- The tiles that a window range touches. -/
def winTiles (o n : Nat) : List Nat :=
  if 0x400000 ≤ o ∧ o < 0x500000 then ((List.range n).map (fun i => (o - 0x400000 + i) / 65536)).eraseDups else []

/-- A window access of 4–64 B, naturally aligned. Anything else is no access the window has: it is ignored and a read
returns 0. DEDUCED, assumption 33. -/
def winOk (o n : Nat) : Bool := [4, 8, 16, 32, 64].contains n && o % n == 0

/-- A window access to tiles in use: tiles and value undefined (R231, R15). -/
def State.spoilTiles (s : State) (k : Nat) (ts : List Nat) : State :=
  ts.foldl (fun s t =>
    let (n, s) := s.fresh 16384
    s.modMe k (fun m => { m with tiles := sset (fun _ => Tile.zero) m.tiles t (Tile.undef n) })) s

/-- Accept or refuse a write into IMEM (R250): bank and byte offset in the bank. -/
def State.imemWrite (s : State) (k : Nat) (bank : Bool) (o : Nat) (bs : List Byte) : State :=
  if (s.core k).cc.activeBank == some bank then s.imemRefuse k (o / 2) bank
  else s.modCc k (fun c => { c with imemBusy := c.imemBusy ++ [(bank, o, bs)] })

/-- A window write into DMEM (R230): a 64-bit word that it covers whole loses its poison; what it covers in part of a
poisoned word is dropped. -/
def Cc.dmemPut (c : Cc) (o : Nat) (bs : List Byte) : Cc :=
  let whole (w : Nat) : Bool := decide (o ≤ 8 * w ∧ 8 * w + 8 ≤ o + bs.length)
  let ws := (bytesAt o bs).filter (fun w => whole (w.a / 8) || !sget (fun _ => false) c.dmemPoison (w.a / 8))
  { c with dmem := ws.foldl (fun m w => m.set w.a w.b) c.dmem, dmemPoison := c.dmemPoison.filter (fun x => !whole x.1) }

/-- It meets a poisoned word that it does not cover whole. -/
def Cc.dmemNarrow (c : Cc) (o n : Nat) : Bool :=
  (wordsOf o n).any (fun w => !decide (o ≤ 8 * w ∧ 8 * w + 8 ≤ o + n) && sget (fun _ => false) c.dmemPoison w)

/-- A window write into DMEM, with dmem_ue for a dropped part (R230), logged as an event that belongs to no bundle: the
address and bank of such an entry are not given (R253). DESIGN CHOICE, assumption 3. -/
def State.dmemWindow (s : State) (k o : Nat) (bs : List Byte) : State :=
  let bad := (s.core k).cc.dmemNarrow o bs.length
  let s := s.modCc k (fun c => c.dmemPut o bs)
  if bad then
    let (n, s) := s.fresh 2
    (s.raise (.cc k) 13).errLog k (Config.freeWord 16 n) (Config.freeWord 1 (n + 1) == 1) 7 0 13 0
  else s

/-- A write through the core window at an accepted place (R231). -/
def State.winWrite (s : State) (k p c o : Nat) (bs : List Byte) : State :=
  if 0x600000 ≤ o ∧ o < 0x620000 then s.imemWrite k false (o - 0x600000) bs
  else if 0x620000 ≤ o ∧ o < 0x640000 then s.imemWrite k true (o - 0x620000) bs
  else if 0x640000 ≤ o ∧ o < 0x650000 then s.dmemWindow k (o - 0x640000) bs
  else s.land (bytesAt (coreBase + p * 2 ^ 28 + c * 2 ^ 23 + o) bs)

/-- CORE_WINDOW_ACCESS: a requester from outside reads or writes the scratchpad, accumulator buffer, IMEM or DMEM of a
core (R231), under the view, the absence rules and the closures of 01 R19–R21, 00 R5 and 14 R438. A read of a DMEM
word that is poisoned returns 0 (R230). DEDUCED, assumption 33. -/
def State.coreWindow (s : State) (req : Requester) (site : Nat) (core off : Nat) (acc : Access) (ecc : List EccHit) :
    State :=
  let own := s.ctxOf req
  let a := coreBase + site * 2 ^ 28 + core * 2 ^ 23 + off
  let n := match acc with
    | .read n => n
    | .write bs => bs.length
  match s.siteField (logicalReq req) site with
  | none =>
    let s := s.mapFault a
    (match acc with
     | .read n => s.emit (.reply (List.replicate n 0))
     | .write _ => s)
  | some p =>
    let k := s.keyOf p core
    let s := (s.modCc k Cc.drainImem).eccHits k ecc
    if !winOk off n || s.dark p then
      (match acc with
       | .read n => s.emit (.reply (List.replicate n 0))
       | .write _ => s)
    else if s.refusedBySeal req own (match acc with | .read _ => false | .write _ => true) (.core site core off) then
      (match acc with
       | .read n => (s.raiseSec 0 a (reqCls req)).emit (.reply (List.replicate n 0))
       | .write _ => s.raiseSec 0 a (reqCls req))
    else
      let hit := (winTiles off n).filter (fun t => (s.core k).busyTiles.contains t)
      let s := s.spoilTiles k hit
      match acc with
      | .read n => s.emit (.reply ((s.core k).winRead off n).bytes)
      | .write bs => s.winWrite k p core off bs

def execCoreWindowAccess (req : Requester) (site : SiteNo) (core : CoreNo) (off : BitVec 23) (acc : Access)
    (ecc : List EccHit) (s : State) : Res :=
  .next (s.coreWindow req site.toNat core.toNat off.toNat acc ecc)

/-- BEACON_QUEUE_DRAIN: the oldest record leaves for the Almanac (R261, 13 R412). A sealed context's value field is
written as 0 (13 R411). -/
def State.drainBeacon (s : State) (k : Nat) : State :=
  match (s.core k).cc.beacons with
  | [] => s
  | r :: rest =>
    let s := s.modCc k (fun c => { c with beacons := rest })
    let v := if s.coreSealed k then 0 else r.value.toNat
    s.almanac 0x20 .open_ (s.core k).ctx (originCore r.site.toNat r.core.toNat)
      (leBytes 2 r.num.toNat ++ leBytes 4 v ++ leBytes 2 r.addr.toNat ++ [if r.bank then 1 else 0])

def execBeaconQueueDrain (l : SiteNo) (c : CoreNo) (s : State) : Res :=
  match s.key l c with
  | some k => .next (s.drainBeacon k)
  | none => .next s

end Sys2Proof.Machine
end

