-- ==== Sys2Proof/Machine/Hq.lean ====
section
/-! DEFINITION. Handle queues (07 R206–R212), their waits and stalls (R214), pace (R219). -/

namespace Sys2Proof.Machine

/-! ## Paced periods (11 R354) -/

/-- The length of period `k` that starts at `st`: Lp − min(lag, ⌊Lp/8⌋). DEDUCED, assumption 70. -/
def periodLen (d : CtxDesc) (k st : Nat) : Nat :=
  let lp := d.lp.toNat
  lp - min (st - (d.t0.toNat + k * lp)) (lp / 8)

/-- The start of a period of a paced context that is not later than the current one: as it was, and by the nominal
schedule before the context was activated (11 R354). DEDUCED, assumption 70. -/
def Ctx.periodStart (c : Ctx) (k : Nat) : Nat :=
  ((sget (fun _ => none) c.pStarts k).map BitVec.toNat).getD (c.desc.t0.toNat + k * c.desc.lp.toNat)

/-- Period `k` of a paced context starts at tick `st` (11 R354). -/
def Ctx.startPeriod (c : Ctx) (k st : Nat) : Ctx :=
  { c with period := BitVec.ofNat 64 k, pStart := BitVec.ofNat 64 st, pLen := BitVec.ofNat 64 (periodLen c.desc k st),
           pStarts := sset (fun _ => none) c.pStarts k (some (BitVec.ofNat 64 st)) }

/-! ## SE_ERR_INFO (R226) -/

/-- What SE_ERR_INFO records of a refusal (R226). -/
structure SeErr where
  ctx : Nat
  inProg : Bool
  instr : Nat
  hq : Nat
  cause : Nat
deriving DecidableEq, Repr

def SeErr.cmd (ctx hq cause : Nat) : SeErr := { ctx := ctx, inProg := false, instr := 0, hq := hq, cause := cause }

/-- Record the first refused command or stopped program since SE_CAUSE [3:0] and [12:8] were all 0 (R226). DEDUCED, assumption 36. -/
def State.seErr (s : State) (k : Nat) (tag : Half) (b : SeErr) : State :=
  if ((s.core k).se.cause &&& 0x1F0F) == 0 then
    s.modSe k (fun e => { e with
      errInfo := reg64 [(b.ctx, 0), (bit b.inProg, 3), (b.instr, 4), (b.hq, 8), (tag.toNat, 16), (b.cause, 32)] })
  else s

/-- Skip the head of the ME's or VE's queue because it names a queue of another endpoint: hq_owner of SE_CAUSE, with its
record (R207, R226). -/
def State.skipOwner (s : State) (k : Nat) (e : Eng) (q : QEntry) (hq : Nat) : State :=
  let s := (s.seErr k q.tag (SeErr.cmd 0 hq 11)).raise (.se k) 11
  ((s.errLog k q.addr q.bank q.slot.toNat 3 11 q.tag).take k e).finish k e q

/-! ## Queues -/

def Se.hq (e : Se) (q : Nat) : Hq := sget (fun _ => Hq.init) e.hqs q

def State.hq (s : State) (k q : Nat) : Hq := (s.core k).se.hq q

def State.modHq (s : State) (k q : Nat) (f : Hq → Hq) : State :=
  s.modSe k (fun e => { e with hqs := sset (fun _ => Hq.init) e.hqs q (f (e.hq q)) })

/-- Buffers held or ready: acquires − releases modulo 2¹⁶ (R208). -/
def Hq.used (h : Hq) : Nat := (h.acquires - h.releases).toNat
def Hq.ready (h : Hq) : Nat := (h.pushes - h.pops).toNat
def Hq.heldP (h : Hq) : Nat := (h.acquires - h.pushes).toNat
def Hq.heldC (h : Hq) : Nat := (h.pops - h.releases).toNat
def Hq.count (h : Hq) : Nat := (h.cfg.map HqCfg.count).getD 0

/-- An acquire finds a free buffer. -/
def Hq.canAcquire (h : Hq) : Bool := decide (h.used < h.count)
/-- A pop finds a ready handle. -/
def Hq.canPop (h : Hq) : Bool := decide (0 < h.ready)

def nextPos (n p : Nat) : Nat := if p + 1 ≥ n then 0 else p + 1

def Hq.acquire (h : Hq) : Hq := { h with acquires := h.acquires + 1, pAcq := nextPos h.count h.pAcq }
/-- A push makes the oldest acquired handle ready, stamped on arrival (R208, R219). -/
def Hq.push (h : Hq) (tick : DWord) : Hq :=
  if h.heldP == 0 then h
  else { h with pushes := h.pushes + 1, pPush := nextPos h.count h.pPush, stamps := h.stamps ++ [tick] }
def Hq.pop (h : Hq) : Hq :=
  { h with pops := h.pops + 1, pPop := nextPos h.count h.pPop, popIndex := h.popIndex + 1, stamps := h.stamps.tail }
def Hq.release (h : Hq) : Hq :=
  if h.heldC == 0 then h else { h with releases := h.releases + 1, pRel := nextPos h.count h.pRel }

/-- Scratchpad offset of buffer `n` (R206). -/
def HqCfg.bufAddr (c : HqCfg) (n : Nat) : Nat := c.poolBase * 512 + n * (c.bufSize * 512)

/-- The queue is configured with this local producer, or this consumer (R207). -/
def Hq.prodIs (h : Hq) (ep : Nat) : Bool :=
  match h.cfg with
  | some c => c.prod.toNat == ep && !c.remote
  | none => false
def Hq.consIs (h : Hq) (ep : Nat) : Bool :=
  match h.cfg with
  | some c => c.cons.toNat == ep
  | none => false

/-! ## Waits (R214) -/

/-- Both are waits of one endpoint for the same operation on the same queue number: one wait, whichever member of a
multicast group holds it up. -/
def HqWait.same (v w : HqWait) : Bool := v.endpoint == w.endpoint && v.hq == w.hq && v.acq == w.acq

/-- Begin a wait of an endpoint; the timer starts now, unless the endpoint is already in that wait (R214: the timer
restarts when the wait ends). -/
def State.beginWait (s : State) (k : Nat) (w : HqWait) : State :=
  s.modSe k (fun e =>
    if e.waits.any (fun v => v.same w) then
      { e with waits := e.waits.map (fun v => if v.same w then { v with rsite := w.rsite, rcore := w.rcore } else v) }
    else { e with waits := e.waits.filter (fun v => v.endpoint != w.endpoint) ++ [w] })

/-- The wait of an endpoint ends. -/
def State.endWait (s : State) (k ep : Nat) : State :=
  s.modSe k (fun e => { e with waits := e.waits.filter (fun v => v.endpoint.toNat != ep) })

/-- A wait of a local endpoint on a queue of its own core. -/
def State.localWait (s : State) (k ep q : Nat) (acq : Bool) : State :=
  let who := s.whoIs k
  s.beginWait k { endpoint := BitVec.ofNat 8 ep, hq := BitVec.ofNat 5 q, acq := acq, rsite := BitVec.ofNat 6 who.1,
                  rcore := BitVec.ofNat 5 who.2, since := s.tick, stalled := false }

/-- HQ_STALL: the wait of an endpoint passes SE_HQ_WAIT_LIMIT, once per wait (R214). -/
def State.hqStall (s : State) (k ep : Nat) : State :=
  let e := (s.core k).se
  match e.waits.find? (fun w => w.endpoint.toNat == ep && !w.stalled) with
  | none => s
  | some w =>
    if (s.tick - w.since).toNat ≤ e.waitLimit.toNat then s
    else
      let free := !bitAt e.cause.toNat 13
      let s := s.modSe k (fun e => { e with
        waits := e.waits.map (fun v => if v == w then { v with stalled := true } else v),
        hqStallReg := if free then reg64 [(w.hq.toNat, 0), (bit w.acq, 5), (w.endpoint.toNat, 8), (w.rsite.toNat, 16),
          (w.rcore.toNat, 22), (w.since.toNat % 2 ^ 32, 32)] else e.hqStallReg })
      s.raise (.se k) 13

def execHqStall (l : SiteNo) (c : CoreNo) (endpoint : Byte) (s : State) : Res :=
  match s.key l c with
  | some k => .next (s.hqStall k endpoint.toNat)
  | none => .next s

/-! ## Operations with their effects outside the queue -/

/-- A pop by its consumer (R208): the handle, with the deadline test of a paced queue (R219). A handle of a period that
has not started was pushed before that period's start, so it is on time. -/
def State.hqPop (s : State) (k q : Nat) : Nat × State :=
  let h := s.hq k q
  let handle := h.pPop
  let stamp := (h.stamps.headD 0).toNat
  let s := s.modHq k q Hq.pop
  match h.cfg, (s.core k).ctx with
  | some cfg, some n =>
    if cfg.paced then
      let per := cfg.firstPeriod.toNat + h.popIndex
      let due := (s.ctx n.toNat).periodStart per + cfg.due.toNat
      let begun := decide (per ≤ (s.ctx n.toNat).period.toNat)
      let s := if begun then s.modCtx n.toNat (fun c => { c with pFinish := s.tick }) else s
      if begun && decide (stamp ≥ due) then
        let late := min (stamp - due) (2 ^ 32 - 1)
        let free := !bitAt (s.core k).se.cause.toNat 14
        let s := s.modHq k q (fun h => { h with misses := if h.misses == 0xFFFF then h.misses else h.misses + 1 })
        let s := if free then s.modSe k (fun e => { e with
          paceMiss := reg64 [(q, 0), (per % 2 ^ 27, 5), (late, 32)] }) else s
        let s := s.raise (.se k) 14
        let who := s.whoIs k
        (handle, s.almanac 0x04 .open_ (some n) (originCore who.1 who.2)
          (leBytes 4 q ++ leBytes 8 per ++ leBytes 8 (stamp - due)))
      else (handle, s)
    else (handle, s)
  | _, _ => (handle, s)

/-- A release by its consumer (R208); a remote producer gets one credit back as a release notice (R211). -/
def State.hqRelease (s : State) (k q : Nat) : State :=
  let h := s.hq k q
  if h.heldC == 0 then s
  else
    let s := s.modHq k q Hq.release
    match h.cfg with
    | some c =>
      if c.remote then
        let who := s.whoIs k
        { s with notices := s.notices ++ [{ push := false, site := BitVec.ofNat 6 who.1, core := BitVec.ofNat 5 who.2,
                                            hq := BitVec.ofNat 5 q, credits := 1, start := false }] }
      else s
    | none => s

/-- Key of a credit counter: the consumer's queue. -/
def remoteKey (l c q : Nat) : Nat := 1024 * l + 32 * c + q

/-- Take the first matching notice out of the mesh. DEDUCED, assumption 14. -/
def takeNotice (push : Bool) (l : SiteNo) (c : CoreNo) (q : BitVec 5) : List Notice → Option (Notice × List Notice)
  | [] => none
  | n :: r =>
    if n.push == push && n.site == l && n.core == c && n.hq == q then some (n, r)
    else (takeNotice push l c q r).map (fun x => (x.1, n :: x.2))

/-- RELEASE_NOTICE: the notice of queue `hq` of core (l, c) reaches the remote producer, whose credit counter gains its
credits (R211). DEDUCED, assumption 14. -/
def execReleaseNotice (l : SiteNo) (c : CoreNo) (hq : BitVec 5) (s : State) : Res :=
  match takeNotice false l c hq s.notices with
  | none => .next s
  | some (n, rest) =>
    let s := { s with notices := rest }
    match (s.key l c).bind (fun k => (s.hq k hq.toNat).cfg) with
    | none => .next s
    | some cfg =>
      match s.key cfg.rsite cfg.rcore with
      | none => .next s
      | some pk => .next (s.modSe pk (fun e =>
          let key := remoteKey l.toNat c.toNat hq.toNat
          let old := if n.start then 0 else sget (fun _ => 0) e.remotes key
          { e with remotes := sset (fun _ => 0) e.remotes key (old + n.credits) }))

/-- REMOTE_PUSH: a push notice arrives at queue `hq` of core (l, c) and is stamped on arrival (R211, R219). DEDUCED, assumption 14. -/
def execRemotePush (l : SiteNo) (c : CoreNo) (hq : BitVec 5) (s : State) : Res :=
  match takeNotice true l c hq s.notices with
  | none => .next s
  | some (_, rest) =>
    let s := { s with notices := rest }
    match s.key l c with
    | none => .next s
    | some k => .next (s.modHq k hq.toNat (fun h => h.push s.tick))

end Sys2Proof.Machine
end

