-- ==== Sys2Proof/Machine/Me.lean ====
section
/-! DEFINITION. The matrix engine (03): commands, feeds, products, checksum columns, store path. -/

namespace Sys2Proof.Machine

/-! ## Causes (R99) and shape (R69) -/

def meChk : Nat := 0
def meBadFmt : Nat := 1
def meBadRnd : Nat := 2
def meBadFeed : Nat := 3
def mePinViol : Nat := 4
def meBadCmd : Nat := 5
def meStore : Nat := 6
def meColFail : Nat := 7

/-- The healthy physical columns, in ascending order (R69). -/
def Me.healthy (m : Me) : List Nat := (List.range 130).filter (fun c => !bitAt m.colfail.toNat c)

/-- The number of failed columns. -/
def Me.failed (m : Me) : Nat := 130 - m.healthy.length

/-- The presented width W (R69). -/
def Me.width (m : Me) : Nat := min 128 m.healthy.length

/-- The physical column that serves a logical column (R70). -/
def Me.column (m : Me) (j : Nat) : Option Nat := if j < m.width then m.healthy[j]? else none

/-- The sum and magnitude columns: the two healthy columns above those that serve, where there are two (R70). -/
def Me.sumColumn (m : Me) : Option Nat := if m.healthy.length == 130 then m.healthy[128]? else none
def Me.magColumn (m : Me) : Option Nat := if m.healthy.length == 130 then m.healthy[129]? else none

/-- Two checksum columns exist and checking is enabled (R69, R97). -/
def Me.chkActive (m : Me) : Bool := m.sumColumn.isSome && m.magColumn.isSome && m.chkEn

/-- The pruning cap of an engine (16 R475, R476): that of the level, 0 from P3 on once no product is being finished. -/
def Power.pruneCap (p : Power) (finishing : Bool) : Nat :=
  if p.level == 0 then 8 else if p.level == 1 then 6 else if p.level == 2 || finishing then 4 else 0

/-- ME_STAT.level_cap: the lowest of the caps of governor, thermal throttle and pruning order (16 R475). -/
def State.meCap (s : State) (k : Nat) : Nat :=
  min (min s.pwr.govCap.toNat s.pwr.thermCap.toNat) (s.pwr.pruneCap (s.core k).me.finishing)

/-- The level cap of the VE. -/
def State.veCap (s : State) : Nat := min (min s.pwr.govCap.toNat s.pwr.thermCap.toNat) (s.pwr.pruneCap false)

/-- Array, store path and queue idle (R98). -/
def Me.idle (m : Me) : Bool := m.queue.isEmpty && m.jobs.isEmpty

/-- A job of an ME command on its tile. -/
def MeWork.tile : MeWork → Nat
  | .mma t _ _ _ _ _ => t.toNat
  | .store t _ _ _ _ _ _ => t.toNat
  | .ldacc t _ => t.toNat
  | .selftest t => t.toNat

def MeWork.isStore : MeWork → Bool
  | .store _ _ _ _ _ _ _ => true
  | _ => false
def MeWork.isMma : MeWork → Bool
  | .mma _ _ _ _ _ _ => true
  | _ => false
def MeWork.isSelftest : MeWork → Bool
  | .selftest _ => true
  | _ => false
def MeWork.isLdacc : MeWork → Bool
  | .ldacc _ _ => true
  | _ => false

/-- ME opcodes (R77). -/
def meOps : List Nat := [0x10, 0x20, 0x21, 0x30, 0x31, 0x32, 0x40, 0x41, 0x50]

/-- The bits an ME command may set (R77). -/
def meMaskOf (op : Nat) : Nat :=
  let f (lo len : Nat) : Nat := (2 ^ len - 1) * 2 ^ lo
  f 0 24 + (match op with
    | 0x10 => f 24 7 + f 32 1 + f 34 13 + f 47 16
    | 0x20 => f 24 7 + f 32 28
    | 0x21 => f 24 16
    | 0x30 => f 24 28
    | 0x31 => f 24 17
    | _ => f 24 4)

/-- A reserved bit of a command is set. -/
def reservedBits (w mask : Nat) : Bool := (BitVec.ofNat 64 w &&& ~~~(BitVec.ofNat 64 mask)) != 0

/-- Skip and log every unknown opcode at the head of an engine's queue (R77, R111, 07 R192: bad_cmd). DEDUCED, assumption 5. -/
def State.skipUnknown (s : State) (k : Nat) (e : Eng) (ops : List Nat) (cause : Nat) : Nat → State
  | 0 => s
  | n + 1 =>
    match ((s.core k).queue e).head? with
    | some q => if ops.contains q.op then s else (s.skipHead k e q cause).skipUnknown k e ops cause n
    | none => s

/-- Run a command of the ME: unknown opcodes ahead of it are skipped, then the head runs when it has this opcode and no
reserved bit is set. DEDUCED, assumption 4; DEDUCED, assumption 5. -/
def State.meRun (s : State) (l : SiteNo) (c : CoreNo) (op : Nat) (f : Nat → QEntry → State → State) : State :=
  match s.key l c with
  | none => s
  | some k =>
    let s := s.skipUnknown k .me meOps meBadCmd ((s.core k).me.queue.length)
    match (s.core k).me.queue.head? with
    | some q =>
      if q.op ≠ op then s
      else if reservedBits q.w (meMaskOf op) then s.skipHead k .me q meBadCmd
      else f k q s
    | none => s

/-! ## Tile hazards (R83) -/

/-- Tiles a queued VE.CHAIN reads through the accumulator port (04 R107): its header in DMEM. -/
def Core.chainTiles (c : Core) (q : QEntry) : List Nat :=
  if q.op == 0x60 then
    let h := fld q.w 24 16
    let t := c.cc.dmem.nat (h + 2) 1
    if bitAt (c.cc.dmem.nat (h + 1) 1) 3 then (List.range (t / 16 + 1)).map (· + t % 16) else []
  else []

/-- An earlier-issued command still has to read the tile. -/
def Core.tileRead (c : Core) (t order : Nat) : Bool :=
  c.me.jobs.any (fun j => j.work.isStore && j.work.tile == t && decide (j.q.order < order))
    || (match c.ve.chain with
        | some j => j.tiles.contains t && decide (j.q.order < order)
        | none => false)
    || c.ve.queue.any (fun q => decide (q.order < order) && (c.chainTiles q).contains t)

/-- An earlier-issued command still has to write the tile: one in progress, or one queued at the ME. -/
def Core.tileWritten (c : Core) (t order : Nat) : Bool :=
  c.me.jobs.any (fun j => !j.work.isStore && j.work.tile == t && decide (j.q.order < order))
    || c.me.queue.any (fun q => decide (q.order < order) && [0x20, 0x31, 0x32, 0x40, 0x50].contains q.op
        && fld q.w 24 4 == t)

/-- The value of a tile entry as the array, the store path and the VE read it (R93). -/
def Core.accVal (c : Core) (t e : Nat) : Word :=
  if sget (fun _ => false) c.me.accPoison (t * 8192 + e / 2) then 0x7FC00000
  else (sget (fun _ => Tile.zero) c.me.tiles t).get e

/-- Write entries of a tile; a 64-bit word written whole loses its poison (R93). -/
def Me.writeTile (m : Me) (t : Nat) (vals : List (Nat × Word)) : Me :=
  let tile := vals.foldl (fun (tl : Tile) v => tl.set v.1 v.2) (sget (fun _ => Tile.zero) m.tiles t)
  let words := (vals.filter (fun v => v.1 % 2 == 0 && vals.any (fun w => w.1 == v.1 + 1))).map (fun v => t * 8192 + v.1 / 2)
  { m with tiles := sset (fun _ => Tile.zero) m.tiles t tile,
           accPoison := words.foldl (fun p w => sset (fun _ => false) p w false) m.accPoison }

/-- Replace a whole tile. -/
def Me.setTile (m : Me) (t : Nat) (tile : Tile) : Me :=
  { m with tiles := sset (fun _ => Tile.zero) m.tiles t tile,
           accPoison := m.accPoison.filter (fun w => w.1 / 8192 != t) }

/-! ## Feeds (R78) -/

def Me.feed (m : Me) (o : Nat) : Option Feed := sget (fun _ => none) m.feeds o

/-- ME.FEED (R78). DEDUCED, assumption 27. -/
def State.meFeed (k : Nat) (q : QEntry) (s : State) : State :=
  let o := fld q.w 24 2
  let fmt : BitVec 4 := BitVec.ofNat 4 (fld q.w 26 4)
  if fmtReserved fmt || (decide (o ≥ 2) && fmt != fmtF4b) then s.skipHead k .me q meBadFmt
  else
    let f : Feed := { fmt := fmt, hqSrc := bitAt q.w 30, trans := bitAt q.w 32, addr := BitVec.ofNat 13 (fld q.w 34 13),
                      pitch := BitVec.ofNat 16 (fld q.w 47 16) }
    let s := s.modMe k (fun m => { m with
      feeds := sset (fun _ => none) m.feeds o (some f), scaleOk := setBit m.scaleOk (o % 2) (decide (o ≥ 2)) })
    (s.take k .me).finish k .me q

def execMeFeed (l : SiteNo) (c : CoreNo) (s : State) : Res := .next (s.meRun l c 0x10 State.meFeed)

/-- ME.MASK reads 16 bytes of DMEM: byte b bit i enables row 8b + i (R79). -/
def State.meMask (ecc : List EccHit) (k : Nat) (q : QEntry) (s : State) : State :=
  let a := fld q.w 24 16
  if a % 16 ≠ 0 then s.skipHead k .me q meBadCmd
  else
  let s := s.eccHits k ecc
  match (s.core k).cc.dmemRead a 16 with
    | none => s.skipDmem k .me q
    | some bs => ((s.modMe k (fun m => { m with rmask := BitVec.ofNat 128 (leNat bs) })).take k .me).finish k .me q

def execMeMask (l : SiteNo) (c : CoreReads) (s : State) : Res := .next (s.meRun l c.core 0x21 (State.meMask c.ecc))

/-! ## ME.MMA (R72–R76, R80, R85) -/

/-- K of an ME.MMA; 0 encodes 16,384. -/
def mmaK (w : Nat) : Nat := if fld w 32 14 == 0 then 16384 else fld w 32 14

/-- The operand pair is accepted: A and B formats of R72. -/
def pairOk (a b : BitVec 4) : Bool :=
  let narrow (f : BitVec 4) := f == fmtF8f || f == fmtF8b
  let half (f : BitVec 4) := f == fmtBf16 || f == fmtFp16
  (narrow a && narrow b) || (a == fmtF4b && b == fmtF8f) || (a == fmtF8f && b == fmtF4b) || (a == fmtF4b && b == fmtF4b)
    || (half a && (narrow b || half b)) || (narrow a && half b)

/-- Feed steps of a product of K steps (R74, R86): its lines, at least 128 in skewed mode, once for each column pass. DEDUCED, assumption 76. -/
def feedSteps (bcast dual : Bool) (k passes : Nat) : Nat :=
  let l := if dual then (k + 1) / 2 else k
  passes * (if bcast then l else max l 128)

/-- The product still feeds lines. -/
def MeWork.feeding : MeWork → Bool
  | .mma _ _ _ _ _ left => decide (0 < left)
  | _ => false

/-- Core cycles per feed step (R72): 2 when an operand is BF16 or FP16. -/
def feedCycles (a b : BitVec 4) : Nat := if [a, b].any (fun f => f == fmtBf16 || f == fmtFp16) then 2 else 1

/-- Where the feed finds element (row position i, step k) of an operand: byte offset and nibble shift (R74, R75).
`dual` tells an F4b × F4b product, `isB` the B operand. -/
def feedOffset (skewed dual isB : Bool) (f : Feed) (i k : Nat) : Nat × Nat :=
  let es := if f.fmt == fmtF4b then 1 else fmtBits f.fmt / 8
  if skewed then
    (if f.fmt == fmtF4b && dual then ((k / 2 + i) * 128 + i, k % 2) else ((k + i) * (128 * es) + i * es, 0))
  else if f.trans == isB then (i * f.pitch.toNat * 64 + k * es, 0)
  else (k * f.pitch.toNat * 64 + i * es, 0)

/-- Offset of the scale byte of block k / 16 of row i (R74). -/
def scaleOffset (f : Feed) (i k : Nat) : Nat := i * f.pitch.toNat * 64 + k / 16

/-- One operand of a product: feed, base, and for F4b the scale feed and base. -/
structure Operand where
  f : Feed
  base : Nat
  scale : Option (Feed × Nat)
deriving DecidableEq, Repr

/-- The exact value of element (i, k) of an operand, with the poison rules of 07 R190. -/
def Core.operandVal (c : Core) (skewed dual isB : Bool) (o : Operand) (i k kTotal : Nat) : Val :=
  let es := if o.f.fmt == fmtF4b then 1 else fmtBits o.f.fmt / 8
  let at_ (k : Nat) : Nat := o.base + (feedOffset skewed dual isB o.f i k).1
  if o.f.fmt == fmtF4b then
    match o.scale with
    | none => .nan
    | some (sf, sb) =>
      let sa := sb + scaleOffset sf i k
      let blockPoison := ((List.range 16).map (· + k / 16 * 16)).any (fun k => decide (k < kTotal) && poisoned c.spPoison (at_ k) 1)
      let e := (c.sp.get sa).toNat
      if blockPoison || poisoned c.spPoison sa 1 || e == 255 then .nan
      else (layF4b.decode (fld (c.sp.get (at_ k)).toNat (4 * (feedOffset skewed dual isB o.f i k).2) 4)).scale ((e : Int) - 127)
  else if poisoned c.spPoison (at_ k) es then .nan
  else (fmtLayout o.f.fmt).decode (c.sp.nat (at_ k) es)

/-- The highest byte offset + 1 that the feed reads of an operand with n positions. -/
def operandEnd (skewed dual isB : Bool) (f : Feed) (n k : Nat) : Nat :=
  let es := if f.fmt == fmtF4b then 1 else fmtBits f.fmt / 8
  (feedOffset skewed dual isB f (n - 1) (k - 1)).1 + es

/-- R59 over k = 0 … K − 1: one rounding per step. -/
def accumulate (a b : Nat → Val) : Nat → Nat → Val → Val
  | 0, _, acc => acc
  | n + 1, k, acc => accumulate a b n (k + 1) (fp32 (acc.add ((a k).mul (b k))))

/-- Sum in FP32 with RNE, in list order, from +0. -/
def sumFp32 (vs : List Val) : Val := vs.foldl (fun a v => addFp32 a v) Val.zero

/-- What the checksum columns hold for a row at drain (R89): `cols` enabled columns, `start` the row's starting entries
under acc. -/
def rowCheck (row cols kTotal : Nat) (a : Nat → Val) (b : Nat → Nat → Val) (start : Option (List Val)) : RowCheck :=
  let sig (k : Nat) : Val := sumFp32 ((List.range cols).map (fun j => b j k))
  let al (k : Nat) : Val := sumFp32 ((List.range cols).map (fun j => (b j k).abs))
  let s0 := match start with
    | some vs => sumFp32 vs
    | none => Val.zero
  let m0 := match start with
    | some vs => sumFp32 (vs.map Val.abs)
    | none => Val.zero
  { row := row, sum := BitVec.ofNat 32 (toFp32 (accumulate a sig kTotal 0 s0)),
    mag := BitVec.ofNat 32 (toFp32 (accumulate (fun k => (a k).abs) al kTotal 0 m0)) }

/-- The feeds a product uses: A, B, and the scale feeds of F4b operands. -/
def usedFeeds (fa fb : Feed) : List Nat :=
  [0, 1] ++ (if fa.fmt == fmtF4b then [2] else []) ++ (if fb.fmt == fmtF4b then [3] else [])

/-- The base address of a feed: its scratchpad address, or the buffer at the pop position of its queue (R78). -/
def State.feedBase (s : State) (k : Nat) (f : Feed) : Nat :=
  if f.hqSrc then
    let h := s.hq k (f.addr.toNat % 32)
    (h.cfg.map (fun c => c.bufAddr h.pPop)).getD 0
  else f.addr.toNat * 512

/-- R76: the feeds fit the mode and stay inside the scratchpad. -/
def State.feedsOk (s : State) (k : Nat) (fa fb : Feed) (m n kk : Nat) : Bool :=
  let me := (s.core k).me
  let skewed := !me.bcastActive
  let dual := fa.fmt == fmtF4b && fb.fmt == fmtF4b
  let f4a := fa.fmt == fmtF4b
  let f4b := fb.fmt == fmtF4b
  let fits (o : Nat) : Bool := match me.feed o with
    | none => false
    | some f =>
      let e := match o with
        | 0 => operandEnd skewed dual false f m kk
        | 1 => operandEnd skewed dual true f n kk
        | 2 => scaleOffset f (m - 1) (kk - 1) + 1
        | _ => scaleOffset f (n - 1) (kk - 1) + 1
      decide (s.feedBase k f + e ≤ 4 * mib)
  !(skewed && (fa.trans || fb.trans)) && !(!skewed && (f4a || f4b)) && !(f4a && !bitAt me.scaleOk.toNat 0)
    && !(f4b && !bitAt me.scaleOk.toNat 1) && (usedFeeds fa fb).all fits

/-- The queues that a product pops, with the endpoint codes 0x10 + operand (07 R207). -/
def Me.feedQueues (m : Me) (os : List Nat) : List (Nat × Nat) :=
  os.filterMap (fun o => match m.feed o with
    | some f => if f.hqSrc then some (0x10 + o, f.addr.toNat % 32) else none
    | none => none)

/-- The values and checks of a product whose operands are all present (R59, R80, R89). -/
def Core.mmaWork (c : Core) (w : Nat) (oa ob : Operand) : List (Nat × Word) × List RowCheck :=
  let t := fld w 24 4
  let acc := bitAt w 28
  let kk := mmaK w
  let n := fld w 46 7 + 1
  let m := fld w 53 7 + 1
  let skewed := !c.me.bcastActive
  let dual := oa.f.fmt == fmtF4b && ob.f.fmt == fmtF4b
  let rows := (List.range m).filter (fun i => !bitAt w 29 || bitAt c.me.rmask.toNat i)
  let a (i k : Nat) : Val := c.operandVal skewed dual false oa i k kk
  let b (j k : Nat) : Val := c.operandVal skewed dual true ob j k kk
  let start (i j : Nat) : Val := if acc then ofFp32 (c.accVal t (128 * i + j)).toNat else Val.zero
  let vals := rows.flatMap (fun i => (List.range n).map (fun j =>
    (128 * i + j, BitVec.ofNat 32 (toFp32 (accumulate (a i) (b j) kk 0 (start i j))))))
  let checks := if bitAt w 30 && c.me.chkActive then
      rows.map (fun i => rowCheck i n kk (a i) b (if acc then some ((List.range n).map (start i)) else none))
    else []
  (vals, checks)

/-- Whether the array can take another product: at most two tiles are in the cells (R85), and no self-test runs. -/
def Me.arrayFree (m : Me) : Bool :=
  decide ((m.jobs.filter (fun j => j.work.isMma)).length < 2) && !m.jobs.any (fun j => j.work.isSelftest)

/-- The last line of a product has been read: it holds no handle any more (R210). -/
def MeWork.fed : MeWork → MeWork
  | .mma t vals checks _ p _ => .mma t vals checks [] p 0
  | w => w

/-- The handles that a job holds. -/
def MeWork.handles : MeWork → List (BitVec 5)
  | .mma _ _ _ rel _ _ => rel
  | _ => []

/-- The jobs that satisfy a test have read their last line: the handles of their feeds are released (07 R210). -/
def State.endFeed (s : State) (k : Nat) (p : MeWork → Bool) : State :=
  let done := ((s.core k).me.jobs.filter (fun j => p j.work)).flatMap (fun j => j.work.handles)
  let s := s.modMe k (fun m => { m with jobs := m.jobs.map (fun j => if p j.work then { j with work := j.work.fed } else j) })
  done.foldl (fun s h => s.hqRelease k h.toNat) s

/-- ME.MMA (R80). A product starts when the one before it has fed its last line (R85). DEDUCED, assumption 6; DESIGN CHOICE, assumption 7. -/
def State.meMma (ecc : List EccHit) (k : Nat) (q : QEntry) (s : State) : State :=
  let c := s.core k
  let t := fld q.w 24 4
  match c.me.feed 0, c.me.feed 1 with
  | some fa, some fb =>
    let kk := mmaK q.w
    let n := fld q.w 46 7 + 1
    let m := fld q.w 53 7 + 1
    let os := usedFeeds fa fb
    let qs := c.me.feedQueues os
    if !pairOk fa.fmt fb.fmt then s.skipHead k .me q meBadFmt
    else if !s.feedsOk k fa fb m n kk then s.skipHead k .me q meBadFeed
    else if qs.any (fun x => !(s.hq k x.2).consIs x.1) then
      s.skipOwner k .me q (((qs.find? (fun x => !(s.hq k x.2).consIs x.1)).map Prod.snd).getD 0)
    else if c.tileRead t q.order || c.tileWritten t q.order || !c.me.arrayFree || s.meCap k == 0 || decide (s.pwr.level ≥ 3) then s
    else if bitAt c.me.sealedT.toNat t || (bitAt c.me.pinned.toNat t && !bitAt q.w 28) then s.skipHead k .me q mePinViol
    else
      let dry := qs.filter (fun x => !(s.hq k x.2).canPop)
      if !dry.isEmpty then dry.foldl (fun s x => s.localWait k x.1 x.2 false) s
      else
        let s := s.eccHits k ecc
        let oa : Operand := { f := fa, base := s.feedBase k fa, scale := (c.me.feed 2).map (fun f => (f, s.feedBase k f)) }
        let ob : Operand := { f := fb, base := s.feedBase k fb, scale := (c.me.feed 3).map (fun f => (f, s.feedBase k f)) }
        let (vals, checks) := (s.core k).mmaWork q.w oa ob
        let s := s.endFeed k MeWork.isMma
        let s := qs.foldl (fun s x => ((s.hqPop k x.2).2).endWait k x.1) s
        let s := s.take k .me
        let bc := c.me.bcastActive
        s.modMe k (fun me => { me with jobs := me.jobs ++
          [{ q := q, work := .mma (BitVec.ofNat 4 t) vals checks (qs.map (fun x => BitVec.ofNat 5 x.2))
               (feedCycles fa.fmt fb.fmt * (if bc then 4 else 1))
               (feedSteps bc (fa.fmt == fmtF4b && fb.fmt == fmtF4b) kk (if n > c.me.width then 2 else 1)) }] })
  | _, _ => s.skipHead k .me q meBadFeed

def execMeMma (l : SiteNo) (c : CoreNo) (ecc : List EccHit) (s : State) : Res :=
  .next (s.meRun l c 0x20 (State.meMma ecc))

/-- FP32 division, nearest even, for the relative error of R90: the exact quotient is rounded once. DEDUCED, assumption 27. -/
def divFp32 (x y : Val) : Val :=
  match x, y with
  | .nan, _ => .nan
  | _, .nan => .nan
  | .inf a, .inf _ => if a then .nan else .nan
  | .inf a, .fin b _ _ => .inf (a != b)
  | .fin a _ _, .inf b => .fin (a != b) 0 0
  | .fin a m e, .fin b n f =>
    if n == 0 then (if m == 0 then .nan else .inf (a != b))
    else if m == 0 then .fin (a != b) 0 0
    else
      let sh := 80 + Nat.log2 n
      let num := m * 2 ^ sh
      let qt := num / n
      let sticky := if num % n == 0 then 0 else 1
      fp32 (.fin (a != b) (2 * qt + sticky) (e - f - sh - 1))

/-- Whether a row of a finished product disagrees with its checksum, and the relative error (R89, R90). DEDUCED, assumption 27. -/
def RowCheck.bad (r : RowCheck) (tol : Nat) (row : List Word) : Option Word :=
  let rho := sumFp32 (row.map (fun v => ofFp32 v.toNat))
  let sum := ofFp32 r.sum.toNat
  let mag := ofFp32 r.mag.toNat
  if rho.isNan || rho.isInf || sum.isNan || sum.isInf || mag.isNan || mag.isInf then none
  else
    let diff := (rho.add sum.neg).abs
    let lim := (mag.scale (-(tol : Int))).add (.fin false 1 (-120))
    if lim.lt diff then some (BitVec.ofNat 32 (toFp32 (divFp32 diff mag))) else none

/-- Apply the faults the array met to the drained values: (entry, XOR of its bits). DESIGN CHOICE, assumption 9. -/
def upsetVals (upset : List (BitVec 14 × Word)) (vals : List (Nat × Word)) : List (Nat × Word) :=
  vals.map (fun v => (v.1, (upset.filter (fun u => u.1.toNat == v.1)).foldl (fun x u => x ^^^ u.2) v.2))

/-- Apply the faults the checksum columns met: (row, XOR of its sum, XOR of its magnitude). DESIGN CHOICE, assumption 9. -/
def RowCheck.upset (chk : List (BitVec 7 × Word × Word)) (r : RowCheck) : RowCheck :=
  (chk.filter (fun u => u.1.toNat == r.row)).foldl (fun r u => { r with sum := r.sum ^^^ u.2.1, mag := r.mag ^^^ u.2.2 }) r

def anyNan (vals : List (Nat × Word)) : Bool := vals.any (fun v => (ofFp32 v.2.toNat).isNan)
def anyInf (vals : List (Nat × Word)) : Bool := vals.any (fun v => (ofFp32 v.2.toNat).isInf)

/-- Remove the first job that satisfies a test. -/
def takeJob (p : MeJob → Bool) : List MeJob → Option (MeJob × List MeJob)
  | [] => none
  | j :: r => if p j then some (j, r) else (takeJob p r).map (fun x => (x.1, j :: x.2))

/-- ME_MMA_TILE_COMPLETE: the oldest product has drained; its rows are checked, and handles that it still holds released
(R85, R89, R90, R210). DEDUCED, assumption 6. -/
def State.mmaDone (s : State) (k : Nat) (upset : List (BitVec 14 × Word)) (chk : List (BitVec 7 × Word × Word)) : State :=
  match takeJob (fun j => j.work.isMma) (s.core k).me.jobs with
  | some ({ q := q, work := .mma t vals checks rel _ _ }, rest) =>
    let vals := upsetVals upset vals
    let s := s.modMe k (fun m => { (m.writeTile t.toNat vals) with
      jobs := rest, finishing := m.finishing && rest.any (fun j => j.work.isMma) })
    let s := s.numStat k q.tag q.order (anyNan vals) (anyInf vals) false
    let me := (s.core k).me
    let bads := checks.filterMap (fun r =>
      let row := (vals.filter (fun v => v.1 / 128 == r.row)).map Prod.snd
      ((r.upset chk).bad me.tolExp.toNat row).map (fun rel => (r.row, rel)))
    let s := match bads with
      | [] => s
      | (row, err) :: _ =>
        let s := if bitAt me.cause.toNat meChk then s
          else s.modMe k (fun m => { m with chkInfo := reg64 [(t.toNat, 0), (row, 4), (q.tag.toNat, 16), (err.toNat, 32)] })
        s.raise (.me k) meChk
    let s := rel.foldl (fun s h => s.hqRelease k h.toNat) s
    s.finish k .me q
  | _ => s

def execMeMmaTileComplete (l : SiteNo) (c : CoreNo) (upset : List (BitVec 14 × Word)) (chk : List (BitVec 7 × Word × Word))
    (s : State) : Res :=
  match s.key l c with
  | some k => .next (if s.meCap k == 0 then s else s.mmaDone k upset chk)
  | none => .next s

/-! ## Store path (R91, R92) -/

/-- A store plan (R91). -/
structure Plan where
  tdesc : Nat
  rsplit : Nat
  csplit : Nat
  perm : List Nat
  origin : List Nat
  indexBase : Nat
  tagRaw : Nat
  seq : Nat
  m : Nat
  n : Nat
  g16k : Int
  reserved : Bool
deriving DecidableEq, Repr

def decodePlan (bs : List Byte) : Plan :=
  let b2 := bfld bs 2 1
  let b3 := bfld bs 3 1
  { tdesc := bfld bs 0 2, rsplit := b2 % 16, csplit := b2 / 16, perm := (List.range 4).map (fun d => fld b3 (2 * d) 2),
    origin := (List.range 4).map (fun d => bfld bs (4 + 2 * d) 2), indexBase := bfld bs 12 6, tagRaw := bfld bs 18 2,
    seq := bfld bs 20 2, m := bfld bs 22 1 + 1, n := bfld bs 23 1 + 1, g16k := sfld (bfld bs 24 1) 0 8,
    reserved := (bs.drop 25).any (· != 0) }

/-- R91: the plan names each tile dimension once and its fields are valid. -/
def Plan.ok (p : Plan) : Bool :=
  p.perm.eraseDups.length == 4 && decide (p.rsplit ≤ 7) && decide (p.csplit ≤ 7) && !p.reserved && decide (p.tagRaw < 4096)

/-- Destination logical index of tile element (row, col) (R183). -/
def Plan.index (p : Plan) (row col : Nat) : List Int :=
  let t := [col % 2 ^ p.csplit, col / 2 ^ p.csplit, row % 2 ^ p.rsplit, row / 2 ^ p.rsplit]
  (List.range 6).map (fun d => if d < 4 then ((nth p.origin d 0 + nth t (nth p.perm d 0) 0 : Nat) : Int) else 0)

/-- The elements a store writes: rows in order, columns in order. m_m1 and n_m1 are whole bytes; a tile has 128 rows and
columns, and a value above 127 stores them all. DESIGN CHOICE, assumption 77. -/
def Core.storeElems (c : Core) (t : Nat) (p : Plan) (fp32Dst : Bool) : List WElem :=
  (List.range (min p.m 128)).flatMap (fun r => (List.range (min p.n 128)).map (fun col =>
    let v := (c.accVal t (128 * r + col)).toNat
    { i := p.index r col, src := if fp32Dst then .code v else .val (ofFp32 v) }))

/-- The mover of a core: its own engines. -/
def State.mover (s : State) (k : Nat) : Mover :=
  let who := s.whoIs k
  { req := .engine (BitVec.ofNat 6 who.1) (BitVec.ofNat 5 who.2), own := (s.core k).ctx.map BitVec.toNat }

/-- A store met an absent site or a closure: store_fault, entered in CC_ERRLOG and the Almanac (00 R5, R92). -/
def State.storeFault (s : State) (k : Nat) (q : QEntry) : State :=
  (s.raise (.me k) meStore).errLog k q.addr q.bank q.slot.toNat 1 meStore q.tag

/-- ME.ST: validation, then the store starts (R91, R92, R52, R84). On a tile that is not pinned, release = 1 acts as
release = 0. DEDUCED, assumption 27; DESIGN CHOICE, assumption 77. -/
def State.meSt (ecc : List EccHit) (k : Nat) (q : QEntry) (s : State) : State :=
  let c := s.core k
  let t := fld q.w 24 4
  let rnd : BitVec 3 := BitVec.ofNat 3 (fld q.w 28 3)
  let fmt : BitVec 4 := BitVec.ofNat 4 (fld q.w 31 4)
  let release := bitAt q.w 35
  let a := fld q.w 36 16
  if a % 32 ≠ 0 then s.skipHead k .me q meBadCmd
  else if fmtReserved fmt then s.skipHead k .me q meBadFmt
  else if rndReserved rnd then s.skipHead k .me q meBadRnd
  else if c.me.jobs.any (fun j => j.work.isStore) || c.tileWritten t q.order then s
  else if release && bitAt c.me.pinned.toNat t && !bitAt c.me.sealedT.toNat t then s.skipHead k .me q mePinViol
  else
  let s := s.eccHits k ecc
  match (s.core k).cc.dmemRead a 32 with
  | none => s.skipDmem k .me q
  | some bs =>
    let p := decodePlan bs
    if !p.ok then s.skipHead k .me q meStore
    else match resolve c.se.desc { write := true, scatter := false, scale := false } p.tdesc with
    | none => s.skipHead k .me q meStore
    | some r =>
      if r.d.fmt != fmt then s.skipHead k .me q meStore
      else
        let cv : Cvt := { mode := rnd, key := s.srKey k p.tagRaw p.seq, indexBase := p.indexBase, g16k := p.g16k }
        let (os, ac) := writeElems r 0 cv ((s.core k).storeElems t p (fmt == fmtFp32))
        let iss := s.issueElems (s.mover k) os
        let s := (s.tdStat k ac).meet iss.ev
        let s := if lostAny iss.ev || sealedAny iss.ev then s.storeFault k q else s
        let s := s.take k .me
        s.modMe k (fun me => { me with jobs := me.jobs ++
          [{ q := q, work := .store (BitVec.ofNat 4 t) iss.ws release iss.nan iss.inf iss.sat false }] })

def execMeSt (l : SiteNo) (c : CoreNo) (ecc : List EccHit) (s : State) : Res :=
  .next (s.meRun l c 0x30 (State.meSt ecc))

/-- ME_ST_COMPLETE: the writes land; the command completes once every protected block is covered by parity (R91,
12 R366). Writes to a site retired since the start are discarded (01 R27). A releasing store of a sealed tile clears both marks (R84). -/
def State.stDone (s : State) (k : Nat) : State :=
  match takeJob (fun j => j.work.isStore) (s.core k).me.jobs with
  | some ({ q := q, work := .store t ws release nan inf sat landed }, rest) =>
    let lost := !landed && ws.any s.wrGone
    let s := if landed then s else (s.landStream (.me k) ws).numStat k q.tag q.order nan inf sat
    let s := if lost then s.storeFault k q else s
    if s.protBusy ws then
      s.modMe k (fun m => { m with jobs := { q := q, work := .store t ws release nan inf sat true } :: rest })
    else
      let s := s.modMe k (fun m =>
        let clr := release && bitAt m.sealedT.toNat t.toNat
        { m with jobs := rest, pinned := if clr then setBit m.pinned t.toNat false else m.pinned,
                 sealedT := if clr then setBit m.sealedT t.toNat false else m.sealedT })
      s.finish k .me q
  | _ => s

def execMeStComplete (l : SiteNo) (c : CoreNo) (s : State) : Res :=
  match s.key l c with
  | some k => .next (s.stDone k)
  | none => .next s

/-! ## Tile commands (R81, R84) -/

/-- ME.LDACC starts: 65,536 bytes of FP32 from the scratchpad; poisoned values read as canonical NaN (R81). -/
def State.meLdacc (ecc : List EccHit) (k : Nat) (q : QEntry) (s : State) : State :=
  let c := s.core k
  let t := fld q.w 24 4
  let a := fld q.w 28 13
  if a > 8064 then s.skipHead k .me q meBadCmd
  else if c.tileRead t q.order || c.tileWritten t q.order || c.me.jobs.any (fun j => j.work.isLdacc) then s
  else if bitAt c.me.pinned.toNat t then s.skipHead k .me q mePinViol
  else
    let s := s.eccHits k ecc
    let c := s.core k
    let vals := (List.range 16384).map (fun e =>
      let o := a * 512 + 4 * e
      (e, if poisoned c.spPoison o 4 then (0x7FC00000 : Word) else BitVec.ofNat 32 (c.sp.nat o 4)))
    (s.take k .me).modMe k (fun me => { me with jobs := me.jobs ++ [{ q := q, work := .ldacc (BitVec.ofNat 4 t) vals }] })

def execMeLdacc (l : SiteNo) (c : CoreReads) (s : State) : Res := .next (s.meRun l c.core 0x31 (State.meLdacc c.ecc))

/-- ME_LDACC_COMPLETE: the tile holds the loaded values. -/
def State.ldaccDone (s : State) (k : Nat) : State :=
  match takeJob (fun j => j.work.isLdacc) (s.core k).me.jobs with
  | some ({ q := q, work := .ldacc t vals }, rest) =>
    let s := s.modMe k (fun m => { (m.writeTile t.toNat vals) with jobs := rest })
    (s.numStat k q.tag q.order (anyNan vals) (anyInf vals) false).finish k .me q
  | _ => s

def execMeLdaccComplete (l : SiteNo) (c : CoreNo) (s : State) : Res :=
  match s.key l c with
  | some k => .next (s.ldaccDone k)
  | none => .next s

/-- ME.ZERO sets every entry of an unpinned tile to +0 (R81). -/
def State.meZero (k : Nat) (q : QEntry) (s : State) : State :=
  let c := s.core k
  let t := fld q.w 24 4
  if c.tileRead t q.order || c.tileWritten t q.order then s
  else if bitAt c.me.pinned.toNat t then s.skipHead k .me q mePinViol
  else ((s.modMe k (fun m => m.setTile t Tile.zero)).take k .me).finish k .me q

def execMeZero (l : SiteNo) (c : CoreNo) (s : State) : Res := .next (s.meRun l c 0x32 State.meZero)

/-- ME.PIN sets an unpinned tile to +0 and marks it pinned (R84). -/
def State.mePin (k : Nat) (q : QEntry) (s : State) : State :=
  let c := s.core k
  let t := fld q.w 24 4
  if c.tileRead t q.order || c.tileWritten t q.order then s
  else if bitAt c.me.pinned.toNat t then s.skipHead k .me q mePinViol
  else ((s.modMe k (fun m => { (m.setTile t Tile.zero) with pinned := setBit m.pinned t true })).take k .me).finish k .me q

def execMePin (l : SiteNo) (c : CoreNo) (s : State) : Res := .next (s.meRun l c 0x40 State.mePin)

/-- ME.SEAL marks a pinned, unsealed tile sealed (R84). -/
def State.meSeal (k : Nat) (q : QEntry) (s : State) : State :=
  let m := (s.core k).me
  let t := fld q.w 24 4
  if !bitAt m.pinned.toNat t || bitAt m.sealedT.toNat t then s.skipHead k .me q mePinViol
  else ((s.modMe k (fun m => { m with sealedT := setBit m.sealedT t true })).take k .me).finish k .me q

def execMeSeal (l : SiteNo) (c : CoreNo) (s : State) : Res := .next (s.meRun l c 0x41 State.meSeal)

/-! ## Self-test (R82) -/

/-- ME.SELFTEST starts: only in broadcast mode; its tile becomes undefined. DESIGN CHOICE, assumption 7. -/
def State.meSelftest (k : Nat) (q : QEntry) (s : State) : State :=
  let c := s.core k
  let t := fld q.w 24 4
  if !c.me.bcastActive then s.skipHead k .me q meBadCmd
  else if c.tileRead t q.order || c.tileWritten t q.order || c.me.jobs.any (fun j => j.work.isMma || j.work.isSelftest) then s
  else if bitAt c.me.pinned.toNat t then s.skipHead k .me q mePinViol
  else
    let (n, s) := s.fresh 16384
    let s := s.modMe k (fun m => { (m.setTile t (Tile.undef n)) with
      jobs := m.jobs ++ [{ q := q, work := .selftest (BitVec.ofNat 4 t) }] })
    s.take k .me

def execMeSelftest (l : SiteNo) (c : CoreNo) (s : State) : Res := .next (s.meRun l c 0x50 State.meSelftest)

/-- ME_SELFTEST_DONE: one bit per physical column; col_fail when a column not already in ME_COLFAIL fails. -/
def State.selftestDone (s : State) (k : Nat) (fails : BitVec 130) : State :=
  match takeJob (fun j => j.work.isSelftest) (s.core k).me.jobs with
  | some (j, rest) =>
    let new := (fails &&& ~~~(s.core k).me.colfail) != 0
    let s := s.modMe k (fun m => { m with jobs := rest, test := fails })
    let s := if new then s.raise (.me k) meColFail else s
    s.finish k .me j.q
  | none => s

def execMeSelftestDone (l : SiteNo) (c : CoreNo) (fails : BitVec 130) (s : State) : Res :=
  match s.key l c with
  | some k => .next (s.selftestDone k fails)
  | none => .next s

/-! ## Feed mode and activity (R73, R87) -/

/-- The requested feed mode takes effect when the ME is idle with an empty queue (R73). -/
def Me.applyMode (m : Me) : Me := if m.idle then { m with bcastActive := m.bcastReq } else m

/-- ME_CTL.bcast write: the mode asked for; in force at once when the ME is idle (R73, R453). -/
def execMeCtlBcastWrite (l : SiteNo) (c : CoreNo) (bcast : Bool) (s : State) : Res :=
  match s.key l c with
  | some k => .next (s.modMe k (fun m => { m with bcastReq := bcast }))
  | none => .next s

/-- BCAST_MODE_SWITCH: the ME is idle with an empty queue and takes the requested mode. -/
def execBcastModeSwitch (l : SiteNo) (c : CoreNo) (s : State) : Res :=
  match s.key l c with
  | some k => .next (s.modMe k Me.applyMode)
  | none => .next s

/-- The level after a 6-cycle boundary (R87, 04 R135): down when above the cap or nothing is ready, up below the cap. -/
def levelStep (level cap : Nat) (ready : Bool) : Nat :=
  if level > cap then level - 1 else if ready then (if level < cap then level + 1 else level) else level - 1

/-- Whether the array has a feed step ready: a product that still feeds. -/
def Me.ready (m : Me) : Bool := m.jobs.any (fun j => j.work.feeding)

/-- Six core cycles have passed since the last boundary (R87, 04 R135). -/
def boundaryDue (last : Option DWord) (tick : DWord) : Bool :=
  match last with
  | some t => decide (6 ≤ (tick - t).toNat)
  | none => true

/-- ACTIVITY_LEVEL_BOUNDARY: the activity level of the ME, or of the VE, moves by at most one, at a 6-cycle boundary; at
level 0 the credit is 0 (R87, 04 R135). DEDUCED, assumption 76. -/
def State.levelBoundary (s : State) (k : Nat) (ve : Bool) : State :=
  let cap := s.meCap k
  if ve then
    s.modVe k (fun v =>
      if !boundaryDue v.levelAt s.tick then v
      else
        let l := levelStep v.level.toNat s.veCap v.chain.isSome
        { v with level := BitVec.ofNat 4 l, levelAt := some s.tick, credit := if l == 0 then 0 else v.credit })
  else
    s.modMe k (fun m =>
      if !boundaryDue m.levelAt s.tick then m
      else
        let l := levelStep m.level.toNat cap m.ready
        { m with level := BitVec.ofNat 4 l, levelAt := some s.tick, credit := if l == 0 then 0 else m.credit })

def execActivityLevelBoundary (l : SiteNo) (c : CoreNo) (ve : Bool) (s : State) : Res :=
  match s.key l c with
  | some k => .next (s.levelBoundary k ve)
  | none => .next s

end Sys2Proof.Machine
end

