-- ==== Sys2Proof/Machine/VePass.lean ====
section
/-! DEFINITION. One row of a VE pass (04 R101–R130, 05 R144–R150): element programs, shuffles, reductions, scans, gates,
tables, the SFU. Values are exact values already rounded to the lane format or to FP32. -/

namespace Sys2Proof.Machine

/-! ## Arithmetic (R121, R122) -/

/-- Round to a lane format, nearest even (R122). -/
def roundTo (l : Layout) (v : Val) : Val := l.decode (l.encode rne v).code

/-- Minimum: NaN wins, −0 below +0 (R122, 02 R63). -/
def Val.minV (x y : Val) : Val :=
  if x.isNan || y.isNan then .nan
  else if x.lt y then x else if y.lt x then y else if x.isNeg then x else y

def Val.maxV (x y : Val) : Val :=
  if x.isNan || y.isNan then .nan
  else if x.lt y then y else if y.lt x then x else if x.isNeg then y else x

/-- Fused multiply-add, rounded once to FP32. -/
def fmaFp32 (x y z : Val) : Val := fp32 ((x.mul y).add z)

def mulFp32 (x y : Val) : Val := fp32 (x.mul y)

/-- The largest integer not above a value; ±0, ±∞ and NaN unchanged. -/
def Val.floor : Val → Val
  | .fin n m e =>
    if m == 0 || decide (0 ≤ e) then .fin n m e
    else
      let d := 2 ^ (-e).toNat
      if n then .fin true ((m + d - 1) / d) 0 else .fin false (m / d) 0
  | v => v

/-- The integer toward zero of a finite value. -/
def Val.trunc : Val → Int
  | .fin n m e =>
    let q : Nat := if 0 ≤ e then m * 2 ^ e.toNat else m / 2 ^ (-e).toNat
    if n then -(q : Int) else (q : Int)
  | _ => 0

def Val.ofInt (i : Int) : Val := .fin (decide (i < 0)) i.natAbs 0

/-- EP.EXPO. -/
def Val.expo : Val → Val
  | .nan => .nan
  | .inf _ => .inf false
  | .fin _ m e => if m == 0 then .inf true else Val.ofInt ((Nat.log2 m : Int) + e)

/-- EP.MANT. -/
def Val.mant : Val → Val
  | .fin n m e => if m == 0 then .fin n m e else .fin n m (-(Nat.log2 m : Int))
  | v => v

/-- EP.SCALE before its rounding. -/
def Val.scaleBy (a b : Val) : Val :=
  match b with
  | .nan => .nan
  | .inf n => a.scale (if n then -400 else 400)
  | v => a.scale (max (-400) (min 400 v.trunc))

/-- A value drawn by bisection: `f` gives the value at a key from the range its neighbours leave, and the value at `x` is
found between the keys `a` and `b`, whose values are `u` and `v`. Whatever `f` draws, the values of keys in order are in
order. -/
def bisect (f : Int → Nat → Nat → Nat) : Nat → Int → Int → Nat → Nat → Int → Nat
  | 0, _, _, u, _, _ => u
  | n + 1, a, b, u, v, x =>
    let m := (a + b) / 2
    let w := f m u v
    if x = m then w else if x < m then bisect f n a m u w x else bisect f n m b w v x

/-- A free FP32 code pulled into lo … hi. -/
def within (lo hi : Nat) (w : Word) : Nat := lo + w.toNat % (hi - lo + 1)

/-- The FP32 code of 2ⁿ, +0 below the subnormals and +∞ above the range. -/
def codePow2 (n : Int) : Nat := if n < -149 then 0 else toFp32 (.fin false 1 n)

/-- ln 2 in units of 2⁻⁹⁶, rounded down. -/
def ln2At96 : Nat := 54916777467707473351141471128

/-- The slack left on each side of a series value, in units of 2⁻⁹⁶: more than all its truncations together. -/
def seriesSlack : Nat := 1024

/-- The last n terms of eʸ from a term onward, in units of 2⁻⁹⁶ (rounded down). -/
def expTerms (y : Nat) : Nat → Nat → Nat → Nat
  | 0, _, _ => 0
  | n + 1, k, term => term + expTerms y n (k + 1) (term * y / 2 ^ 96 / (k + 1))

/-- 2ᶠ for a fraction f in units of 2⁻⁹⁶, in the same units, at most `seriesSlack` below the exact value. -/
def pow2At96 (f : Nat) : Nat := expTerms (f * ln2At96 / 2 ^ 96) 40 0 (2 ^ 96)

/-- n terms of the area tangent series of z from zᵏ / k onward, k odd (units of 2⁻⁹⁶, rounded down). -/
def atanhTerms (z : Nat) : Nat → Nat → Nat → Nat
  | 0, _, _ => 0
  | n + 1, k, power => power / k + atanhTerms z n (k + 2) (power * z / 2 ^ 96 * z / 2 ^ 96)

/-- log₂ of m / 2ᵏ with k = ⌊log₂ m⌋, in units of 2⁻⁹⁶, within `seriesSlack` of the exact value. -/
def log2At96 (m : Nat) : Nat :=
  let k := 2 ^ Nat.log2 m
  let z := (m - k) * 2 ^ 96 / (m + k)
  2 * atanhTerms z 34 1 z * 2 ^ 96 / ln2At96

/-- The lowest FP32 code of a non-negative value at or above v. -/
def codeAtLeast (v : Val) : Nat := if (ofFp32 (toFp32 v)).lt v then toFp32 v + 1 else toFp32 v

/-- The highest FP32 code of a non-negative value at or below v. -/
def codeAtMost (v : Val) : Nat := if v.lt (ofFp32 (toFp32 v)) then toFp32 v - 1 else toFp32 v

/-- The bits of the silicon revision: some FP32 code of the interval [a − tol, b + tol] (units of 2ᵘ) that lies in
lo … hi (R148, R149). DESIGN CHOICE, assumption 12. -/
def boundedCode (a b tol : Nat) (u : Int) (lo hi : Nat) (free : Word) : Nat :=
  within (max lo (codeAtLeast (.fin false (a - tol) u))) (min hi (codeAtMost (.fin false (b + tol) u))) free

/-- A finite FP32 value by its place in the order of the format: its code, negated below zero. -/
def fp32Key (v : Val) : Int := if v.isNeg then -(toFp32 v.abs : Int) else (toFp32 v : Int)

/-- The value at a place. -/
def keyVal (i : Int) : Val := if i < 0 then (ofFp32 i.natAbs).neg else ofFp32 i.natAbs

/-- A place as the operand that names a free value. -/
def keyWord (i : Int) : Word := BitVec.ofNat 32 (if i < 0 then i.natAbs + 2 ^ 31 else i.natAbs)

/-- The code drawn for EP.EXP2 at place i between ⌊x⌋ = fl and fl + 1, from lo … hi: within 1.5 ulp of 2ˣ (R148, R150).
DESIGN CHOICE, assumption 12. -/
def exp2At (rev : Nat) (fl i : Int) (lo hi : Nat) : Nat :=
  match keyVal i with
  | .fin n m e =>
    let sx : Int := if n then -(m : Int) else (m : Int)
    let scaled : Int := if 0 ≤ e + 96 then sx * 2 ^ (e + 96).toNat else sx / 2 ^ (-(e + 96)).toNat
    let p := pow2At96 (scaled - fl * 2 ^ 96).toNat
    -- one ulp of the result is 2^(max fl (−126) − 23) (R45)
    let ulp := 2 ^ (96 + (max fl (-126) - 23) - fl).toNat
    boundedCode p (p + seriesSlack) (3 * ulp / 2) (fl - 96) lo hi (Config.exp2Bits rev (keyWord i))
  | _ => lo

/-- EP.EXP2 in FP32 (05 R144, R145): exact points; elsewhere the bits of the silicon revision (R150), within 1.5 ulp
(R148) and in the order of their operands (R149). DESIGN CHOICE, assumption 12. -/
def sfuExp2 (rev : Nat) (x : Val) : Val :=
  match x with
  | .nan => .nan
  | .inf n => if n then Val.zero else .inf false
  | .fin n m e =>
    if m == 0 then .fin false 1 0
    else
      let fl := (Val.fin n m e).floor.trunc
      if fl ≥ 128 then .inf false
      else if x.numEq (Val.ofInt fl) then (if fl ≤ -150 then Val.zero else .fin false 1 fl)
      else if fl < -150 then Val.zero
      else ofFp32 (bisect (exp2At rev fl) 34 (fp32Key (Val.ofInt fl)) (fp32Key (Val.ofInt (fl + 1))) (codePow2 fl) (codePow2 (fl + 1))
        (fp32Key x))

/-- The bound of R148 on EP.LOG2 in units of 2⁻⁹⁶, for a result of magnitude n … n + 1: 2⁻²² for 0.5 ≤ x ≤ 2, where it
exceeds 2 ulp; 2 ulp elsewhere. -/
def log2Bound (n : Nat) : Nat := if n == 0 then 2 ^ 74 else 2 ^ (74 + Nat.log2 n)

/-- The code of the magnitude drawn for EP.LOG2 at place i (negated below 1, where the magnitude falls) between 2ᵇ and
2ᵇ⁺¹, from lo … hi: within the bound of R148 (R150). DESIGN CHOICE, assumption 12. -/
def log2At (rev : Nat) (b i : Int) (lo hi : Nat) : Nat :=
  match ofFp32 i.natAbs with
  | .fin _ m _ =>
    let q := log2At96 m
    let n := (if 0 ≤ b then b else -b - 1).toNat
    let mag := if 0 ≤ b then n * 2 ^ 96 + q else (n + 1) * 2 ^ 96 - q
    boundedCode (mag - seriesSlack) (mag + seriesSlack) (log2Bound n) (-96) lo hi (Config.log2Bits rev (keyWord i))
  | _ => lo

/-- EP.LOG2 in FP32 (05 R146–R149): exact points; elsewhere the bits of the silicon revision (R150), within the bound of
R148 and in the order of their operands (R149). DESIGN CHOICE, assumption 12. -/
def sfuLog2 (rev : Nat) (x : Val) : Val :=
  match x with
  | .nan => .nan
  | .inf n => if n then .nan else .inf false
  | .fin n m e =>
    if m == 0 then .inf true
    else if n then .nan
    else
      let b : Int := (Nat.log2 m : Int) + e
      let at_ (b : Int) : Int := fp32Key (.fin false 1 b)
      if m == 2 ^ Nat.log2 m then (if b == 0 then Val.zero else Val.ofInt b)
      else if 0 ≤ b then
        ofFp32 (bisect (log2At rev b) 34 (at_ b) (at_ (b + 1)) (toFp32 (Val.ofInt b)) (toFp32 (Val.ofInt (b + 1))) (fp32Key x))
      else
        let code := bisect (log2At rev b) 34 (-(at_ (b + 1))) (-(at_ b)) (toFp32 (Val.ofInt (-b - 1))) (toFp32 (Val.ofInt (-b)))
          (-(fp32Key x))
        if code == 0 then Val.zero else (ofFp32 code).neg

/-! ## Chains (R113, R114, R117) -/

/-- An element instruction (R117). -/
structure EInstr where
  op : Nat
  dst : Nat
  a : Nat
  b : Nat
  c : Nat
  pred : Nat
  mod : Nat
deriving DecidableEq, Repr

def decodeEInstr (w : Nat) : EInstr :=
  { op := fld w 0 6, dst := fld w 6 4, a := fld w 10 5, b := fld w 15 5, c := fld w 20 5, pred := fld w 25 3,
    mod := fld w 28 4 }

/-- A stage word (R114). -/
structure VStage where
  kind : Nat
  op : Nat
  off : Nat
  len : Nat
  src : Nat
  excl : Bool
  seg : Bool
  cin : Bool
  cout : Bool
  caddr : Nat
  amount : Nat
  raw : Nat
  prog : List EInstr
deriving DecidableEq, Repr

/-- A chain descriptor (R113). -/
structure Chain where
  n : Nat
  lane16 : Bool
  laneFp16 : Bool
  rowst : Bool
  accEn : Bool
  accLayout : Bool
  wRnd : Nat
  accT : Nat
  accCnt : Nat
  wK : Int
  w : Nat
  ports : List Nat
  ks : List Int
  hqIn : Nat
  hqOut : Nat
  tag : Nat
  seq : Nat
  indexBase : Nat
  rowstAddr : Nat
  consts : List Word
  stages : List VStage
  reserved : Bool
deriving DecidableEq, Repr

/-- The lanes N and the lane format (R101). -/
def Chain.lanes (c : Chain) : Nat := if c.lane16 then 2048 else 1024
def Chain.lane (c : Chain) : Layout := if !c.lane16 then layFp32 else if c.laneFp16 then layFp16 else layBf16

/-- The smallest power of two at least n. -/
def pow2Ceil (n : Nat) : Nat := if n ≤ 1 then 1 else 2 ^ (Nat.log2 (n - 1) + 1)

/-- G of R104. -/
def groupSize (lanes len : Nat) : Nat := min lanes (pow2Ceil len)

/-- A barrier stage (R116). -/
def VStage.barrier (s : VStage) : Bool := s.kind == 2 || s.kind == 4

/-! ## Element programs (R118–R121) -/

/-- What an element sees besides its own state: port values, accumulator, row results, rank, indices, constants,
tables. -/
structure ElEnv where
  lane : Layout
  ports : List Val
  acc : Val
  inp : Val
  inb : Val
  red : List Val
  rank : Val
  e : Nat
  row : Nat
  consts : List Word
  tables : List VTable
  rev : Nat
  free : Nat
deriving DecidableEq, Repr

/-- The state of an element in an ELEM stage (R120), with its marks. -/
structure ElSt where
  t : List Val
  p : List Bool
  out : Val
  outb : Val
  hold : Option Val
  masked : Bool
  nowr : Bool
deriving DecidableEq, Repr

def valAt (l : List Val) (i : Nat) : Val := (l[i]?).getD Val.zero

/-- A source operand (R118). -/
def ElEnv.src (v : ElEnv) (st : ElSt) (code : Nat) : Val :=
  if code < 8 then valAt st.t code
  else if code < 11 then valAt v.ports (code - 8)
  else if code == 11 then v.acc
  else if code == 12 then v.inp
  else if code == 13 then v.inb
  else if code == 14 then roundTo v.lane (valAt v.red 0)
  else if code == 15 then roundTo v.lane (valAt v.red 1)
  else if code == 16 then roundTo v.lane v.rank
  else if code == 17 then roundTo v.lane (.fin false v.e 0)
  else if code == 18 then roundTo v.lane (.fin false v.row 0)
  else if code == 20 then .fin false 1 0
  else if code ≥ 24 then roundTo v.lane (ofFp32 ((v.consts[code - 24]?).getD 0).toNat)
  else Val.zero

/-- A value of a table: a table that no VE.TLOAD has filled has no entry count (R130), and its values are free. -/
def VTable.val (t : VTable) (free i : Nat) : Val :=
  ofFp32 (if t.n == 0 then Config.freeWord 32 free else t.words.get i).toNat

/-- Clamp the floor of a value to an entry index (R130); NaN gives 0. -/
def clampFloor (u : Val) (n : Nat) : Nat :=
  match u with
  | .nan => 0
  | .inf neg => if neg then 0 else n - 1
  | v => (max 0 (min ((n : Int) - 1) v.floor.trunc)).toNat

/-- EP.SEG in FP32 (R130). DEDUCED, assumption 35. -/
def VTable.seg (t : VTable) (free : Nat) (x : Val) : Val :=
  if x.isNan then .nan
  else
    let u := fmaFp32 x (ofFp32 t.scale.toNat) (ofFp32 t.off.toNat)
    let i := clampFloor u t.n
    let d := fp32 (u.add (Val.ofInt i).neg)
    let c (j : Nat) := t.val (free + j) (3 * i + j)
    fmaFp32 (fmaFp32 (c 2) d (c 1)) d (c 0)

/-- EP.LUT (R130). DEDUCED, assumption 35. -/
def VTable.lut (t : VTable) (free : Nat) (a : Val) : Val := t.val free (clampFloor a t.n)

/-- EP.CMP conditions (R121, R122). -/
def cmpVal (cond : Nat) (a b : Val) : Bool :=
  let un := a.isNan || b.isNan
  match cond with
  | 0 => a.numEq b
  | 1 => !a.numEq b
  | 2 => a.lt b
  | 3 => !un && !b.lt a
  | 4 => b.lt a
  | 5 => !un && !a.lt b
  | 6 => un
  | _ => a.isInf

/-- The result of an arithmetic op, before its rounding to the lane format, from modified a, b, c. -/
def aluVal (v : ElEnv) (i : EInstr) (free : Nat) (a b c : Val) : Val :=
  match i.op with
  | 0x01 => a
  | 0x02 => a.add b
  | 0x03 => a.add b.neg
  | 0x04 => a.mul b
  | 0x05 => (a.mul b).add c
  | 0x06 => a.minV b
  | 0x07 => a.maxV b
  | 0x08 => a.floor
  | 0x09 => a.expo
  | 0x0A => a.mant
  | 0x0B => a.scaleBy b
  | 0x0C => sfuExp2 v.rev a
  | 0x0D => sfuLog2 v.rev a
  | 0x0E => ((v.tables[i.mod / 4]?).getD VTable.init).seg free a
  | _ => ((v.tables[4 + i.mod / 4 % 2]?).getD VTable.init).lut free a

def ElSt.pred (s : ElSt) (i : Nat) : Bool := (s.p[i - 1]?).getD false

/-- Write a destination (R119). -/
def ElSt.put (s : ElSt) (dst : Nat) (x : Val) : ElSt :=
  if dst < 8 then { s with t := s.t.set dst x }
  else if dst == 8 then { s with out := x }
  else if dst == 9 then { s with outb := x }
  else { s with hold := some x }

/-- One element instruction (R120, R121); `n` is its place in the stage. -/
def ElSt.exec (v : ElEnv) (n : Nat) (s : ElSt) (i : EInstr) : ElSt :=
  let run := if i.pred == 0 then true else if i.pred < 4 then s.pred i.pred else !s.pred (i.pred - 4)
  if !run then s
  else
    let a := v.src s i.a
    let b := v.src s i.b
    if i.op == 0 then s
    else if i.op == 0x12 then { s with masked := true }
    else if i.op == 0x13 then { s with nowr := true }
    else if i.op == 0x10 then { s with p := s.p.set (i.dst - 11) (cmpVal (i.mod % 8) a b) }
    else if i.op == 0x11 then s.put i.dst (if s.pred (i.mod % 4) != (i.mod / 4 % 2 == 1) then a else b)
    else
      let a := if i.mod / 2 % 2 == 1 then a.abs else a
      let a := if i.mod % 2 == 1 then a.neg else a
      s.put i.dst (roundTo v.lane (aluVal v i (v.free + 4 * n) a b (v.src s i.c)))

def runProg (v : ElEnv) : Nat → List EInstr → ElSt → ElSt
  | _, [], s => s
  | n, i :: r, s => runProg v (n + 1) r (s.exec v n i)

/-! ## Rows -/

/-- An element of a row between stages. -/
structure El where
  inp : Val
  inb : Val
  hold : Option Val
  rank : Val
  masked : Bool
  nowr : Bool
deriving DecidableEq, Repr

def El.init : El :=
  { inp := Val.zero, inb := Val.zero, hold := none, rank := Val.zero, masked := false, nowr := false }

/-- Map with the element's number. -/
def mapFrom {α β : Type} (f : Nat → α → β) : Nat → List α → List β
  | _, [] => []
  | n, x :: r => f n x :: mapFrom f (n + 1) r

/-- Cut a list into pieces of `n`; `fuel` pieces at most. -/
def chunksOf {α : Type} (n : Nat) : Nat → List α → List (List α)
  | 0, _ => []
  | fuel + 1, l => if l.isEmpty then [] else l.take n :: chunksOf n fuel (l.drop n)

/-- What a row needs from outside: values and integer values of the read ports by element, accumulator values, incoming
carries by stage, tables. -/
structure RowEnv where
  ch : Chain
  row : Nat
  len : Nat
  port : Nat → Nat → Val
  idx : Nat → Nat → Option Int
  acc : Nat → Val
  carry : Nat → Val
  bad : Nat → Nat → Bool
  tables : List VTable
  rev : Nat
  free : Nat

def RowEnv.beats {α : Type} (v : RowEnv) (l : List α) : List (List α) :=
  chunksOf v.ch.lanes (v.len / v.ch.lanes + 1) l

/-- ELEM (R120). -/
def RowEnv.elem (v : RowEnv) (st : VStage) (red : List Val) (els : List El) : List El :=
  mapFrom (fun e (x : El) =>
    let env : ElEnv := {
      lane := v.ch.lane, ports := [v.port 0 e, v.port 1 e, v.port 2 e], acc := v.acc e, inp := x.inp,
      inb := x.inb, red := red, rank := x.rank, e := e, row := v.row, consts := v.ch.consts, tables := v.tables,
      rev := v.rev, free := v.free + 2048 * (v.row * v.len + e) + 4 * st.off }
    let s := runProg env 0 st.prog
      { t := List.replicate 8 Val.zero, p := [false, false, false], out := x.inp, outb := x.inb, hold := x.hold,
        masked := x.masked, nowr := x.nowr }
    { x with inp := s.out, inb := s.outb, hold := s.hold, masked := s.masked, nowr := s.nowr }) 0 els

/-- SHUF on one beat (R123, R124): the elements and whether a source was outside. `off` is the beat's first element. -/
def RowEnv.shufBeat (v : RowEnv) (st : VStage) (g off : Nat) (els : List El) : List (El × Bool) :=
  mapFrom (fun i (x : El) =>
    let j : Int :=
      if st.op == 0 then ((i ^^^ st.amount : Nat) : Int)
      else if st.op == 1 then (((i + st.amount) % g : Nat) : Int)
      else (v.idx (st.src - 1) (off + i)).getD 0
    match if j < 0 then none else els[j.toNat]? with
    | some y => ({ x with inp := y.inp, inb := y.inb }, false)
    | none => ({ x with inp := Val.zero, inb := Val.zero }, true)) 0 els

def RowEnv.shuf (v : RowEnv) (st : VStage) (els : List El) : List El × Bool :=
  let g := groupSize v.ch.lanes v.len
  let r := (mapFrom (fun b beat => v.shufBeat st g (b * v.ch.lanes) beat) 0 (v.beats els)).flatten
  (r.map Prod.fst, r.any Prod.snd)

/-- The op of a RED stage in FP32, and its identity (R125). -/
def redOp (op : Nat) (x y : Val) : Val :=
  match op with
  | 0 => addFp32 x y
  | 1 => x.maxV y
  | _ => x.minV y

def redIdent (op : Nat) : Val :=
  match op with
  | 0 => .fin true 0 0
  | 1 => .inf true
  | _ => .inf false

/-- One butterfly level: lanes 2j and 2j + 1 combined, lower lane first. -/
def pairUp (f : Val → Val → Val) : List Val → List Val
  | x :: y :: r => f x y :: pairUp f r
  | l => l

def butterfly (f : Val → Val → Val) : Nat → List Val → List Val
  | 0, l => l
  | n + 1, l => butterfly f n (pairUp f l)

/-- RED (R125): butterfly within a beat, then beats in order. -/
def RowEnv.red (v : RowEnv) (op : Nat) (els : List El) : Val :=
  let g := groupSize v.ch.lanes v.len
  let beat (b : List El) : Val :=
    let vals := b.map (fun x => if x.masked then redIdent op else x.inp)
    ((butterfly (redOp op) (Nat.log2 g) (vals ++ List.replicate (g - vals.length) (redIdent op))).head?).getD (redIdent op)
  match (v.beats els).map beat with
  | [] => redIdent op
  | x :: r => r.foldl (redOp op) x

/-- SCAN operations (R126) on (value, unused) or affine (A, B). -/
def scanCombine (op : Nat) (l r : Val × Val) : Val × Val :=
  match op with
  | 0 => (addFp32 l.1 r.1, r.2)
  | 1 => (l.1.maxV r.1, r.2)
  | 2 => (l.1.minV r.1, r.2)
  | 3 => (mulFp32 l.1 r.1, r.2)
  | _ => (mulFp32 r.1 l.1, fmaFp32 r.1 l.2 r.2)

def scanIdent (op : Nat) : Val × Val :=
  match op with
  | 0 => (.fin true 0 0, Val.zero)
  | 1 => (.inf true, Val.zero)
  | 2 => (.inf false, Val.zero)
  | 3 => (.fin false 1 0, Val.zero)
  | _ => (.fin false 1 0, .fin true 0 0)

/-- The exclusive output at a segment start. -/
def scanStart (op : Nat) : Val :=
  match op with
  | 1 => .inf true
  | 2 => .inf false
  | 3 => .fin false 1 0
  | _ => Val.zero

def scanOut (op : Nat) (x : Val × Val) : Val := if op == 4 then x.2 else x.1

/-- Apply an incoming carry (R126, R127). -/
def scanCarry (op : Nat) (c : Val) (x : Val × Val) : Val × Val :=
  if op == 4 then (x.1, fmaFp32 x.1 c x.2) else scanCombine op (c, Val.zero) x

/-- One level at distance d: every lane uses the level's inputs. -/
def scanLevel (op d : Nat) (l : List ((Val × Val) × Bool)) : List ((Val × Val) × Bool) :=
  l.take d ++ (List.zip l (l.drop d)).map (fun p =>
    if p.2.2 then p.2 else (scanCombine op p.1.1 p.2.1, p.1.2))

def scanLevels (op : Nat) : Nat → Nat → List ((Val × Val) × Bool) → List ((Val × Val) × Bool)
  | 0, _, l => l
  | n + 1, d, l => scanLevels op n (2 * d) (scanLevel op d l)

/-- SCAN of one beat (R127): outputs and the next carry. `start` are the segment starts. -/
def scanBeat (op g : Nat) (excl : Bool) (start : List Bool) (vals : List (Val × Val)) (carry : Val) : List Val × Val :=
  let l := scanLevels op (Nat.log2 g) 1 (List.zip vals start)
  let inc := l.map (fun p => scanOut op (if p.2 then p.1 else scanCarry op carry p.1))
  let ex := mapFrom (fun _ (p : Bool × Val) => if p.1 then scanStart op else p.2) 0 (List.zip start (carry :: inc))
  (if excl then ex else inc, (inc.getLast?).getD carry)

/-- SCAN of a row (R126–R128): outputs in FP32 and the final carry. -/
def RowEnv.scan (v : RowEnv) (si : Nat) (st : VStage) (els : List El) : List Val × Val :=
  let g := groupSize v.ch.lanes v.len
  let marked := mapFrom (fun e (x : El) =>
    let flag := st.seg && (match v.idx (st.src - 1) e with
      | none => true
      | some i => i != 0)
    (if x.masked then scanIdent st.op else (x.inp, x.inb), flag || (!st.cin && e == 0))) 0 els
  (v.beats marked).foldl (fun (acc : List Val × Val) beat =>
    let r := scanBeat st.op g st.excl (beat.map Prod.snd) (beat.map Prod.fst) acc.2
    (acc.1 ++ r.1, r.2)) ([], if st.cin then v.carry si else scanStart st.op)

/-- x comes before y in a GATE's order (R129): NaN first, then larger, then lower index. -/
def gateBefore (x y : Val × Nat) : Bool :=
  if x.1.isNan then (!y.1.isNan || decide (x.2 < y.2))
  else if y.1.isNan then false
  else if y.1.lt x.1 then true
  else if x.1.lt y.1 then false
  else decide (x.2 < y.2)

/-- GATE (R129). -/
def gate (k : Nat) (els : List El) : List El :=
  let live := 
    (mapFrom (fun e (x : El) => (x, e)) 0 els).filterMap (fun p => if p.1.masked then none else some (p.1.inp, p.2))
  mapFrom (fun e (x : El) =>
    let rank := (live.filter (fun y => gateBefore y (x.inp, e))).length
    { x with rank := if !x.masked && rank < k then .fin false rank 0 else .fin true 1 0 }) 0 els

/-- A row in progress. `status` is (row_empty, live) at the first barrier; `carries` the final carry by stage. -/
structure RowSt where
  els : List El
  red : List Val
  oor : Bool
  status : Option (Bool × Nat)
  carries : List (Nat × Word)
  barriers : Nat
deriving DecidableEq, Repr

/-- row_empty and live (R136). -/
def liveOf (els : List El) : Bool × Nat :=
  let n := (els.filter (fun x => !x.masked)).length
  (n == 0, min n 65535)

/-- The next phase starts from the held values (R116); a value in a failing word of the row buffer is NaN (R137). -/
def RowEnv.release (v : RowEnv) (b : Nat) (els : List El) : List El :=
  mapFrom (fun e (x : El) =>
    { x with inp := if v.bad b e then .nan else x.hold.getD x.inp, inb := Val.zero, hold := none }) 0 els

/-- One stage of a row. -/
def RowEnv.stage (v : RowEnv) (si : Nat) (st : VStage) (s : RowSt) : RowSt :=
  match st.kind with
  | 0 => { s with els := v.elem st s.red s.els }
  | 1 => { s with els := (v.shuf st s.els).1, oor := s.oor || (v.shuf st s.els).2 }
  | 3 =>
    let r := v.scan si st s.els
    { s with els := (List.zip s.els r.1).map (fun p => { p.1 with inp := roundTo v.ch.lane p.2, inb := Val.zero }),
             carries := if st.cout then s.carries ++ [(si, BitVec.ofNat 32 (toFp32 r.2))] else s.carries }
  | k =>
    let status := match s.status with
      | some x => some x
      | none => some (liveOf s.els)
    let s := if k == 2 then { s with red := s.red ++ [v.red st.op s.els] } else { s with els := gate st.amount s.els }
    { s with els := v.release s.barriers s.els, status := status, barriers := s.barriers + 1 }

def RowEnv.stages (v : RowEnv) : Nat → List VStage → RowSt → RowSt
  | _, [], s => s
  | n, st :: r, s => v.stages (n + 1) r (v.stage n st s)

/-- A whole row (R116). -/
def RowEnv.run (v : RowEnv) : RowSt :=
  let s := v.stages 0 v.ch.stages
    { els := List.replicate v.len El.init, red := [], oor := false, status := none, carries := [], barriers := 0 }
  { s with status := some (s.status.getD (liveOf s.els)) }

end Sys2Proof.Machine
end

