-- ==== Sys2Proof/Machine/Ve.lean ====
section
/-! DEFINITION. The vector engine (04): chain descriptors, validation, chains, table loads and swaps. -/

namespace Sys2Proof.Machine

/-! ## Causes (R142) and skipping (R143) -/

def veBadFmt : Nat := 0
def veBadRnd : Nat := 1
def veBadCmd : Nat := 2
def veBadChain : Nat := 3
def veBadShape : Nat := 4
def veDescFault : Nat := 5
def veTblActive : Nat := 6

/-- VE opcodes (R111). -/
def veOps : List Nat := [0x60, 0x70, 0x71]

/-- A failed check of R132: check number, cause, stage and instruction at fault. -/
structure VBad where
  check : Nat
  cause : Nat
  stage : Nat
  instr : Nat
deriving DecidableEq, Repr

/-- Skip the head of the VE queue, recording VE_ERR_INFO when VE_CAUSE [6:0] is 0 (R132, R143). Clearing those bits leaves
the record as it was until then. DESIGN CHOICE, assumption 78. -/
def State.veSkip (s : State) (k : Nat) (q : QEntry) (b : VBad) : State :=
  let s := if (s.core k).ve.cause.toNat % 128 == 0 then
      s.modVe k (fun v => { v with errInfo := reg64 [(b.check, 0), (b.stage, 4), (b.instr, 8), (q.tag.toNat, 16)] })
    else s
  s.skipHead k .ve q b.cause

/-- Check 15 of R132. -/
def vBadCmd : VBad := { check := 15, cause := veBadCmd, stage := 0, instr := 0 }

/-- Skip and log every unknown opcode at the head of the VE queue (R111). DEDUCED, assumption 5. -/
def State.veSkipUnknown (s : State) (k : Nat) : Nat → State
  | 0 => s
  | n + 1 =>
    match (s.core k).ve.queue.head? with
    | some q => if veOps.contains q.op then s else (s.veSkip k q vBadCmd).veSkipUnknown k n
    | none => s

/-- The bits a VE command may set (R111). -/
def veMaskOf (op : Nat) : Nat :=
  2 ^ 24 - 1 + (match op with
    | 0x60 => (2 ^ 16 - 1) * 2 ^ 24
    | 0x70 => (2 ^ 30 - 1) * 2 ^ 24
    | _ => 7 * 2 ^ 24)

/-- Run a command of the VE in issue order (R112). DEDUCED, assumption 4; DEDUCED, assumption 5. -/
def State.veRun (s : State) (l : SiteNo) (c : CoreNo) (op : Nat) (f : Nat → QEntry → State → State) : State :=
  match s.key l c with
  | none => s
  | some k =>
    let s := s.veSkipUnknown k (s.core k).ve.queue.length
    match (s.core k).ve.queue.head? with
    | some q =>
      if q.op ≠ op then s else f k q s
    | none => s

/-! ## The chain descriptor (R113, R114) -/

def Cc.nat (c : Cc) (a n : Nat) : Nat := c.dmem.nat a n

/-- Stage n of the descriptor at `d`. -/
def decodeStage (c : Cc) (d n : Nat) : VStage :=
  let w := c.nat (d + 64 + 8 * n) 8
  let off := fld w 8 8
  let len := fld w 16 5 + 1
  { kind := fld w 0 4, op := fld w 4 4, off := off, len := len, src := fld w 21 2, excl := bitAt w 23, seg := bitAt w 24,
    cin := bitAt w 25, cout := bitAt w 26, caddr := fld w 27 16, amount := fld w 43 11, raw := w,
    prog := if fld w 0 4 == 0 then (List.range len).map (fun i => decodeEInstr (c.nat (d + 128 + 4 * (off + i)) 4)) else [] }

def decodeChain (c : Cc) (d : Nat) : Chain :=
  let b (o n : Nat) := c.nat (d + o) n
  let m := b 1 1
  { n := b 0 1, lane16 := bitAt m 0, laneFp16 := bitAt m 1, rowst := bitAt m 2, accEn := bitAt m 3, accLayout := bitAt m 4,
    wRnd := fld m 5 3, accT := b 2 1 % 16, accCnt := b 2 1 / 16 + 1, wK := sfld (b 3 1) 0 8, w := b 4 2,
    ports := [b 6 2, b 8 2, b 10 2], ks := [sfld (b 12 1) 0 8, sfld (b 13 1) 0 8, sfld (b 14 1) 0 8], hqIn := b 15 1,
    hqOut := b 16 1, tag := b 18 2 % 4096, seq := b 20 2, indexBase := b 22 6, rowstAddr := b 28 2,
    consts := (List.range 8).map (fun i => BitVec.ofNat 32 (b (32 + 4 * i) 4)),
    stages := (List.range (min 8 (b 0 1))).map (decodeStage c d),
    reserved := fld (b 15 1) 5 2 != 0 || fld (b 16 1) 5 2 != 0 || b 17 1 != 0 || b 18 2 ≥ 4096 || b 30 2 != 0 }

/-- The DMEM bytes a chain command reads are poisoned (08 R230): header, stage words, named instructions. -/
def chainPoisoned (c : Cc) (d : Nat) (ch : Chain) : Bool :=
  poisoned c.dmemPoison d (64 + 8 * ch.stages.length)
    || ch.stages.any (fun st => st.kind == 0 && poisoned c.dmemPoison (d + 128 + 4 * st.off) (4 * st.len))

/-! ## Validation (R132) -/

/-- The first stage that a test refuses. -/
def firstStage (check cause : Nat) (bad : Nat → VStage → Bool) (sts : List VStage) : Option VBad :=
  ((mapFrom (fun i st => (i, bad i st)) 0 sts).find? Prod.snd).map (fun p =>
    { check := check, cause := cause, stage := p.1, instr := 0 })

/-- The bits of a stage word that its kind uses (R114); of a GATE's amount, k in [46:43]. DESIGN CHOICE, assumption 78. -/
def stageMask (st : VStage) : Nat :=
  let f (lo len : Nat) : Nat := (2 ^ len - 1) * 2 ^ lo
  f 0 4 + (match st.kind with
    | 0 => f 8 13
    | 1 => f 4 4 + (if st.op == 2 then f 21 2 else f 43 11)
    | 2 => f 4 4
    | 3 => f 4 4 + f 23 20 + (if st.seg then f 21 2 else 0)
    | _ => f 43 4)

/-- The largest op of a kind. -/
def maxOp (kind : Nat) : Nat :=
  match kind with
  | 1 => 2
  | 2 => 2
  | 3 => 4
  | _ => 0

/-- Check 3. -/
def stageForm (i : Nat) (st : VStage) : Bool :=
  (i == 0 && st.kind != 0) || decide (st.kind > 4) || decide (st.op > maxOp st.kind) || reservedBits st.raw (stageMask st)

/-- The source codes an instruction uses (R117, R121). -/
def EInstr.srcs (i : EInstr) : List Nat :=
  match i.op with
  | 0x00 => []
  | 0x12 => []
  | 0x13 => []
  | 0x05 => [i.a, i.b, i.c]
  | 0x02 => [i.a, i.b]
  | 0x03 => [i.a, i.b]
  | 0x04 => [i.a, i.b]
  | 0x06 => [i.a, i.b]
  | 0x07 => [i.a, i.b]
  | 0x0B => [i.a, i.b]
  | 0x10 => if i.mod % 8 == 7 then [i.a] else [i.a, i.b]
  | 0x11 => [i.a, i.b]
  | _ => [i.a]

/-- The mod bits an op may set (R121). -/
def EInstr.modMask (i : EInstr) : Nat :=
  if i.op == 0x0E then 15 else if i.op == 0x0F || i.op == 0x10 || i.op == 0x11 then 7
  else if 1 ≤ i.op ∧ i.op ≤ 0x0D then 3 else 0

/-- A reserved field of an instruction, or a misused predicate destination (check 5). DEDUCED, assumption 35. -/
def EInstr.bad (i : EInstr) : Bool :=
  decide (i.op > 0x13) || i.pred == 4 || i.srcs.any (fun c => decide (21 ≤ c ∧ c ≤ 23)) || reservedBits i.mod i.modMask
    || (i.op == 0x11 && i.mod % 4 == 0)
    || (decide (1 ≤ i.op ∧ i.op ≤ 0x11) && (decide (i.dst ≥ 14) || (i.op == 0x10) != decide (11 ≤ i.dst ∧ i.dst ≤ 13)))

/-- Check 5 on one stage. The instruction at fault is the first past the end of DMEM; an index above 255 has no place in
VE_ERR_INFO, and 0 stands for it. DESIGN CHOICE, assumption 78. -/
def progCheck (d i : Nat) (st : VStage) : Option VBad :=
  let at_ (j : Nat) : VBad := { check := 5, cause := veBadChain, stage := i, instr := j }
  if st.kind ≠ 0 then none
  else if st.off + st.len > 256 then some (at_ 0)
  else if d + 128 + 4 * (st.off + st.len) > 65536 then some (at_ (max st.off ((65536 - (d + 128)) / 4)))
  else ((mapFrom (fun j (e : EInstr) => (st.off + j, e.bad)) 0 st.prog).find? Prod.snd).map (fun p => at_ p.1)

/-- What check 6 keeps: phase, RED and GATE stages so far, the phase of each port's first use. -/
structure Avail where
  phase : Nat
  reds : Nat
  gates : Nat
  use : List (Nat × Nat)
  bad : Option VBad
deriving DecidableEq, Repr

/-- A port (0–2 read ports, 3 ACC) is used in the present phase. -/
def Avail.port (a : Avail) (ch : Chain) (p stage instr : Nat) : Avail :=
  let unbound := if p == 3 then !ch.accEn else (ch.ports[p]?).getD 0xFFFF == 0xFFFF
  let clash := a.use.any (fun u => u.1 == p && u.2 != a.phase)
  if a.bad.isSome then a
  else if unbound || clash then { a with bad := some { check := 6, cause := veBadChain, stage := stage, instr := instr } }
  else { a with use := if a.use.any (fun u => u.1 == p) then a.use else a.use ++ [(p, a.phase)] }

/-- A source code is used (R118). -/
def Avail.code (a : Avail) (ch : Chain) (c stage instr : Nat) : Avail :=
  if a.bad.isSome then a
  else if (c == 14 && a.reds < 1) || (c == 15 && a.reds < 2) || (c == 16 && a.gates < 1) then
    { a with bad := some { check := 6, cause := veBadChain, stage := stage, instr := instr } }
  else if 8 ≤ c ∧ c ≤ 11 then a.port ch (c - 8) stage instr
  else a

def Avail.instrs (ch : Chain) (stage : Nat) : Nat → List EInstr → Avail → Avail
  | _, [], a => a
  | j, e :: r, a => Avail.instrs ch stage (j + 1) r (e.srcs.foldl (fun a c => a.code ch c stage j) a)

/-- Check 6 over the stages. -/
def Avail.stages (ch : Chain) : Nat → List VStage → Avail → Avail
  | _, [], a => a
  | i, st :: r, a =>
    let a := Avail.instrs ch i st.off st.prog a
    let a := if (st.kind == 1 && st.op == 2 || st.kind == 3 && st.seg) && st.src != 0 then a.port ch (st.src - 1) i 0 else a
    let a := if st.barrier then { a with phase := a.phase + 1, reds := a.reds + bit (st.kind == 2),
                                         gates := a.gates + bit (st.kind == 4) } else a
    Avail.stages ch (i + 1) r a

def Chain.avail (ch : Chain) : Avail :=
  Avail.stages ch 0 ch.stages { phase := 0, reds := 0, gates := 0, use := [], bad := none }

/-- The ports a chain uses: 0–2 read ports, 3 ACC. -/
def Chain.uses (ch : Chain) : List Nat := ch.avail.use.map Prod.fst

/-- Check 7; `g` is none without a valid write descriptor. -/
def amountBad (g : Option Nat) (st : VStage) : Bool :=
  let under (x : Nat) : Bool := match g with
    | some g => decide (x < g)
    | none => true
  (st.kind == 1 && st.op == 0 && !(decide (0 < st.amount) && 2 ^ Nat.log2 st.amount == st.amount && under st.amount))
    || (st.kind == 1 && st.op == 1 && !under st.amount) || (st.kind == 1 && st.op == 2 && st.src == 0)
    || (st.kind == 4 && !decide (1 ≤ st.amount ∧ st.amount ≤ 8)) || (st.kind == 3 && st.seg && st.src == 0)

/-- Check 8 on a buffer of one word per row. -/
def bufBad (rows addr : Nat) : Bool := decide (64 * addr + 4 * rows > 4 * mib)

def prodFrom (l : List Nat) : Nat := l.foldl (· * ·) 1

/-- Sizes as a descriptor and its index tensor give them (06 R170). -/
def Se.sizesOf (e : Se) (t : Desc) : List Nat :=
  (List.range 6).map (fun d =>
    if t.indexed && d == t.idxDim then ((e.desc t.aux.toNat).map (fun a => a.n 0)).getD (t.n d) else t.n d)

/-- A descriptor of a direction. -/
def Se.descDir (e : Se) (i : Nat) (write : Bool) : Option Desc :=
  if i ≥ 512 then none else (e.desc i).filter (fun t => t.dir == write)

/-- Read formats of R106. -/
def readFmtOk (ch : Chain) (f : BitVec 4) : Bool :=
  if ch.lane16 then f == (if ch.laneFp16 then fmtFp16 else fmtBf16) || f == fmtF8f || f == fmtF8b || f == fmtU16
  else !fmtReserved f && f != fmtF4b

/-- A failed check without a stage. -/
def vbad (check cause : Nat) : VBad := { check := check, cause := cause, stage := 0, instr := 0 }

/-- A check that fails on a condition. -/
def failIf (b : Bool) (v : VBad) : Option VBad := if b then some v else none

/-- Check 4: the first stage at fault, which is a third barrier, a second GATE, or a barrier in the last place. -/
def Chain.badBarrier (ch : Chain) : Option Nat :=
  (List.range ch.stages.length).find? (fun i =>
    let upTo := ch.stages.take (i + 1)
    (ch.stages[i]?.map VStage.barrier).getD false &&
      (decide ((upTo.filter VStage.barrier).length > 2) || decide ((upTo.filter (fun st => st.kind == 4)).length > 1)
        || i + 1 == ch.stages.length))

/-- The read descriptors that a chain names, by direction only. -/
def Core.readDescs (c : Core) (ch : Chain) : List (Option Desc) :=
  (ch.ports.filter (· != 0xFFFF)).map (fun p => c.se.descDir p false)

/-- Check 12: shapes (R103, R107, R116). acc_tiles counts only where acc_en = 1. DESIGN CHOICE, assumption 78. -/
def Core.shapeBad (c : Core) (ch : Chain) (ws : List Nat) : Bool :=
  let len := nth ws 0 0
  let rows := prodFrom (ws.drop 1)
  (c.readDescs ch).any (fun t => (t.map (fun t => c.se.sizesOf t != ws)).getD true)
    || len == 0 || decide (len > 2 ^ 24) || rows == 0 || decide (rows > 2 ^ 24)
    || (ch.stages.any VStage.barrier && decide (len > 65536))
    || (ch.accEn && (decide (ch.accT + ch.accCnt > 16)
      || (if ch.accLayout then decide (rows > 128) || decide (len > 128 * ch.accCnt)
          else decide (rows > 128 * ch.accCnt) || decide (len > 128))))

/-- Checks 2 to 12, in order (R132). -/
def Core.chainChecks (c : Core) (d : Nat) (ch : Chain) : List (Option VBad) :=
  let wd := c.se.descDir ch.w true
  let ws := (wd.map (c.se.sizesOf ·)).getD []
  let rows := if wd.isSome then prodFrom (ws.drop 1) else 0
  [failIf (ch.n == 0 || decide (ch.n > 8) || ch.reserved) (vbad 2 veBadChain),
   firstStage 3 veBadChain stageForm ch.stages,
   ch.badBarrier.map (fun i => { check := 4, cause := veBadChain, stage := i, instr := 0 }),
   (mapFrom (fun i st => progCheck d i st) 0 ch.stages).findSome? id,
   ch.avail.bad,
   firstStage 7 veBadChain (fun _ st => amountBad (wd.map (fun _ => groupSize ch.lanes (nth ws 0 0))) st) ch.stages,
   failIf (ch.stages.any (fun st => st.kind == 3 && (st.cin || st.cout) && bufBad rows st.caddr)
     || (ch.rowst && bufBad rows ch.rowstAddr)) (vbad 8 veBadChain),
   failIf (wd.isNone || (c.readDescs ch).any Option.isNone) (vbad 9 veDescFault),
   failIf ((wd.map (fun t => fmtReserved t.fmt || (ch.lane16 && t.fmt == fmtF4b))).getD true
     || (c.readDescs ch).any (fun t => (t.map (fun t => !readFmtOk ch t.fmt)).getD true)) (vbad 10 veBadFmt),
   failIf (rndReserved (BitVec.ofNat 3 ch.wRnd)) (vbad 11 veBadRnd),
   failIf (c.shapeBad ch ws) (vbad 12 veBadShape)]

/-- The first of checks 2 to 12 that fails. -/
def Core.chainCheck (c : Core) (d : Nat) (ch : Chain) : Option VBad := (c.chainChecks d ch).findSome? id

/-- Check 13: resolve a descriptor that must lie in the core's own scratchpad (06 R180). -/
def State.veResolve (s : State) (k : Nat) (write : Bool) (i : Nat) : Option RDesc :=
  let who := s.whoIs k
  let own (t : Desc) : Bool := s.regionOf t.allocBase t.allocSize == some (.sp who.1 who.2)
  (resolve (s.core k).se.desc { write := write, scatter := false, scale := false } i).filter (fun r =>
    own r.d && (r.aux.map own).getD true)

/-! ## A chain -/

/-- The logical index of element e of row r (R103). -/
def elemIndex (sizes : List Nat) (r e : Nat) : List Int :=
  ((List.range 6).foldl (fun (acc : List Int × Nat) d =>
    if d == 0 then ([(e : Int)], r)
    else (acc.1 ++ [((acc.2 % nth sizes d 1 : Nat) : Int)], acc.2 / nth sizes d 1)) ([], r)).1

/-- A read port of a chain: descriptor, address offset of its buffer, G16 scale. -/
structure VPort where
  r : RDesc
  rel : Nat
  k : Int
deriving DecidableEq, Repr

/-- The nibble address that a read fetches; none for a synthesised pad (06 R175, R176, R181). -/
def State.fetchAddr (s : State) (p : Mover) (r : RDesc) (rel : Nat) (i : List Int) : Option Nat :=
  let t := r.d
  let i := match r.aux with
    | some a =>
      if t.isGather then
        (List.range 6).map (fun d => if d == t.idxDim then
          clampInt (s.plainElem p a 0 [nth i t.idxDim 0]).1.index 0 ((t.n d : Int) - 1) else nth i d 0)
      else i
    | none => i
  let j := (List.range 6).map (fun d => clampInt (nth i d 0) 0 ((t.n d : Int) - 1) - t.lo d)
  if t.padMode && (List.range 6).any (fun d => decide (nth j d 0 < 0) || decide (nth j d 0 ≥ t.v d)) then none
  else some (t.nibAddr rel ((List.range 6).map (fun d => clampInt (nth j d 0) 0 (t.v d - 1))))

/-- Bytes of W that a read port with another mapping covers: its elements there are undefined after the pass (R109).
Elements count by where they start, so that a pass over equal addresses is in place whatever the two element sizes. The
bytes of index tensors are left out. DESIGN CHOICE, assumption 78. -/
def State.clashBytes (s : State) (p : Mover) (w : RDesc) (wrel : Nat) (ports : List VPort) (idx : List (List Int)) : List Nat :=
  ports.flatMap (fun v =>
    let reads := idx.map (fun i => s.fetchAddr p v.r v.rel i)
    if reads == idx.map (fun i => some (w.d.nibAddr wrel (w.d.stored i))) then []
    else reads.flatMap (fun o => match o with
      | some na => (List.range ((na + v.r.d.nib + 1) / 2 - na / 2)).map (· + na / 2)
      | none => []))

/-- An element of W that a clashing read covers takes free bytes, and its numeric status is theirs (R109). -/
def WOut.open_ (o : WOut) (w : Desc) (n : Nat) (clash : List Nat) : WOut :=
  if !o.ws.any (fun x => clash.contains x.a) then o
  else
    let ws := o.ws.map (fun x => { x with b := Config.freeByte n x.a })
    let code := leNat (ws.map Wr.b)
    if w.f4bElem then { o with ws := ws, nan := ws.all (fun x => x.mask == 0xFF) && code == 255, sat := false }
    else { o with ws := ws, nan := codeNan w.fmt code, inf := codeInf w.fmt code, sat := false }

/-- The address of a scratchpad offset of the core, logical view. -/
def State.spAddr (s : State) (k o : Nat) : Nat :=
  let who := s.whoIs k
  coreBase + who.1 * 2 ^ 28 + who.2 * 2 ^ 23 + o

/-- The four bytes of a word at a scratchpad offset. -/
def State.spWord (s : State) (k o : Nat) (w : Nat) : List Wr := bytesAt (s.spAddr k o) (leBytes 4 w)

/-- The bank of a table that a chain starting now reads. -/
def Ve.active (v : Ve) (t : Nat) : Nat := bit (bitAt v.bank.toNat t)

/-- Tables that a chain evaluates. -/
def Chain.tables (ch : Chain) : List Nat :=
  (ch.stages.flatMap (fun st => st.prog.filterMap (fun i =>
    if i.op == 0x0E then some (i.mod / 4) else if i.op == 0x0F then some (4 + i.mod / 4 % 2) else none))).eraseDups

/-- The result of a pass: what W, the carry words and the row status words amount to. -/
structure PassOut where
  ws : List Wr
  nan : Bool
  inf : Bool
  sat : Bool
  oor : Bool
  empty : Bool
  acc : Acc
  ev : List MemEv
deriving DecidableEq, Repr

/-- Row-buffer words that fail: row r, barrier b, element e (R137). -/
def rowBad (ecc : List EccHit) (lane16 : Bool) (r b e : Nat) : Bool :=
  ecc.any (fun h => h.ue && decide (h.at_ = .vrow) && h.word == (b * 2 ^ 24 + r) * 2 ^ 15 + e / (if lane16 then 4 else 2))

/-- An accumulator value as the ACC port reads it: a tile whose halted bit is set reads as undefined values (R107). -/
def Core.accPort (c : Core) (free t e : Nat) : Word := if bitAt c.me.haltedT.toNat t then Config.freeWord 32 free else c.accVal t e

/-- Everything a pass is given: the chain, its resolved descriptors and buffers, free values, and the bytes of W that
clash. -/
structure Pass where
  ecc : List EccHit
  ch : Chain
  w : RDesc
  wrel : Nat
  ports : List (Option VPort)
  free : Nat
  clash : List Nat
deriving DecidableEq, Repr

/-- Run one row and write it (R108, R128, R136). Carry words written to the scratchpad count in CC_NUM_STAT (02 R66). -/
def State.veRow (s : State) (k : Nat) (v : Pass) (r : Nat) (acc : PassOut) : PassOut :=
  let c := s.core k
  let mv := s.mover k
  let ch := v.ch
  let sizes := v.w.sizes
  let len := nth sizes 0 1
  let es : List (List (Elem × Acc)) := v.ports.map (fun o => match o with
    | some p => (List.range len).map (fun e => s.elem mv p.r p.rel (elemIndex sizes r e))
    | none => [])
  let el (p e : Nat) : Elem := (((nth es p [])[e]?).map Prod.fst).getD { fmt := 0, code := 0, scale := 0, poison := false, na := none }
  let kOf (p : Nat) : Int := nth ch.ks p 0
  let tile (e t i : Nat) : Val := roundTo ch.lane (ofFp32 (c.accPort (v.free + 2048 * (r * len + e) + 2040) t i).toNat)
  let env : RowEnv := {
    ch := ch, row := r, len := len,
    port := fun p e => roundTo ch.lane ((el p e).val (kOf p)),
    idx := fun p e => match (el p e).val (kOf p) with
      | .nan => none
      | .inf n => some (if n then -(2 ^ 40 : Nat) else (2 ^ 40 : Nat))
      | v => some v.trunc,
    acc := fun e => if !ch.uses.contains 3 then Val.zero
      else if ch.accLayout then tile e (ch.accT + e / 128) (128 * r + e % 128)
      else tile e (ch.accT + r / 128) (128 * (r % 128) + e),
    carry := fun si => match ch.stages[si]? with
      | some st => let o := 64 * st.caddr + 4 * r
        if poisoned c.spPoison o 4 then .nan else ofFp32 (c.sp.nat o 4)
      | none => Val.zero,
    bad := fun b e => rowBad v.ecc ch.lane16 r b e,
    tables := (List.range 6).map (fun t => sget (fun _ => VTable.init) c.ve.tables (2 * t + c.ve.active t)),
    rev := s.part.rev.toNat, free := v.free }
  let st := env.run
  let wes : List WElem := (mapFrom (fun e (x : El) =>
    if x.nowr then [] else [({ i := elemIndex sizes r e, src := .val x.inp } : WElem)]) 0 st.els).flatten
  let cv : Cvt := { mode := BitVec.ofNat 3 ch.wRnd, key := s.srKey k ch.tag ch.seq, indexBase := ch.indexBase, g16k := ch.wK }
  let (os, wa) := writeElems v.w v.wrel cv wes
  let iss := s.issueElems mv (os.map (fun o => o.open_ v.w.d v.free v.clash))
  let status := st.status.getD (false, 0)
  let sw : Nat := pack [(bit status.1, 0), (bit iss.nan, 1), (bit iss.inf, 2), (bit iss.sat, 3), (bit st.oor, 4), (status.2, 16)]
  let extra := (if ch.rowst then s.spWord k (64 * ch.rowstAddr + 4 * r) sw else [])
    ++ st.carries.flatMap (fun x => match ch.stages[x.1]? with
      | some sg => s.spWord k (64 * sg.caddr + 4 * r) x.2.toNat
      | none => [])
  let (xw, xe) := s.issueWrites mv.req mv.own extra
  let rd := (es.flatten.map Prod.snd).foldl Acc.join Acc.init
  { ws := acc.ws ++ iss.ws ++ xw, nan := acc.nan || iss.nan || anyNan st.carries, inf := acc.inf || iss.inf || anyInf st.carries,
    sat := acc.sat || iss.sat, oor := acc.oor || st.oor, empty := acc.empty || status.1, acc := (acc.acc.join rd).join wa,
    ev := acc.ev ++ rd.ev ++ iss.ev ++ xe }

def State.veRows (s : State) (k : Nat) (v : Pass) : Nat → Nat → PassOut → PassOut
  | 0, _, acc => acc
  | n + 1, r, acc => s.veRows k v n (r + 1) (s.veRow k v r acc)

/-- The bank selectors at the issue position of the command that starts now: those of the lanes, with the swaps in
between (R131). DEDUCED, assumption 35. -/
def Ve.posBank (v : Ve) : BitVec 6 := v.swaps.foldl (fun b x => b ^^^ BitVec.ofNat 6 (2 ^ x.2.toNat)) v.bank

/-- The pass itself, once the chain may start (R110, R115). A handle's buffer moves the descriptor of the port; the scale
tensor of an F4b W and the index tensor of a gather stay where they are. DESIGN CHOICE, assumption 78. -/
def State.veStart (s : State) (k : Nat) (q : QEntry) (ecc : List EccHit) (ch : Chain) (w : RDesc)
    (rs : List (Option RDesc)) (hin : Option (Nat × Nat)) (hout : Option Nat) : State :=
  let move (qn n : Nat) : Nat := ((s.hq k qn).cfg.map (fun c => n * (c.bufSize * 512))).getD 0
  let wrel := (hout.map (fun qn => move qn (s.hq k qn).pAcq)).getD 0
  let ports : List (Option VPort) := mapFrom (fun p (o : Option RDesc) =>
    if ch.uses.contains p then o.map (fun r =>
      { r := r, rel := if p == 0 then (hin.map (fun h => move h.1 h.2)).getD 0 else 0, k := nth ch.ks p 0 }) else none) 0 rs
  let s := match hout with
    | some qn => (s.modHq k qn Hq.acquire).endWait k 0x21
    | none => s
  let s := s.eccHits k ecc
  let len := nth w.sizes 0 1
  let rows := prodFrom (w.sizes.drop 1)
  let (free, s) := s.fresh (2048 * (rows * len) + 1)
  let idx := (List.range rows).flatMap (fun r => (List.range len).map (fun e => elemIndex w.sizes r e))
  let pass : Pass := { ecc := ecc, ch := ch, w := w, wrel := wrel, ports := ports, free := free,
                       clash := s.clashBytes (s.mover k) w wrel (ports.filterMap id) idx }
  let out := s.veRows k pass rows 0
    { ws := [], nan := false, inf := false, sat := false, oor := false, empty := false, acc := Acc.init, ev := [] }
  let s := ((s.tdStat k out.acc).meet out.ev).take k .ve
  s.modVe k (fun v => { v with
    popped := none, bankStat := v.posBank,
    chain := some { q := q, writes := out.ws, nan := out.nan, inf := out.inf, sat := out.sat, permOor := out.oor,
                    rowEmpty := out.empty, tiles := if ch.accEn then (List.range ch.accCnt).map (· + ch.accT) else [],
                    banks := ch.tables.map (fun t => 2 * t + v.active t), hqIn := hin.map (fun h => BitVec.ofNat 5 h.1),
                    hqOut := hout.map (BitVec.ofNat 5 ·) } })

/-- The pop of hq_in, which comes first (R110): the queue and handle taken or already held, none when it has to wait. -/
def State.vePopIn (s : State) (k : Nat) (hin : Option Nat) : Option (Option (Nat × Nat) × State) :=
  match hin, (s.core k).ve.popped with
  | none, _ => some (none, s)
  | some h, some n => some (some (h, n), s)
  | some h, none =>
    if (s.hq k h).canPop then some (some (h, (s.hqPop k h).1), ((s.hqPop k h).2).endWait k 0x20) else none

/-- An earlier-issued command holds up the chain at the head of the queue: the chain before it (R112), a swap not yet in
effect, or a load that a swap of its table follows (R131). -/
def Ve.chainHeld (v : Ve) : Bool := v.chain.isSome || !v.swaps.isEmpty || v.tloads.any TloadJob.swapped

/-- Errors of DMEM words. -/
def dmemHits (ecc : List EccHit) : List EccHit := ecc.filter (fun h => decide (h.at_ = .dmem))

/-- A chain that has passed its checks: it takes its handles and starts, or waits for a tile or a queue (R107, R110). -/
def State.veGo (s : State) (ecc : List EccHit) (k : Nat) (q : QEntry) (ch : Chain) (w : RDesc) (rs : List (Option RDesc)) : State :=
  let hin := if bitAt ch.hqIn 7 then some (ch.hqIn % 32) else none
  let hout := if bitAt ch.hqOut 7 then some (ch.hqOut % 32) else none
  let notIn := (hin.map (fun h => !(s.hq k h).consIs 0x20)).getD false
  if notIn || (hout.map (fun h => !(s.hq k h).prodIs 0x21)).getD false then
    s.skipOwner k .ve q ((if notIn then hin else hout).getD 0)
  else if ch.accEn && (List.range ch.accCnt).any (fun i => (s.core k).tileWritten (ch.accT + i) q.order) then s
  else
    match s.vePopIn k hin, hin with
    | none, some h => s.localWait k 0x20 h false
    | none, none => s
    | some (hp, s), _ =>
      match hout with
      | some h =>
        if (s.hq k h).canAcquire then s.veStart k q ecc ch w rs hp (some h)
        else (s.modVe k (fun v => { v with popped := hp.map Prod.snd })).localWait k 0x21 h true
      | none => s.veStart k q ecc ch w rs hp none

/-- VE.CHAIN at the head of the queue (R107, R110, R112, R131), its checks in the order of R132. A command skipped for a
poisoned DMEM word (08 R230) or for a queue of another endpoint (07 R207) has no check number and leaves VE_ERR_INFO. DEDUCED, assumption 6; DESIGN CHOICE, assumption 78. -/
def State.veChain (ecc : List EccHit) (k : Nat) (q : QEntry) (s : State) : State :=
  let d := fld q.w 24 16
  if (s.core k).ve.chainHeld || s.veCap == 0 then s
  else if d % 64 ≠ 0 ∨ d + 128 > 65536 then s.veSkip k q { check := 1, cause := veBadCmd, stage := 0, instr := 0 }
  else
    let s := s.eccHits k (dmemHits ecc)
    let c := s.core k
    let ch := decodeChain c.cc d
    if chainPoisoned c.cc d ch then s.skipDmem k .ve q
    else match c.chainCheck d ch with
    | some b => s.veSkip k q b
    | none =>
      let rs := ch.ports.map (fun p => if p == 0xFFFF then none else s.veResolve k false p)
      let lost := (List.zip ch.ports rs).any (fun x => x.1 != 0xFFFF && x.2.isNone)
      match s.veResolve k true ch.w with
      | none => s.veSkip k q { check := 13, cause := veDescFault, stage := 0, instr := 0 }
      | some w =>
        if lost then s.veSkip k q { check := 13, cause := veDescFault, stage := 0, instr := 0 }
        else if reservedBits q.w (veMaskOf 0x60) then s.veSkip k q vBadCmd
        else s.veGo (ecc.filter (fun h => !decide (h.at_ = .dmem))) k q ch w rs

def execVeChain (l : SiteNo) (c : CoreNo) (ecc : List EccHit) (s : State) : Res :=
  .next (s.veRun l c 0x60 (State.veChain ecc))

/-- A VE.TSWAP of a table is issued and not yet in effect: queued, or waiting for a pass boundary (R141). -/
def Ve.swapPending (v : Ve) (t : Nat) : Bool :=
  v.swaps.any (fun x => x.2.toNat == t) || v.queue.any (fun q => q.op == 0x71 && fld q.w 24 3 == t)

/-- VE_CHAIN_COMPLETE: the last element, carry word and row status word are written (R108, R112, R124, R128, R136);
the handles move on (R110, R210). DEDUCED, assumption 6. -/
def State.chainDone (s : State) (k : Nat) : State :=
  match (s.core k).ve.chain with
  | none => s
  | some j =>
    let s := (s.landStream (.ve k) j.writes).numStat k j.q.tag j.q.order j.nan j.inf j.sat
    let s := s.modVe k (fun v => { v with
      chain := none, permOor := v.permOor || j.permOor, rowEmptySeen := v.rowEmptySeen || j.rowEmpty })
    let s := match j.hqIn with
      | some h => s.hqRelease k h.toNat
      | none => s
    let s := match j.hqOut with
      | some h => s.modHq k h.toNat (fun x => x.push s.tick)
      | none => s
    s.finish k .ve j.q

def execVeChainComplete (l : SiteNo) (c : CoreNo) (s : State) : Res :=
  match s.key l c with
  | some k => .next (if s.veCap == 0 then s else s.chainDone k)
  | none => .next s

/-! ## Tables (R130, R131) -/

/-- The number of words of a table image after its header, and the header size. -/
def imageWords (table n : Nat) : Nat × Nat := if table < 4 then (4 * n, 16) else (n, 0)

/-- A value of a table image: a poisoned word is canonical NaN, and bytes past the scratchpad are undefined (07 R190). DEDUCED, assumption 35. -/
def Core.imageWord (c : Core) (free o : Nat) : Word :=
  if o + 4 > 4 * mib then Config.freeWord 32 (free + o)
  else if poisoned c.spPoison o 4 then 0x7FC00000
  else BitVec.ofNat 32 (c.sp.nat o 4)

/-- Read a table image (R130): an S table keeps c0, c1, c2 of each entry. -/
def Core.image (c : Core) (free table a n : Nat) : VTable :=
  if table < 4 then
    { n := n, scale := c.imageWord free a, off := c.imageWord free (a + 4),
      words := (List.range n).foldl (fun t i => (List.range 3).foldl (fun t j =>
        t.set (3 * i + j) (c.imageWord free (a + 16 + 16 * i + 4 * j))) t) Tile.zero }
  else
    { n := n, scale := 0, off := 0,
      words := (List.range n).foldl (fun t i => t.set i (c.imageWord free (a + 4 * i))) Tile.zero }

/-- VE.TLOAD starts: bank check, then the wait for the readers of its bank and for chains that still write its image. -/
def State.veTload (ecc : List EccHit) (k : Nat) (q : QEntry) (s : State) : State :=
  let c := s.core k
  let t := fld q.w 24 3
  let b := fld q.w 27 2
  let a := fld q.w 29 13 * 512
  let n := fld q.w 42 12 + 1
  let act := bit (bitAt c.ve.posBank.toNat t)
  let target := if b == 2 then 1 - act else b
  let iw := imageWords t n
  if t < 6 && b != 2 && b == act then s.veSkip k q { check := 14, cause := veTblActive, stage := 0, instr := 0 }
  else if t ≥ 6 || b == 3 || (t < 4 && n > 256) || reservedBits q.w (veMaskOf 0x70) then s.veSkip k q vBadCmd
  else
    let lo := s.spAddr k a
    let phys := s.toPhys (s.mover k).req lo
    let busy := match c.ve.chain with
      | some j => j.banks.contains (2 * t + target) || j.writes.any (fun w => match phys with
          | some p => decide (p ≤ w.a ∧ w.a < p + iw.2 + 4 * iw.1)
          | none => false)
      | none => false
    if busy || !c.ve.tloads.isEmpty then s
    else
      let s := s.eccHits k ecc
      let c := s.core k
      let (free, s) := s.fresh (4 * mib + 65536)
      (s.take k .ve).modVe k (fun v => { v with
        bankStat := v.posBank,
        tloads := v.tloads ++ [{ q := q, table := BitVec.ofNat 3 t, bank := target == 1, image := c.image free t a n,
                                 swapped := false }] })

def execVeTload (l : SiteNo) (c : CoreReads) (s : State) : Res := .next (s.veRun l c.core 0x70 (State.veTload c.ecc))

/-- VE_TLOAD_DONE: the oldest load fills its bank (R130, R131). -/
def State.tloadDone (s : State) (k : Nat) : State :=
  match (s.core k).ve.tloads with
  | [] => s
  | j :: rest =>
    (s.modVe k (fun v => { v with
      tloads := rest,
      tables := sset (fun _ => VTable.init) v.tables (2 * j.table.toNat + bit j.bank) j.image })).finish k .ve j.q

def execVeTloadDone (l : SiteNo) (c : CoreNo) (s : State) : Res :=
  match s.key l c with
  | some k => .next (s.tloadDone k)
  | none => .next s

/-- VE.TSWAP starts: it waits for the next pass boundary, and loads of its table that are under way hold later chains
(R131). DEDUCED, assumption 35. -/
def State.veTswap (k : Nat) (q : QEntry) (s : State) : State :=
  let t := fld q.w 24 3
  if t ≥ 6 || reservedBits q.w (veMaskOf 0x71) then s.veSkip k q vBadCmd
  else ((s.take k .ve).modVe k (fun v => { v with
      swaps := v.swaps ++ [(q, BitVec.ofNat 3 t)],
      tloads := v.tloads.map (fun j => { j with swapped := j.swapped || j.table.toNat == t }) })).modVe k
    (fun v => { v with bankStat := v.posBank })

def execVeTswap (l : SiteNo) (c : CoreNo) (s : State) : Res := .next (s.veRun l c 0x71 State.veTswap)

/-- TSWAP_TAKES_EFFECT: at a pass boundary the oldest swap, if it names this table, flips the active bank (R131). -/
def State.swapDone (s : State) (k table : Nat) : State :=
  match (s.core k).ve.swaps with
  | (q, t) :: rest =>
    if t.toNat ≠ table || ((s.core k).ve.chain.map (fun j => decide (j.q.order < q.order))).getD false then s
    else (s.modVe k (fun v => { v with swaps := rest, bank := v.bank ^^^ BitVec.ofNat 6 (2 ^ table) })).finish k .ve q
  | [] => s

def execTswapTakesEffect (l : SiteNo) (c : CoreNo) (table : BitVec 3) (s : State) : Res :=
  match s.key l c with
  | some k => .next (s.swapDone k table.toNat)
  | none => .next s

end Sys2Proof.Machine
end

