-- ==== Sys2Proof/Machine/Transfer.lean ====
section
/-! DEFINITION. What a copy or a box of a stream program moves (06 R181, R182, R511; 07 R193, R197–R205, R220):
elements, conversions, scatter, multicast copies, the runs it is carried in, transfer slots. -/

namespace Sys2Proof.Machine

/-! ## Elements -/

/-- A pair of logical indices: source and destination. -/
structure Pair where
  src : List Int
  dst : List Int
deriving DecidableEq, Repr

/-- Block and place in it of the element that a read fetches; none for a pad (R511). -/
def Desc.readBlock (t : Desc) (i : List Int) : Option (List Int × Int) :=
  let j := (List.range 6).map (fun d => clampInt (nth i d 0) 0 ((t.n d : Int) - 1) - t.lo d)
  if (List.range 6).any (fun d => decide (nth j d 0 < 0) || decide (nth j d 0 ≥ t.v d)) then none
  else some (blockOf j, nth j 0 0 % 16)

/-- A pair with its source element as read, what the read met, and the number of the transfer that carries it. -/
structure Fetched where
  p : Pair
  e : Elem
  acc : Acc
  run : Nat
deriving DecidableEq, Repr

/-- Every destination block that is reached receives all 16 elements of one source block, in order (R511). -/
def blocksMatch (src dst : Desc) (ps : List Pair) : Bool :=
  let live := ps.filter (fun p => dst.wpos p.dst == .padPut || dst.wpos p.dst == .valid)
  let es := live.map (fun p =>
    (blockOf (dst.stored p.dst), nth (dst.stored p.dst) 0 0 % 16, src.readBlock p.src))
  es.all (fun e => match e.2.2 with
    | none => false
    | some (sb, sp) =>
      let mine := es.filter (fun f => f.1 == e.1)
      sp == e.2.1 && mine.all (fun f => (f.2.2.map Prod.fst) == some sb) && ((mine.map (fun f => f.2.1)).eraseDups).length == 16)

/-- What the reads of one transfer met: a poisoned source word, and events. -/
structure RunIn where
  poison : Bool
  ev : List MemEv
deriving DecidableEq, Repr

/-- What moving some elements amounts to: outputs, flags, what the reads of each transfer met, and the physical sites
that are read. -/
structure Moved where
  os : List WOut
  acc : Acc
  runs : List RunIn
  srcs : List Nat
deriving DecidableEq, Repr

/-! ## Transfers (R201) -/

/-- Two accesses of a transfer lie in one contiguous run of granules of `aw` bytes and on one 4 KiB page; byte addresses,
none where there is no access (R201). -/
def nearBy (aw : Nat) (a b : Option Nat) : Bool :=
  match a, b with
  | some a, some b => a / 4096 == b / 4096 && decide (a / aw ≤ b / aw + 1 ∧ b / aw ≤ a / aw + 1)
  | _, _ => true

/-- Which sides of a copy are cut into runs: a side that is not in the core's own scratchpad, and the destination where
both are in it. DESIGN CHOICE, assumption 37. -/
structure Cuts where
  src : Bool
  dst : Bool
  awSrc : Nat
  awDst : Nat
deriving DecidableEq, Repr

/-- The number of the transfer of each access, given by its source and destination address, in order (R201). DESIGN CHOICE, assumption 37. -/
def runIds (c : Cuts) (as_ : List (Option Nat × Option Nat)) : List Nat :=
  (as_.foldl (fun (st : List Nat × Nat × Option Nat × Option Nat) a =>
    let near := (!c.src || nearBy c.awSrc st.2.2.1 a.1) && (!c.dst || nearBy c.awDst st.2.2.2 a.2)
    let id := if near then st.2.1 else st.2.1 + 1
    (id :: st.1, id, a.1 <|> st.2.2.1, a.2 <|> st.2.2.2)) ([], 0, none, none)).1.reverse

/-- The byte address of a destination position that is written. -/
def Desc.destAddr (t : Desc) (rel : Nat) (i : List Int) : Option Nat :=
  match t.wpos i with
  | .outside => none
  | .padSkip => none
  | _ => some (t.nibAddr rel (t.stored i) / 2)

/-- A descriptor in the core's own scratchpad. -/
def State.ownSp (s : State) (k : Nat) (t : Desc) : Bool :=
  let who := s.whoIs k
  s.regionOf t.allocBase t.allocSize == some (.sp who.1 who.2)

def State.cutsOf (s : State) (k : Nat) (src dst : Desc) : Cuts :=
  let sl := s.ownSp k src
  { src := !sl, dst := sl || !s.ownSp k dst, awSrc := src.awBytes, awDst := dst.awBytes }

/-- Number the transfers of some reads. -/
def Cuts.number (c : Cuts) (dst : Nat → Option Nat) (es : List (Pair × Elem × Acc)) : List Fetched :=
  let ids := runIds c (es.zipIdx.map (fun e => (e.1.2.1.na.map (· / 2), dst e.2)))
  (es.zip ids).map (fun e => { p := e.1.1, e := e.1.2.1, acc := e.1.2.2, run := e.2 })

/-- What the reads met, by transfer. -/
def runIns (fs : List Fetched) : List RunIn :=
  (List.range ((fs.map Fetched.run).foldl max 0 + 1)).map (fun j =>
    let mine := fs.filter (fun f => f.run == j)
    { poison := mine.any (fun f => f.e.poison), ev := mine.flatMap (fun f => f.acc.ev) })

/-- The physical site of an address of the logical view that lies in a site. -/
def State.siteOfAddr (s : State) (a : Nat) : Option Nat :=
  match place a with
  | .bed l _ => s.physOf l
  | .core l _ _ => s.physOf l
  | _ => none

/-- The physical sites that a copy reads: those of its source and of the index and scale tensors it reads (R27). -/
def State.readSites (s : State) (src dst : RDesc) : List Nat :=
  ([some src.d, src.aux, if dst.d.isScatter then dst.aux else none].filterMap (fun t => t.bind (fun t => s.siteOfAddr t.allocBase))).eraseDups

/-! ## Moving elements -/

/-- Read the source elements of a copy and number their transfers (R201). -/
def State.fetchPairs (s : State) (k : Nat) (src dst : RDesc) (rs rd : Nat) (ps : List Pair) : List Fetched :=
  let es := ps.map (fun p => (p, s.elem (s.mover k) src rs p.src))
  let da := (ps.map (fun p => dst.d.destAddr rd p.dst)).toArray
  (s.cutsOf k src.d dst.d).number (fun i => da.getD i none) es

/-- Convert or move elements to a descriptor that is no scatter (R193, R197, R511, R220). -/
def moveOuts (src dst : RDesc) (rd : Nat) (cv : Cvt) (fs : List Fetched) : List WOut × Acc :=
  if src.d.f4bElem && dst.d.f4bElem && blocksMatch src.d dst.d (fs.map Fetched.p) then
    moveF4b dst rd (fs.map (fun f => ({ i := f.p.dst, src := .code f.e.code, run := f.run }, f.e.scale)))
  else
    let f4 := src.d.f4bElem && dst.d.f4bElem
    let move := src.d.fmt == dst.d.fmt && !f4
    writeElems dst rd cv (fs.map (fun f => {
      i := f.p.dst, run := f.run,
      src := if move then .code (f.e.moved src.d.f4bScale)
             else .val (if f4 then f.e.val cv.g16k else f.e.carried dst.d.fmt cv.g16k) }))

/-- The move of fetched elements, written in the order of `ws`. -/
def State.moved (s : State) (src dst : RDesc) (rd : Nat) (cv : Cvt) (fs ws : List Fetched) : Moved :=
  let r := moveOuts src dst rd cv ws
  { os := r.1, acc := ((fs.map Fetched.acc).foldl Acc.join Acc.init).join r.2, runs := runIns fs, srcs := s.readSites src dst }

/-- Convert or move elements between descriptors that are no scatter. -/
def State.moveElems (s : State) (k : Nat) (src dst : RDesc) (rs rd : Nat) (cv : Cvt) (ps : List Pair) : Moved :=
  let fs := s.fetchPairs k src dst rs rd ps
  s.moved src dst rd cv fs fs

/-- Clamp a scatter index (R181). -/
def scatterIndex (t : Desc) (u : Int) : Int := clampInt u 0 ((t.n t.idxDim : Int) - 1)

/-- The contributions of one destination element under ADD (R182). -/
def State.scatterSum (s : State) (m : Mover) (t : Desc) (rd : Nat) (g16k : Int) (i : List Int) (vs : List Val) : Val × List MemEv :=
  let (e, ev) := s.rawElem m t rd (t.stored i)
  if fmtInt t.fmt then (vs.foldl Val.add (e.val g16k), ev)
  else (vs.foldl addFp32 (e.widened g16k), ev)

/-- A contribution to a scatter sum: exact for an integer destination, widened to FP32 otherwise (R182). -/
def Elem.contribution (e : Elem) (dst : BitVec 4) (g16k : Int) : Val := if fmtInt dst then e.val g16k else e.widened g16k

/-- What a scatter writes to one destination element from its contributions, in source order (R182). -/
def State.scatterOne (s : State) (m : Mover) (srcFmt : BitVec 4) (t : Desc) (cv : Cvt) (i : List Int) (mine : List Fetched) : WElem × List MemEv :=
  let run := (mine.map Fetched.run).foldl max 0
  if t.scatAdd then
    let (v, ev) := s.scatterSum m t 0 cv.g16k i (mine.map (fun f => f.e.contribution t.fmt cv.g16k))
    ({ i := i, src := .val v, run := run }, ev)
  else match mine.getLast? with
    | some f => ({ i := i, src := if srcFmt == t.fmt then .code (f.e.moved false) else .val (f.e.carried t.fmt cv.g16k), run := run }, [])
    | none => ({ i := i, src := .code 0, run := run }, [])

/-- A scatter (R181, R182): contributions in source order, each destination element converted once, carried by the
transfer of its last contribution. -/
def State.scatterElems (s : State) (k : Nat) (src dst : RDesc) (cv : Cvt) (ps : List Pair) : Moved :=
  let m := s.mover k
  let t := dst.d
  match dst.aux with
  | none => { os := [], acc := Acc.init, runs := [], srcs := [] }
  | some a =>
    let es := ps.map (fun p =>
      let (ie, ia) := s.plainElem m a 0 [nth p.dst t.idxDim 0]
      let u := scatterIndex t ie.index
      let (e, ea) := s.elem m src 0 p.src
      (({ src := p.src, dst := (List.range 6).map (fun d => if d == t.idxDim then u else nth p.dst d 0) } : Pair), e,
        ea.join { ia with clamp := ia.clamp || u != ie.index }))
    let da := (es.map (fun e => t.destAddr 0 e.1.dst)).toArray
    let fs := (s.cutsOf k src.d t).number (fun i => da.getD i none) es
    let outs := ((fs.map (fun f => f.p.dst)).eraseDups).map (fun i =>
      s.scatterOne m src.d.fmt t cv i (fs.filter (fun f => f.p.dst == i)))
    let (ws, wa) := writeElems { d := t, aux := none } 0 cv (outs.map Prod.fst)
    { os := ws, acc := (((fs.map Fetched.acc).foldl Acc.join Acc.init).join wa).join { Acc.init with ev := outs.flatMap Prod.snd },
      runs := runIns fs, srcs := s.readSites src dst }

/-! ## Multicast (R204) -/

/-- The members of a group: logical site and core. -/
def State.members (s : State) (k : Nat) : Mcast → List (Nat × Nat)
  | .die mask => (onesOf 32 mask.toNat).map (fun c => ((s.whoIs k).1, c))
  | .mesh g c => (onesOf 64 (sget (fun _ => (0 : DWord)) s.grid.mcast g.toNat).toNat).map (fun l => (l, c.toNat))

/-- The same bytes at the same scratchpad offset of every member. -/
def copyTo (ms : List (Nat × Nat)) (o : WOut) : WOut :=
  { o with ws := ms.flatMap (fun m => o.ws.map (fun w => { w with a := coreBase + m.1 * 2 ^ 28 + m.2 * 2 ^ 23 + w.a % 2 ^ 23 })) }

/-! ## Issue -/

def Se.ctx (e : Se) (x : Nat) : SeCtx := sget (fun _ => SeCtx.init) e.ctxs x

def State.modSeCtx (s : State) (k x : Nat) (f : SeCtx → SeCtx) : State :=
  s.modSe k (fun e => { e with ctxs := sset (fun _ => SeCtx.init) e.ctxs x (f (e.ctx x)) })

/-- Transfer slots that context x may still take of `total` (R201; 16 R476: 64 at P1 and worse). -/
def Se.slotsFor (e : Se) (total x : Nat) : Nat :=
  let r := min e.slotReserve.toNat 96
  let used (y : Nat) : Nat := (e.ctx y).inflight.length
  let running := ((List.range 8).filter (fun y => (e.ctx y).running)).length
  let shared := ((List.range 8).map (fun y => used y - r)).sum
  min ((r - used x) + (total - r * running - shared)) (total - ((List.range 8).map used).sum)

/-- Issue waiting transfers of a context into free slots. The instruction that made them is over when none of them
waits any more; until then the context shows that it waits for slots (R201, R227). DESIGN CHOICE, assumption 37. -/
def Se.issue (e : Se) (total x : Nat) : Se :=
  let c := e.ctx x
  if c.toIssue.isEmpty then e
  else
    let n := e.slotsFor total x
    let c := { c with inflight := c.inflight ++ c.toIssue.take n, toIssue := c.toIssue.drop n }
    let c := if c.toIssue.isEmpty then { c with waitKind := 0, pc := if c.prog.isSome then c.pc + 1 else c.pc }
      else { c with waitKind := 5 }
    { e with ctxs := sset (fun _ => SeCtx.init) e.ctxs x c }

/-- Issue waiting transfers of every context. -/
def Se.issueAll (e : Se) (total : Nat) : Se := (List.range 8).foldl (fun e x => e.issue total x) e

/-- The transfer slots of an SE (R201; 16 R476). -/
def Power.slots (p : Power) : Nat := if p.level == 0 then 768 else 64

def State.issueMore (s : State) (k x : Nat) : State := s.modSe k (fun e => e.issue s.pwr.slots x)

/-- One transfer of a move: its outputs checked and translated, and what it met. A read of an absent site makes it lost,
with its destination unchanged (00 R5). -/
def State.makeXfer (s : State) (m : Mover) (mv : Moved) (group : Option Mcast) (k j : Nat) (r : RunIn) : Xfer × List MemEv :=
  let out (o : WOut) : WOut := match group with
    | some g => copyTo (s.members k g) o
    | none => o
  let gone := lostAny r.ev
  let iss := s.issueElems m (if gone then [] else (mv.os.filter (fun o => o.run == j)).map out)
  ({ writes := iss.ws, srcs := mv.srcs, nan := iss.nan, inf := iss.inf, sat := iss.sat, poison := r.poison,
     lost := gone || lostAny iss.ev, sealedOut := sealedAny r.ev || sealedAny iss.ev, mc := group.isSome, landed := false },
   r.ev ++ iss.ev)

/-- Check and translate the transfers of a move, and hand them to the context (R27: the graft map of the moment of issue).
Without mesh credit they wait for it, until the next tick or completion of a transfer of the core (R201, R227). DESIGN CHOICE, assumption 37. -/
def State.issueMove (s : State) (k x : Nat) (mv : Moved) (group : Option Mcast) (credit : Bool) : State :=
  let xs := mv.runs.zipIdx.map (fun r => s.makeXfer (s.mover k) mv group k r.2 r.1)
  let s := (s.tdStat k mv.acc).meet (xs.flatMap Prod.snd)
  let s := s.modSeCtx k x (fun c => { c with toIssue := c.toIssue ++ xs.map Prod.fst, waitKind := if credit then c.waitKind else 7 })
  if credit then s.issueMore k x else s

end Sys2Proof.Machine
end

