-- ==== Sys2Proof/Machine/Se.lean ====
section
/-! DEFINITION. The stream engine (07): commands, stream programs, transfers, fences; the descriptor command (06). -/

namespace Sys2Proof.Machine

/-! ## Causes (R225) -/

def seBadCmd : Nat := 0
def seBadFmt : Nat := 1
def seBadRnd : Nat := 2
def seBadShape : Nat := 3
def seDescFault : Nat := 4
def seBadProg : Nat := 8
def seBadHq : Nat := 9
def seHqBusy : Nat := 10
def seHqOwner : Nat := 11
def seMismatch : Nat := 12

/-- Skip the head of the SE queue (R192). -/
def State.seSkip (s : State) (k : Nat) (q : QEntry) (b : SeErr) : State := (s.seErr k q.tag b).skipHead k .se q b.cause

/-- SE opcodes (R192, 06 R166). -/
def seOps : List Nat := [0x80, 0x88, 0x90, 0x98, 0xA0, 0xA8]

/-- DEDUCED, assumption 5. -/
def State.seSkipUnknown (s : State) (k : Nat) : Nat → State
  | 0 => s
  | n + 1 =>
    match (s.core k).se.queue.head? with
    | some q => if seOps.contains q.op then s else (s.seSkip k q (SeErr.cmd 0 0 seBadCmd)).seSkipUnknown k n
    | none => s

/-- The bits an SE command may set (R192, R166). -/
def seMaskOf (w : Nat) : Nat :=
  let f (lo len : Nat) : Nat := (2 ^ len - 1) * 2 ^ lo
  f 0 24 + (match fld w 0 8 with
    | 0x80 => f 24 19
    | 0x88 => f 24 34
    | 0x90 => f 24 21
    | 0x98 => f 24 4 + (if bitAt w 27 then f 28 11 else f 28 32)
    | 0xA0 => f 24 26
    | _ => f 24 8)

/-- What SE_ERR_INFO records of a refused command word: the context, or the queue, that it names (R226). -/
def seNamed (w cause : Nat) : SeErr :=
  match fld w 0 8 with
  | 0x80 => SeErr.cmd (fld w 24 3) 0 cause
  | 0x88 => SeErr.cmd (fld w 24 3) 0 cause
  | 0x98 => SeErr.cmd (fld w 24 3) 0 cause
  | 0x90 => SeErr.cmd 0 (fld w 24 5) cause
  | _ => SeErr.cmd 0 0 cause

/-- Run a command of the SE in issue order (R191); a pending SE.FENCE holds the queue (R193). DEDUCED, assumption 4; DEDUCED, assumption 5. -/
def State.seRun (s : State) (l : SiteNo) (c : CoreNo) (op : Nat) (f : Nat → QEntry → State → State) : State :=
  match s.key l c with
  | none => s
  | some k =>
    if (s.core k).se.fence.isSome then s
    else
      let s := s.seSkipUnknown k (s.core k).se.queue.length
      match (s.core k).se.queue.head? with
      | some q =>
        if q.op ≠ op then s
        else if reservedBits q.w (seMaskOf q.w) then s.seSkip k q (seNamed q.w seBadCmd)
        else f k q s
      | none => s

/-! ## SE.TDESC (06 R166, R167, R186) -/

/-- Record a refused SE.TDESC in SE_TD_INFO, the first since the descriptor bits of SE_CAUSE were last all 0 (06 R186). -/
def State.tdInfo (s : State) (k index check dim : Nat) (tag : Half) : State :=
  if ((s.core k).se.cause &&& 0xF0) == 0 || !(s.core k).se.tdSeen then
    s.modSe k (fun e => { e with tdSeen := true, tdInfo := reg64 [(index, 0), (check, 12), (dim, 16), (tag.toNat, 24)] })
  else s

def State.setDesc (s : State) (k i : Nat) (d : Option Desc) : State :=
  s.modSe k (fun e => { e with tdescs := sset (fun _ => none) e.tdescs i d })

def State.seTdesc (ecc : List EccHit) (k : Nat) (q : QEntry) (s : State) : State :=
  let i := fld q.w 24 9
  let a := fld q.w 34 16
  if (bitAt q.w 33 && a != 0) || a % 128 != 0 then s.seSkip k q (SeErr.cmd 0 0 seBadCmd)
  else if bitAt q.w 33 then ((s.setDesc k i none).take k .se).finish k .se q
  else
  let s := s.eccHits k ecc
  match (s.core k).cc.dmemRead a 128 with
  | none => s.skipDmem k .se q
  | some bs =>
    match s.descCheck a bs with
    | some (check, cause, dim) => ((s.setDesc k i none).tdInfo k i check dim q.tag).seSkip k q (SeErr.cmd 0 0 cause)
    | none => ((s.setDesc k i (some (decodeDesc bs))).take k .se).finish k .se q

def execSeTdesc (l : SiteNo) (c : CoreReads) (s : State) : Res := .next (s.seRun l c.core 0xA0 (State.seTdesc c.ecc))

/-! ## Stream programs (R194, R195) -/

/-- A signed field of an instruction. -/
def spF (w : DWord) (lo len : Nat) : Nat := fld w.toNat lo len
def spOp (w : DWord) : Nat := spF w 0 4

def decodeSProg (bs : List Byte) (n : Nat) : SProg :=
  { roundTag := BitVec.ofNat 12 (bfld bs 2 2), roundSeq := BitVec.ofNat 16 (bfld bs 4 2), indexBase := BitVec.ofNat 48 (bfld bs 6 6),
    g16k := BitVec.ofNat 8 (bfld bs 12 1), code := (List.range n).map (fun i => BitVec.ofNat 64 (bfld bs (16 + 8 * i) 8)) }

/-- Bits an instruction names (R195). -/
def spMask (op : Nat) : Nat :=
  match op with
  | 0x1 => 2 ^ 61 - 1
  | 0x2 => 2 ^ 7 - 1
  | 0x3 => 2 ^ 56 - 1
  | 0x4 => 2 ^ 10 - 1
  | 0x5 => 2 ^ 10 - 1
  | 0x6 => 2 ^ 9 - 1
  | 0x7 => 2 ^ 9 - 1
  | 0x8 => 2 ^ 32 - 1
  | 0x9 => 2 ^ 36 - 1
  | _ => 15

/-- A fault of one instruction that needs nothing but its bits (R195, R196, R200). -/
def spBad (w : DWord) : Bool :=
  let op := spOp w
  (decide (0xA ≤ op) && op != 0xF) || reservedBits w.toNat (spMask op)
    || ((op == 1 || op == 2) && decide (spF w 4 3 > 5)) || (op == 1 && (decide (spF w 31 3 > 5) || decide (spF w 46 3 > 5)))
    || (op == 8 && decide (spF w 5 3 > 5)) || (op == 3 && spF w 53 2 == 0)

/-- The instruction at which loops do not nest, a level is used again or none is open to end (R196), counted from `i`;
the number of instructions when a loop is left open. -/
def loopFault : List DWord → Nat → List Nat → List Nat → Option Nat
  | [], i, stack, _ => if stack.isEmpty then none else some i
  | w :: r, i, stack, used =>
    if spOp w == 1 then
      if used.contains (spF w 4 3) then some i else loopFault r (i + 1) (spF w 4 3 :: stack) (spF w 4 3 :: used)
    else if spOp w == 2 then
      (match stack with
       | lv :: st => if lv == spF w 4 3 then loopFault r (i + 1) st used else some i
       | [] => some i)
    else loopFault r (i + 1) stack used

/-- A multicast instruction. -/
def spMc (w : DWord) : Bool :=
  (spOp w == 3 && spF w 55 1 == 1) || ((spOp w == 4 || spOp w == 5) && spF w 9 1 == 1)

/-- Fields of SP.XFER. -/
def xSrc (w : DWord) : Nat := spF w 4 9
def xDst (w : DWord) : Nat := spF w 13 9
def xE0 (w : DWord) : Nat := spF w 22 12 + 1
def xE1 (w : DWord) : Nat := spF w 34 12 + 1
def xRnd (w : DWord) : BitVec 3 := BitVec.ofNat 3 (spF w 46 3)
def xSwap (w : DWord) : Bool := spF w 49 1 == 1
def xSkew (w : DWord) : Bool := spF w 50 1 == 1
def xSrcRel (w : DWord) : Bool := spF w 51 1 == 1
def xDstRel (w : DWord) : Bool := spF w 52 1 == 1
def xMc (w : DWord) : Bool := spF w 55 1 == 1

/-- The skew requirements of R198. -/
def skewOk (w : DWord) (dst : Desc) : Bool :=
  !xSkew w || (dst.n 0 == 128 && (dst.nib == 2 || dst.nib == 4) && (if xSwap w then xE1 w else xE0 w) == 128)

/-- A scale tensor may be named only as both source and destination (06 R180). -/
def scalePair (tab : Nat → Option Desc) (a b : Nat) : Bool :=
  ((tab a).map Desc.f4bScale).getD false && ((tab b).map Desc.f4bScale).getD false

/-- Resolve the two sides of a copy (06 R180). -/
def resolvePair (tab : Nat → Option Desc) (scatter : Bool) (a b : Nat) : Option (RDesc × RDesc) :=
  let sc := scalePair tab a b
  match resolve tab { write := false, scatter := false, scale := sc } a, resolve tab { write := true, scatter := scatter, scale := sc } b with
  | some x, some y => some (x, y)
  | _, _ => none

/-- Multicast is used with no group, or its destination is not in the core's own scratchpad; SP.WAITT needs a paced
context; skew needs its layout (R200). -/
def State.progBad (s : State) (k x : Nat) (w : DWord) : Bool :=
  let e := (s.core k).se
  let paced := match (s.core k).ctx with
    | some n => (s.ctx n.toNat).desc.paced
    | none => false
  (spMc w && (e.ctx x).group.isNone)
    || (spOp w == 3 && (match e.desc (xDst w) with
      | some t => !skewOk w t || (xMc w && !s.ownSp k t)
      | none => false))
    || (spOp w == 9 && !paced)

/-- The members of a multicast group with their keys, present ones only. -/
def State.liveMembers (s : State) (k : Nat) (g : Option Mcast) : List (Nat × Nat × Nat) :=
  ((g.map (s.members k)).getD []).filterMap (fun m => (s.physOf m.1).map (fun p => (m.1, m.2, s.keyOf p m.2)))

/-- Context x of core k may produce into queue q of core m: as its local producer, or as the remote producer that the
queue names (R207), which may be a context of the queue's own core. -/
def State.mayProduce (s : State) (k x m q : Nat) : Bool :=
  let who := s.whoIs k
  match (s.hq m q).cfg with
  | some c => c.prod.toNat == x + 1 && (if c.remote then c.rsite.toNat == who.1 && c.rcore.toNat == who.2 else m == k)
  | none => false

def State.mayConsume (s : State) (k x q : Nat) : Bool := (s.hq k q).consIs (x + 1)

/-- An instruction whose context is not the configured endpoint of its queue (R200). DEDUCED, assumption 36. -/
def State.ownerBad (s : State) (k x : Nat) (g : Option Mcast) (w : DWord) : Bool :=
  let q := spF w 4 5
  if spOp w == 4 || spOp w == 5 then
    (if spF w 9 1 == 1 then (s.liveMembers k g).any (fun m => !s.mayProduce k x m.2.2 q) else !s.mayProduce k x k q)
  else (spOp w == 6 || spOp w == 7) && !s.mayConsume k x q

/-- The descriptors a program names, with their auxiliaries (06 R168). -/
def heldOf (tab : Nat → Option Desc) (code : List DWord) : List (Nat × Desc) :=
  let named := (code.filter (fun w => spOp w == 3)).flatMap (fun w => [xSrc w, xDst w])
  let aux := named.filterMap (fun i => (tab i).bind (fun t => if t.aux.toNat < 512 then some t.aux.toNat else none))
  (named ++ aux).eraseDups.filterMap (fun i => (tab i).map (fun t => (i, t)))

/-- A program instruction at fault, or the program as a whole where `i` is no instruction of it (R226). -/
def SeErr.at (ctx : Nat) (code : List DWord) (i hq cause : Nat) : SeErr :=
  if i < code.length then { ctx := ctx, inProg := true, instr := i, hq := hq, cause := cause } else SeErr.cmd ctx hq cause

/-- The first fault with cause bad_prog in the instructions (R200). DEDUCED, assumption 36. -/
def State.progFault (s : State) (k x : Nat) (code : List DWord) : Option Nat :=
  [code.findIdx? spBad, code.findIdx? (s.progBad k x), loopFault code 0 [] [],
   if (code.getLast?).map spOp == some 0xF then none else some (code.length - 1)].foldl (fun b o => match b, o with
    | some i, some j => some (min i j)
    | some i, none => some i
    | none, o => o) none

/-- The check of R200: cause, queue and instruction at fault. -/
def State.progCheck (s : State) (k x : Nat) (bs : List Byte) (code : List DWord) : Option SeErr :=
  let tab := (s.core k).se.desc
  let xf (p : DWord → Bool) (cause : Nat) : Option SeErr :=
    (code.findIdx? (fun w => spOp w == 3 && p w)).map (fun i => SeErr.at x code i 0 cause)
  let hdrBad := bfld bs 0 1 ≥ 16 || bfld bs 1 1 != 0 || bfld bs 2 2 ≥ 4096 || bfld bs 13 3 != 0
  [if hdrBad then some (SeErr.cmd x 0 seBadProg) else none,
   (s.progFault k x code).map (fun i => SeErr.at x code i 0 seBadProg),
   xf (fun w => (resolvePair tab false (xSrc w) (xDst w)).isNone) seDescFault,
   xf (fun w => ((tab (xSrc w)).map (fun t => fmtReserved t.fmt)).getD false || ((tab (xDst w)).map (fun t => fmtReserved t.fmt)).getD false) seBadFmt,
   xf (fun w => rndReserved (xRnd w)) seBadRnd,
   (code.findIdx? (s.ownerBad k x ((s.core k).se.ctx x).group)).map (fun i =>
     SeErr.at x code i (spF (code.getD i 0) 4 5) seHqOwner)].findSome? id

/-- A context starts. -/
def SeCtx.begin_ (c : SeCtx) (q : QEntry) : SeCtx :=
  { c with running := true, err := false, waitKind := 0, pc := 0, tag := q.tag, q := some q, x := List.replicate 6 0,
           y := List.replicate 6 0, loops := [], groupRun := c.group, ending := false }

/-- SE.START (R193, R200). DEDUCED, assumption 36. -/
def State.seStart (ecc : List EccHit) (k : Nat) (q : QEntry) (s : State) : State :=
  let e := (s.core k).se
  let x := fld q.w 24 3
  let a := fld q.w 27 16
  if (e.ctx x).running || e.pause || s.paused3 then s
  else if a % 16 ≠ 0 ∨ a + 16 > 65536 then s.seSkip k q (SeErr.cmd x 0 seBadCmd)
  else
    let s := s.eccHits k ecc
    let cc := (s.core k).cc
    let n := cc.dmem.nat a 1 % 16 + 1
    if a + 16 + 8 * n > 65536 then s.seSkip k q (SeErr.cmd x 0 seBadCmd)
    else match cc.dmemRead a (16 + 8 * n) with
    | none => s.skipDmem k .se q
    | some bs =>
      let p := decodeSProg bs n
      match s.progCheck k x bs p.code with
      | some b => s.seSkip k q b
      | none => (s.take k .se).modSeCtx k x (fun c => { (c.begin_ q) with prog := some p, held := heldOf e.desc p.code })

def execSeStart (l : SiteNo) (c : CoreReads) (s : State) : Res := .next (s.seRun l c.core 0x80 (State.seStart c.ecc))

/-- A context ends: its command is complete. -/
def State.endCtx (s : State) (k x : Nat) : State :=
  let c := (s.core k).se.ctx x
  let s := s.endWait k (x + 1)
  let s := s.modSeCtx k x (fun c => { c with
    running := false, waitKind := 0, q := none, prog := none, held := [], loops := [], toIssue := [], ending := false })
  match c.q with
  | some q => s.finish k .se q
  | none => s

/-- End the context once no transfer of it is left. -/
def State.drainCtx (s : State) (k x : Nat) : State :=
  let c := (s.core k).se.ctx x
  if c.running && c.ending && c.toIssue.isEmpty && c.inflight.isEmpty then s.endCtx k x else s

/-- All logical indices of some sizes, dimension 0 fastest. -/
def allIndices (sizes : List Nat) : List (List Int) :=
  (List.range (prodFrom sizes)).map (fun n =>
    ((List.range 6).foldl (fun (acc : List Int × Nat) d =>
      (acc.1 ++ [((acc.2 % nth sizes d 1 : Nat) : Int)], acc.2 / nth sizes d 1)) ([], n)).1)

/-- SE.COPY (R193). DESIGN CHOICE, assumption 7; DEDUCED, assumption 36. -/
def State.seCopy (credit : Bool) (ecc : List EccHit) (k : Nat) (q : QEntry) (s : State) : State :=
  let e := (s.core k).se
  let x := fld q.w 24 3
  let rnd : BitVec 3 := BitVec.ofNat 3 (fld q.w 45 3)
  if (e.ctx x).running || e.pause || s.paused3 then s
  else if fld q.w 48 2 == 0 then s.seSkip k q (SeErr.cmd x 0 seBadCmd)
  else match resolvePair e.desc true (fld q.w 27 9) (fld q.w 36 9) with
  | none => s.seSkip k q (SeErr.cmd x 0 seDescFault)
  | some (a, b) =>
    if b.d.scatAdd && fmtInt b.d.fmt && !fmtInt a.d.fmt then s.seSkip k q (SeErr.cmd x 0 seBadFmt)
    else if rndReserved rnd then s.seSkip k q (SeErr.cmd x 0 seBadRnd)
    else if a.sizes != b.sizes then s.seSkip k q (SeErr.cmd x 0 seBadShape)
    else
      let s := s.eccHits k ecc
      let cv : Cvt := { mode := rnd, key := s.srKey k 0 0, indexBase := 0, g16k := sfld q.w 50 8 }
      let ps := (allIndices a.sizes).map (fun i => { src := i, dst := i : Pair })
      let mv := if b.d.isScatter then s.scatterElems k a b cv ps else s.moveElems k a b 0 0 cv ps
      let s := (s.take k .se).modSeCtx k x (fun c => { (c.begin_ q) with prog := none, held := [], ending := true })
      (s.issueMove k x mv none credit).drainCtx k x

def execSeCopy (l : SiteNo) (c : CoreNo) (ecc : XferReads) (s : State) : Res :=
  .next (s.seRun l c 0x88 (State.seCopy ecc.credit ecc.ecc))

/-! ## Queues (R206, R212), groups, fences -/

def decodeHqCfg (bs : List Byte) : HqCfg :=
  let fl := bfld bs 7 1
  { poolBase := bfld bs 0 2, bufSize := bfld bs 2 2, count := bfld bs 4 1, prod := BitVec.ofNat 8 (bfld bs 5 1),
    cons := BitVec.ofNat 8 (bfld bs 6 1), remote := bitAt fl 0, paced := bitAt fl 1,
    rsite := BitVec.ofNat 6 (bfld bs 8 1), rcore := BitVec.ofNat 5 (bfld bs 9 1), due := BitVec.ofNat 32 (bfld bs 12 4),
    firstPeriod := BitVec.ofNat 64 (bfld bs 16 8) }

def hqReserved (bs : List Byte) : Bool :=
  decide (bfld bs 7 1 ≥ 4) || decide (bfld bs 8 1 ≥ 64) || decide (bfld bs 9 1 ≥ 32) || bfld bs 10 2 != 0 || bfld bs 24 8 != 0

/-- The record unconfigures its queue. -/
def HqCfg.clears (c : HqCfg) : Bool := c.prod == 0 && c.cons == 0

/-- Endpoint codes in their roles (R207). -/
def HqCfg.rolesOk (c : HqCfg) : Bool :=
  let p := c.prod.toNat
  let n := c.cons.toNat
  (decide (1 ≤ p ∧ p ≤ 8) || (p == 0x21 && !c.remote)) && (decide (1 ≤ n ∧ n ≤ 8) || decide (0x10 ≤ n ∧ n ≤ 0x13) || n == 0x20)

def HqCfg.poolEnd (c : HqCfg) : Nat := c.poolBase * 512 + c.count * c.bufSize * 512

/-- The pool lies in the scratchpad and overlaps no other configured queue's (R206). -/
def Se.poolOk (e : Se) (q : Nat) (c : HqCfg) : Bool :=
  decide (1 ≤ c.bufSize ∧ c.bufSize ≤ 8192) && decide (1 ≤ c.count ∧ c.count ≤ 64) && decide (c.poolEnd ≤ 4 * mib) &&
    (List.range 32).all (fun p => p == q || (match (e.hq p).cfg with
      | some o => decide (o.poolEnd ≤ c.poolBase * 512) || decide (c.poolEnd ≤ o.poolBase * 512)
      | none => true))

/-- Some endpoint waits on queue q of core k, here or at its remote producer (R212). -/
def State.hqWaited (s : State) (k q : Nat) : Bool :=
  let who := s.whoIs k
  let on (w : HqWait) : Bool := w.hq.toNat == q && w.rsite.toNat == who.1 && w.rcore.toNat == who.2
  (s.core k).se.waits.any on || (match (s.hq k q).cfg with
    | some c => if c.remote then (match s.key c.rsite c.rcore with
        | some m => (s.core m).se.waits.any on
        | none => false) else false
    | none => false)

/-- SE.HQCFG (R206, R211, R212). -/
def State.seHqcfg (ecc : List EccHit) (k : Nat) (q : QEntry) (s : State) : State :=
  let n := fld q.w 24 5
  let a := fld q.w 29 16
  if a % 32 ≠ 0 then s.seSkip k q (SeErr.cmd 0 n seBadCmd)
  else
  let s := s.eccHits k ecc
  match (s.core k).cc.dmemRead a 32 with
  | none => s.skipDmem k .se q
  | some bs =>
    let c := decodeHqCfg bs
    if hqReserved bs || (!c.clears && (!c.rolesOk || !(s.core k).se.poolOk n c)) then s.seSkip k q (SeErr.cmd 0 n seBadHq)
    else if (s.hq k n).used != 0 || s.hqWaited k n then s.seSkip k q (SeErr.cmd 0 n seHqBusy)
    else
      let s := s.modHq k n (fun _ => { Hq.init with cfg := if c.clears then none else some c })
      let who := s.whoIs k
      let s := if !c.clears && c.remote then
          { s with notices := s.notices ++ [{
              push := false, site := BitVec.ofNat 6 who.1, core := BitVec.ofNat 5 who.2, hq := BitVec.ofNat 5 n,
              credits := c.count, start := true }] }
        else s
      (s.take k .se).finish k .se q

def execSeHqcfg (l : SiteNo) (c : CoreReads) (s : State) : Res := .next (s.seRun l c.core 0x90 (State.seHqcfg c.ecc))

/-- SE.MCAST (R192, R204). -/
def State.seMcast (k : Nat) (q : QEntry) (s : State) : State :=
  let g : Mcast := if bitAt q.w 27 then .mesh (BitVec.ofNat 6 (fld q.w 28 6)) (BitVec.ofNat 5 (fld q.w 34 5))
    else .die (BitVec.ofNat 32 (fld q.w 28 32))
  ((s.modSeCtx k (fld q.w 24 3) (fun c => { c with group := some g })).take k .se).finish k .se q

def execSeMcast (l : SiteNo) (c : CoreNo) (s : State) : Res := .next (s.seRun l c 0x98 State.seMcast)

/-- SE.FENCE takes its place at the head (R193). -/
def State.seFence (k : Nat) (q : QEntry) (s : State) : State :=
  (s.take k .se).modSe k (fun e => { e with fence := some (q, BitVec.ofNat 8 (fld q.w 24 8)) })

def execSeFence (l : SiteNo) (c : CoreNo) (s : State) : Res := .next (s.seRun l c 0xA8 State.seFence)

/-- Notices of a context of core k still in the mesh: its pushes to remote consumers and its releases to remote
producers (R193). -/
def State.noticesOf (s : State) (k x : Nat) : Bool :=
  let who := s.whoIs k
  s.notices.any (fun n => match (s.key n.site n.core).bind (fun m => (s.hq m n.hq.toNat).cfg) with
    | some c => if n.push then c.prod.toNat == x + 1 && c.rsite.toNat == who.1 && c.rcore.toNat == who.2
        else s.key n.site n.core == some k && c.cons.toNat == x + 1
    | none => false)

/-- FENCE_COMPLETE: every named context has ended and its pushes and notices are delivered (R193). -/
def State.fenceDone (s : State) (k : Nat) : State :=
  match (s.core k).se.fence with
  | none => s
  | some (q, mask) =>
    if (onesOf 8 mask.toNat).any (fun x => ((s.core k).se.ctx x).running || s.noticesOf k x) then s
    else (s.modSe k (fun e => { e with fence := none, fenceCnt := e.fenceCnt + 1 })).finish k .se q

def execFenceComplete (l : SiteNo) (c : CoreNo) (s : State) : Res :=
  match s.key l c with
  | some k => .next (s.fenceDone k)
  | none => .next s

/-! ## Running a program (R196–R200) -/

/-- Enter a cause of a context's command in CC_ERRLOG and the Almanac (00 R5, R225). -/
def State.logCtx (s : State) (k x cause : Nat) : State :=
  match ((s.core k).se.ctx x).q with
  | some q => s.errLog k q.addr q.bank q.slot.toNat 3 cause q.tag
  | none => s

/-- Stop a context before its instruction (R200): the cause is set and logged, handles keep their state, transfers
already issued complete. -/
def State.spStop (s : State) (k x cause hq : Nat) : State :=
  let c := (s.core k).se.ctx x
  let s := s.seErr k c.tag { ctx := x, inProg := c.prog.isSome, instr := c.pc, hq := hq, cause := cause }
  let s := s.raise (.se k) cause
  let s := s.logCtx k x cause
  let s := (s.modSeCtx k x (fun c => { c with err := true, ending := true, toIssue := [], waitKind := 0 })).endWait k (x + 1)
  s.drainCtx k x

/-- Run the instruction at the context's position when it has this opcode. A pause holds it (R222), and so do transfers
of an earlier instruction that wait for slots (R201). DEDUCED, assumption 4; DEDUCED, assumption 5. -/
def State.spRun (s : State) (l : SiteNo) (c : CoreNo) (x : BitVec 3) (op : Nat) (f : Nat → Nat → DWord → State → State) : State :=
  match s.key l c with
  | none => s
  | some k =>
    let e := (s.core k).se
    let cx := e.ctx x.toNat
    match cx.prog with
    | none => s
    | some p =>
      match p.code[cx.pc]? with
      | none => s
      | some w =>
        if !cx.running || cx.ending || e.pause || s.paused3 || !cx.toIssue.isEmpty || spOp w ≠ op then s else f k x.toNat w s

/-- The next instruction. -/
def State.spNext (s : State) (k x : Nat) : State :=
  (s.modSeCtx k x (fun c => { c with pc := c.pc + 1, waitKind := 0 })).endWait k (x + 1)

def execSpNop (l : SiteNo) (c : CoreNo) (x : BitVec 3) (s : State) : Res :=
  .next (s.spRun l c x 0x0 (fun k x _ s => s.spNext k x))

/-- Add to one component of an index vector, modulo 2³² (R196). -/
def bump (v : List (BitVec 32)) (d : Nat) (n : Int) : List (BitVec 32) := v.modify d (· + BitVec.ofInt 32 n)

def execSpLoop (l : SiteNo) (c : CoreNo) (x : BitVec 3) (s : State) : Res :=
  .next (s.spRun l c x 0x1 (fun k x w s =>
    (s.modSeCtx k x (fun c => { c with
      loops := { level := BitVec.ofNat 3 (spF w 4 3), body := c.pc + 1, left := spF w 7 24 + 1, word := w } :: c.loops })).spNext k x))

/-- The end of an iteration (R196). -/
def SeCtx.endLoop (c : SeCtx) : SeCtx :=
  match c.loops with
  | [] => { c with pc := c.pc + 1 }
  | lp :: rest =>
    let w := lp.word
    let xi := sfld w.toNat 34 12
    let yi := sfld w.toNat 49 12
    let c := { c with x := bump c.x (spF w 31 3) xi, y := bump c.y (spF w 46 3) yi }
    if lp.left > 1 then { c with loops := { lp with left := lp.left - 1 } :: rest, pc := lp.body }
    else
      let n : Int := ((spF w 7 24 + 1 : Nat) : Int)
      { c with x := bump c.x (spF w 31 3) (-(n * xi)), y := bump c.y (spF w 46 3) (-(n * yi)), loops := rest, pc := c.pc + 1 }

def execSpEndl (l : SiteNo) (c : CoreNo) (x : BitVec 3) (s : State) : Res :=
  .next (s.spRun l c x 0x2 (fun k x _ s => (s.modSeCtx k x (fun c => { c.endLoop with waitKind := 0 }))))

/-- SP.SETX (R195). -/
def execSpSetx (l : SiteNo) (c : CoreNo) (x : BitVec 3) (s : State) : Res :=
  .next (s.spRun l c x 0x8 (fun k x w s =>
    let v := BitVec.ofInt 32 (sfld w.toNat 8 24)
    (s.modSeCtx k x (fun c =>
      if spF w 4 1 == 0 then { c with x := c.x.set (spF w 5 3) v } else { c with y := c.y.set (spF w 5 3) v })).spNext k x))

/-- SP.END: the context ends when its transfers have landed. -/
def execSpEnd (l : SiteNo) (c : CoreNo) (x : BitVec 3) (s : State) : Res :=
  .next (s.spRun l c x 0xF (fun k x _ s => (s.modSeCtx k x (fun c => { c with ending := true })).drainCtx k x))

/-- The buffer base of a queue a context holds a buffer of: its own queue's, else the first member's (R199). -/
def State.heldCfg (s : State) (k x : Nat) (b : HeldBuf) : Option HqCfg :=
  match (s.hq k b.hq.toNat).cfg, b.mc with
  | some c, _ => some c
  | none, true => ((s.liveMembers k ((s.core k).se.ctx x).groupRun).head?).bind (fun m => (s.hq m.2.2 b.hq.toNat).cfg)
  | none, false => none

/-- The offset of a relative descriptor (R199): none when there is no current buffer or it lies outside buffer 0. DEDUCED, assumption 28. -/
def State.relOffset (s : State) (k x : Nat) (rel : Bool) (held : List HeldBuf) (t : Desc) : Option Nat :=
  if !rel then some 0
  else match held.head? with
  | none => none
  | some b => (s.heldCfg k x b).bind (fun c =>
      let lo := s.spAddr k (c.poolBase * 512)
      if lo ≤ t.allocBase ∧ t.allocBase + t.allocSize ≤ lo + c.bufSize * 512 then some (b.handle * (c.bufSize * 512)) else none)

/-- Logical indices of the box elements (R197), the destination shifted line by line under skew. -/
def boxPairs (w : DWord) (x y : List (BitVec 32)) : List Pair :=
  let at_ (v : List (BitVec 32)) (a b : Nat) : List Int :=
    (List.range 6).map (fun d => (nth v d 0 + (if d == 0 then BitVec.ofNat 32 a else if d == 1 then BitVec.ofNat 32 b else 0)).toInt)
  (List.range (xE1 w)).flatMap (fun b => (List.range (xE0 w)).map (fun a =>
    let p := if xSwap w then b else a
    let q := if xSwap w then a else b
    { src := at_ x a b, dst := at_ y p (if xSkew w then q + p else q) }))

/-- The destination lines of a skewed box, in ascending order, each written whole (R198): the element of each slot, or +0
where none falls. A line goes with the transfer of its last contribution. -/
def skewLines (w : DWord) (y : List (BitVec 32)) (fmt : BitVec 4) (fs : List Fetched) : List Fetched :=
  let a := fs.toArray
  let eq := if xSwap w then xE0 w else xE1 w
  (List.range (eq + 127)).flatMap (fun ln =>
    let hit (p : Nat) : Option Fetched :=
      if p ≤ ln ∧ ln - p < eq then a[if xSwap w then p * xE0 w + (ln - p) else (ln - p) * xE0 w + p]? else none
    let run := (((List.range 128).filterMap hit).map Fetched.run).foldl max 0
    (List.range 128).map (fun p => match hit p with
      | some f => { f with run := run }
      | none => {
          p := { src := [], dst := (List.range 6).map (fun d =>
                   (nth y d 0 + (if d == 0 then BitVec.ofNat 32 p else if d == 1 then BitVec.ofNat 32 ln else 0)).toInt) },
          e := { fmt := fmt, code := 0, scale := 0, poison := false, na := none }, acc := Acc.init, run := run }))

/-- SP.XFER (R197–R200). -/
def State.spXfer (credit : Bool) (ecc : List EccHit) (k x : Nat) (w : DWord) (s : State) : State :=
  let c := (s.core k).se.ctx x
  let tab (i : Nat) : Option Desc := (c.held.find? (fun h => h.1 == i)).map Prod.snd
  match resolvePair tab false (xSrc w) (xDst w) with
  | none => s.spStop k x seDescFault 0
  | some (a, b) =>
    match s.relOffset k x (xSrcRel w) c.popHeld a.d, s.relOffset k x (xDstRel w) c.acqHeld b.d, c.prog with
    | some rs, some rd, some p =>
      let s := s.eccHits k ecc
      let cv : Cvt := { mode := xRnd w, key := s.srKey k p.roundTag.toNat p.roundSeq.toNat, indexBase := p.indexBase.toNat,
                        g16k := p.g16k.toInt }
      let fs := s.fetchPairs k a b rs rd (boxPairs w c.x c.y)
      let mv := s.moved a b rd cv fs (if xSkew w then skewLines w c.y b.d.fmt fs else fs)
      s.issueMove k x mv (if xMc w then c.groupRun else none) credit
    | _, _, _ => s.spStop k x seBadProg 0

def execSpXfer (l : SiteNo) (c : CoreNo) (x : BitVec 3) (ecc : XferReads) (s : State) : Res :=
  .next (s.spRun l c x 0x3 (State.spXfer ecc.credit ecc.ecc))

/-- A context begins to wait (R214, R227). -/
def State.spWait (s : State) (k x kind q : Nat) (site core : Nat) (acq : Bool) : State :=
  (s.modSeCtx k x (fun c => { c with
    waitKind := BitVec.ofNat 3 kind, waitHq := BitVec.ofNat 5 q, waitSite := BitVec.ofNat 6 site, waitCore := BitVec.ofNat 5 core })).beginWait
    k { endpoint := BitVec.ofNat 8 (x + 1), hq := BitVec.ofNat 5 q, acq := acq, rsite := BitVec.ofNat 6 site,
        rcore := BitVec.ofNat 5 core, since := s.tick, stalled := false }

/-- Queue q of core m has a remote producer. -/
def State.hqRemote (s : State) (m q : Nat) : Bool := ((s.hq m q).cfg.map HqCfg.remote).getD false

/-- A member has a free buffer for a context of core k: by its counters, or by the credit counter of a remote producer
(R205, R208, R211). DEDUCED, assumption 14. -/
def State.memberFree (s : State) (k q : Nat) (m : Nat × Nat × Nat) : Bool :=
  if s.hqRemote m.2.2 q then decide (0 < sget (fun _ => 0) (s.core k).se.remotes (remoteKey m.1 m.2.1 q))
  else (s.hq m.2.2 q).canAcquire

/-- Acquire on one member: the queue moves, and a remote producer gives up a credit. DEDUCED, assumption 14. -/
def State.memberAcquire (s : State) (k q : Nat) (m : Nat × Nat × Nat) : State :=
  let s := s.modHq m.2.2 q Hq.acquire
  if s.hqRemote m.2.2 q then s.modSe k (fun e =>
    let key := remoteKey m.1 m.2.1 q
    { e with remotes := sset (fun _ => 0) e.remotes key (sget (fun _ => 0) e.remotes key - 1) })
  else s

/-- A member's queue has an acquired handle that no push, landed or in the mesh, has made ready (R208). -/
def State.memberHeld (s : State) (q : Nat) (m : Nat × Nat × Nat) : Bool :=
  decide ((s.notices.filter (fun n => n.push && n.site.toNat == m.1 && n.core.toNat == m.2.1 && n.hq.toNat == q)).length
    < (s.hq m.2.2 q).heldP)

/-- Push on one member: its queue moves, at once or when the notice of a remote producer arrives (R208, R211). DEDUCED, assumption 14. -/
def State.memberPush (s : State) (q : Nat) (m : Nat × Nat × Nat) : State :=
  if s.hqRemote m.2.2 q then
    { s with notices := s.notices ++ [{
        push := true, site := BitVec.ofNat 6 m.1, core := BitVec.ofNat 5 m.2.1, hq := BitVec.ofNat 5 q, credits := 0,
        start := false }] }
  else s.modHq m.2.2 q (fun h => h.push s.tick)

/-- The queues that SP.ACQ or SP.PUSH acts on: its own core's, or every member's (R205). -/
def State.spMembers (s : State) (k x : Nat) (mc : Bool) : List (Nat × Nat × Nat) :=
  if mc then s.liveMembers k ((s.core k).se.ctx x).groupRun
  else [((s.whoIs k).1, (s.whoIs k).2, k)]

/-- The wait kind of R227 of an acquire that waits on a member. DEDUCED, assumption 74. -/
def State.acqWait (s : State) (mc : Bool) (q : Nat) (m : Nat × Nat × Nat) : Nat :=
  if mc then 4 else if s.hqRemote m.2.2 q then 3 else 2

/-- SP.ACQ (R205, R208, R211). -/
def State.spAcq (k x : Nat) (w : DWord) (s : State) : State :=
  let q := spF w 4 5
  let mc := spF w 9 1 == 1
  let ms := s.spMembers k x mc
  let shape (m : Nat × Nat × Nat) : Option (Nat × Nat) := (s.hq m.2.2 q).cfg.map (fun c => (c.count, c.bufSize))
  let first := ms.head?
  if ms.any (fun m => !s.mayProduce k x m.2.2 q) then s.spStop k x seHqOwner q
  else if !ms.all (fun m => shape m == first.bind shape) then s.spStop k x seMismatch q
  else match ms.find? (fun m => !s.memberFree k q m) with
  | some m => s.spWait k x (s.acqWait mc q m) q m.1 m.2.1 true
  | none =>
    let h := (first.map (fun m => (s.hq m.2.2 q).pAcq)).getD 0
    if !ms.all (fun m => (s.hq m.2.2 q).pAcq == h) then s.spStop k x seMismatch q
    else
      let s := ms.foldl (fun s m => s.memberAcquire k q m) s
      (s.modSeCtx k x (fun c => { c with acqHeld := c.acqHeld ++ [{ hq := BitVec.ofNat 5 q, handle := h, mc := mc }] })).spNext k x

def execSpAcq (l : SiteNo) (c : CoreNo) (x : BitVec 3) (s : State) : Res := .next (s.spRun l c x 0x4 State.spAcq)

/-- Remove the oldest held buffer of a queue. -/
def dropHeld (q : Nat) : List HeldBuf → List HeldBuf
  | [] => []
  | b :: r => if b.hq.toNat == q then r else b :: dropHeld q r

/-- SP.PUSH: once the context's writes have landed, the oldest acquired handle becomes ready here, or on every member
(R205, R208, R209, R211). DEDUCED, assumption 36. -/
def State.spPush (k x : Nat) (w : DWord) (s : State) : State :=
  let q := spF w 4 5
  let ms := s.spMembers k x (spF w 9 1 == 1)
  if ms.any (fun m => !s.mayProduce k x m.2.2 q) then s.spStop k x seHqOwner q
  else if !ms.all (s.memberHeld q) then s.spStop k x seBadProg q
  else if !((s.core k).se.ctx x).inflight.isEmpty then s
  else
    let s := ms.foldl (fun s m => s.memberPush q m) s
    (s.modSeCtx k x (fun c => { c with acqHeld := dropHeld q c.acqHeld })).spNext k x

def execSpPush (l : SiteNo) (c : CoreNo) (x : BitVec 3) (s : State) : Res := .next (s.spRun l c x 0x5 State.spPush)

/-- SP.POP (R208, R219). -/
def State.spPop (k x : Nat) (w : DWord) (s : State) : State :=
  let q := spF w 4 5
  let who := s.whoIs k
  if !s.mayConsume k x q then s.spStop k x seHqOwner q
  else if !(s.hq k q).canPop then s.spWait k x 1 q who.1 who.2 false
  else
    let r := s.hqPop k q
    (r.2.modSeCtx k x (fun c => { c with popHeld := c.popHeld ++ [{ hq := BitVec.ofNat 5 q, handle := r.1, mc := false }] })).spNext k x

def execSpPop (l : SiteNo) (c : CoreNo) (x : BitVec 3) (s : State) : Res := .next (s.spRun l c x 0x6 State.spPop)

/-- SP.REL: once the context's reads are complete, the oldest popped handle is free (R208, R209). DEDUCED, assumption 36. -/
def State.spRel (k x : Nat) (w : DWord) (s : State) : State :=
  let q := spF w 4 5
  if !s.mayConsume k x q then s.spStop k x seHqOwner q
  else if (s.hq k q).heldC == 0 then s.spStop k x seBadProg q
  else if !((s.core k).se.ctx x).inflight.isEmpty then s
  else ((s.modSeCtx k x (fun c => { c with popHeld := dropHeld q c.popHeld })).hqRelease k q).spNext k x

def execSpRel (l : SiteNo) (c : CoreNo) (x : BitVec 3) (s : State) : Res := .next (s.spRun l c x 0x7 State.spRel)

/-- SP.WAITT (R195): the tick is that of the present paced period. -/
def State.spWaitt (k x : Nat) (w : DWord) (s : State) : State :=
  let start := match (s.core k).ctx with
    | some n => (s.ctx n.toNat).pStart
    | none => 0
  let target := start + BitVec.ofNat 64 (spF w 4 32)
  if ((s.core k).se.ctx x).waitKind == 6 then s
  else if s.tick.toNat ≥ target.toNat then s.spNext k x
  else s.modSeCtx k x (fun c => { c with waitKind := 6, waitTick := target })

def execSpWaitt (l : SiteNo) (c : CoreNo) (x : BitVec 3) (s : State) : Res := .next (s.spRun l c x 0x9 State.spWaitt)

/-- SP_WAITT_TICK_REACHED: the sidereal counter has reached the tick, and the program goes on. -/
def execSpWaittTickReached (l : SiteNo) (c : CoreNo) (x : BitVec 3) (s : State) : Res :=
  .next (s.spRun l c x 0x9 (fun k x _ s =>
    let cx := (s.core k).se.ctx x
    if cx.waitKind == 6 && decide (cx.waitTick.toNat ≤ s.tick.toNat) then s.spNext k x else s))

/-! ## Transfers land (R201, R204, R220) -/

/-- The oldest transfer of a context completes. One that reads from, or writes to, a site retired since it was issued
completes with site_lost: what it read is 0 and is not written, and what it writes there is discarded (00 R5, 01 R27). -/
def State.xferDone (s : State) (k x : Nat) : State :=
  let c := (s.core k).se.ctx x
  match c.inflight with
  | [] => s
  | t :: rest =>
    let tag := c.tag
    let blind := t.srcs.any (fun p => !s.present p)
    let t := if t.landed then t
      else { t with lost := t.lost || blind || t.writes.any s.wrGone, writes := if blind then [] else t.writes }
    let s := if t.landed then s else (s.landStream (.se k x) t.writes).numStat k tag ((c.q.map QEntry.order).getD 0) t.nan t.inf t.sat
    if s.protBusy t.writes then s.modSeCtx k x (fun c => { c with inflight := { t with landed := true } :: rest })
    else
      let s := s.modSeCtx k x (fun c => { c with inflight := rest })
      let s := s.modSe k (fun e => { e with xferCnt := e.xferCnt + 1 })
      let s := if t.poison then s.raise (.se k) 17 else s
      let stop (cause : Nat) : State := if c.err then (s.raise (.se k) cause).logCtx k x cause else s.spStop k x cause 0
      let s := if t.sealedOut then stop seDescFault
        else if t.lost then (if t.mc then (s.raise (.se k) 18).logCtx k x 18 else stop 18) else s
      (s.modSe k (fun e => e.issueAll s.pwr.slots)).drainCtx k x

def execTransferComplete (l : SiteNo) (c : CoreNo) (x : BitVec 3) (s : State) : Res :=
  match s.key l c with
  | some k => .next (s.xferDone k x.toNat)
  | none => .next s

/-- SE_CTL.pause (R222, R224): contexts stop at their next instruction boundary, or go on. -/
def execSeCtlPause (l : SiteNo) (c : CoreNo) (pause : Bool) (s : State) : Res :=
  match s.key l c with
  | some k => .next (s.modSe k (fun e => { e with pause := pause }))
  | none => .next s

/-- SE_STAT.paused (R224): pause is set and every context has stopped between instructions. -/
def Se.paused (e : Se) : Bool :=
  e.pause && (List.range 8).all (fun x => let c := e.ctx x; !c.running || (c.toIssue.isEmpty && c.inflight.isEmpty))

end Sys2Proof.Machine
end

