-- ==== Sys2Proof/Machine/Rings.lean ====
section
/-! DEFINITION. What the orrery does with memory and contexts everywhere: its own reads and writes, the cores of a
context, rings and completion records (13 R399–R406), Almanac entries by kind (R412), host interrupts (R387). -/

namespace Sys2Proof.Machine

/-! ## Memory as the orrery sees it (R392: all of the firmware region, the physical view) -/

def State.orrReq (s : State) : Requester := .orrery s.orr.lead
def State.oread (s : State) (a n : Nat) : List Byte := s.readRun s.orrReq a n
/-- The orrery has read a run: what it met is recorded (12 R377, 00 R5). -/
def State.oseen (s : State) (a n : Nat) : State := s.seenRun s.orrReq none a n
def State.onat (s : State) (a n : Nat) : Nat := leNat (s.oread a n)
def State.owrite (s : State) (a : Nat) (bs : List Byte) : State := s.writeNow s.orrReq none a bs

/-- An area of a driver lies in GDDR7 outside the firmware region (R392, R399, R406). -/
def areaOk (a n : Nat) : Bool := decide (a + n ≤ fwBase)

/-- Two areas share a byte. -/
def overlap (a n b m : Nat) : Bool := decide (0 < n ∧ 0 < m ∧ a < b + m ∧ b < a + n)

/-! ## Cores of a context -/

/-- Logical sites of a context. -/
def State.ctxSites (s : State) (n : Nat) : List Nat := onesOf 64 (s.ctx n).desc.sites.toNat

/-- Cores of some logical sites: site, presented core, key; absent sites have none. -/
def State.coresOf (s : State) (ls : List Nat) : List (Nat × Nat × Nat) :=
  ls.flatMap (fun l => match s.physOf l with
    | some p => (List.range 32).map (fun c => (l, c, s.keyOf p c))
    | none => [])

def State.ctxCores (s : State) (n : Nat) : List (Nat × Nat × Nat) := s.coresOf (s.ctxSites n)

/-- The cores a submission entry names (R404). -/
def State.entryCores (s : State) (e : Entry) : List (Nat × Nat × Nat) :=
  (s.coresOf (onesOf 64 e.sites.toNat)).filter (fun x => bitAt e.cores.toNat x.2.1)

/-- Apply a change to every core of a list. -/
def State.eachCore (s : State) (cs : List (Nat × Nat × Nat)) (f : Core → Core) : State :=
  cs.foldl (fun s x => s.modCore x.2.2 f) s

/-- VE_STAT.idle: lanes, ports, table port and queue (04 R141). -/
def Ve.idle (v : Ve) : Bool := v.queue.isEmpty && v.chain.isNone && v.tloads.isEmpty && v.swaps.isEmpty && v.popped.isNone

/-- SE_STAT.idle: no context running, queue empty, no transfer in flight (07 R224). -/
def Se.idle (e : Se) : Bool :=
  e.queue.isEmpty && e.fence.isNone && (List.range 8).all (fun x =>
    !(e.ctx x).running && (e.ctx x).inflight.isEmpty && (e.ctx x).toIssue.isEmpty)

/-- All engines of a core read idle. -/
def Core.idle (c : Core) : Bool := c.me.idle && c.ve.idle && c.se.idle

/-- An entry has finished on a core: CC stopped, engines idle (R405). -/
def Core.finished (c : Core) : Bool := c.cc.st == .stopped && c.idle

/-- Contexts whose cores overlap a context's. -/
def State.overlaps (s : State) (m n : Nat) : Bool := ((s.ctx m).desc.sites &&& (s.ctx n).desc.sites) != 0

/-! ## Host interrupts (R387) -/

def State.plic (s : State) (src : Nat) : State := { s with host := { s.host with plic := setBit s.host.plic src true } }

/-- The pending sources: those raised, and source 18 for as long as an unmasked GIS bit is set, unless it is being served. -/
def State.plicPending (s : State) : BitVec 23 :=
  setBit s.host.plic 18 (s.intAsserted && !s.host.claimed.any (fun c => c.2 == 18))

/-- The supervisor external interrupt of a presented hart: a pending source that the OS enables for it. -/
def State.hartInt (s : State) (h : Nat) : Bool := (s.plicPending &&& sget (fun _ => 0) s.host.enables h) != 0

/-- The OS enables a set of the sources 1 to 22 for a hart. -/
def HostCl.enable (c : HostCl) (h : Nat) (m : BitVec 23) : HostCl := { c with enables := sset (fun _ => 0) c.enables h (setBit m 0 false) }

/-- A hart claims a source that is pending and enabled for it. -/
def State.plicClaim (s : State) (h src : Nat) : HostCl :=
  if bitAt (s.plicPending &&& sget (fun _ => 0) s.host.enables h).toNat src then
    { s.host with plic := setBit s.host.plic src false, claimed := s.host.claimed ++ [(h, src)] }
  else s.host

/-- A hart completes the source it claimed first. -/
def HostCl.complete (c : HostCl) (h : Nat) : HostCl :=
  { c with claimed := c.claimed.eraseIdx (c.claimed.findIdx (fun x => x.1 == h)) }

/-- What the OS does at its interrupt controller within a tick, for which the table has no row: nothing, or an enable, a
claim or a completion by some hart. A free choice. DESIGN CHOICE, assumption 83. -/
def State.osActs (s : State) (n : Nat) : HostCl :=
  let h := (Config.freeWord 4 n).toNat
  let v := Config.freeWord 23 (n + 1)
  match (Config.freeWord 2 (n + 2)).toNat with
  | 0 => s.host
  | 1 => s.host.enable h v
  | 2 => s.plicClaim h (v.toNat % 32)
  | _ => s.host.complete h

/-- A tick of the host cluster, once hart 0 runs. -/
def State.hostTick (s : State) : State :=
  if s.host.hart0 then
    let (n, s) := s.fresh 3
    { s with host := s.osActs n }
  else s

/-! ## Almanac entries (R412). The manual names what each payload holds, not where: assumption 15. -/

/-- DESIGN CHOICE, assumption 15. -/
def State.almCtx (s : State) (n op : Nat) : State :=
  s.almanac 0x0A .open_ (some (BitVec.ofNat 4 n)) 0 [BitVec.ofNat 8 op]
/-- DESIGN CHOICE, assumption 15. -/
def State.almDriver (s : State) (op : Nat) : State := s.almanac 0x09 .open_ none 0 [BitVec.ofNat 8 op]
/-- DESIGN CHOICE, assumption 15. -/
def State.almFw (s : State) (op : Nat) (v : Word) : State := s.almanac 0x08 .open_ none 0 (BitVec.ofNat 8 op :: leBytes 4 v.toNat)
/-- DESIGN CHOICE, assumption 15. -/
def State.almOrr (s : State) (op oc : Nat) : State := s.almanac 0x07 .open_ none (originOc oc) [BitVec.ofNat 8 op]
/-- DESIGN CHOICE, assumption 15. -/
def State.almGraft (s : State) (kind old new : Nat) (ticks : Nat) : State :=
  s.almanac 0x06 .open_ none 0 (BitVec.ofNat 8 kind :: leBytes 4 old ++ leBytes 4 new ++ leBytes 4 ticks)

/-! ## Orrery SRAM (R397; 01 R17) -/

/-- The I/O die that holds a byte of orrery SRAM: 1 MiB on each (01 R17). -/
def sramDie (a : Nat) : Nat := a / mib

/-- The snapshot area of a context: 64 KiB of [2 MiB, 3 MiB). -/
def snapshotAt (n : Nat) : Nat := 2 * mib + 65536 * n

/-- Bytes of SRAM whose layout the manual leaves to the firmware are written: their contents are undefined. DESIGN CHOICE, assumption 79. -/
def State.sramWritten (s : State) (lo hi : Nat) : State :=
  let (n, s) := s.fresh 1
  s.modOrr (fun o => { o with sram := o.sram.respoil lo hi n })

/-! ## Rings (R403) -/

/-- The address of entry `j` of a ring of `n` entries of `size` bytes. -/
def ringAt (base size n j : Nat) : Nat := base + 128 + size * (j % n)

/-- A completion record (R405, R406). -/
def completion (seq : Word) (status : Byte) (stopCode stopCore : Half) (tick : DWord) (nLog : Nat) : List Byte :=
  leBytes 4 seq.toNat ++ [status, 0] ++ leBytes 2 stopCode.toNat ++ leBytes 2 stopCore.toNat ++ leBytes 8 tick.toNat
    ++ leBytes 4 nLog ++ List.replicate 10 0

/-- Write the next record of a context's completion ring, then its producer index; the irq flag raises its PLIC
source (R387). -/
def State.complete (s : State) (n : Nat) (irq : Bool) (r : List Byte) : State :=
  let c := s.ctx n
  let s := s.owrite (ringAt c.desc.cplAddr 32 c.desc.cplN c.cplProd) r
  let s := s.owrite c.desc.cplAddr (leBytes 8 (c.cplProd + 1))
  let s := s.modCtx n (fun c => { c with cplProd := c.cplProd + 1 })
  if irq then s.plic (1 + n) else s

/-- CC_ERRLOG entries made by the cores of an entry since its start. -/
def State.logsOf (s : State) (e : Entry) : Nat :=
  (e.logAt.map (fun x => match e.doneOn.find? (fun d => d.1 == x.1) with
    | some d => (d.2.2 - x.2).toNat
    | none => ((s.core x.1).cc.errSeq - x.2).toNat)).sum

/-- The stop code of a core for an entry. DEDUCED, assumption 23. -/
def State.stopCodeOf (s : State) (e : Entry) (k : Nat) : Half :=
  match e.doneOn.find? (fun d => d.1 == k) with
  | some d => d.2.1
  | none => (s.core k).cc.stopCode

/-- The record of a finished entry: status 0 becomes 1 when its cores logged (R405). -/
def State.entryRecord (s : State) (e : Entry) : List Byte :=
  let cs := s.entryCores e
  let hit := if e.started && (e.kind == 2 || e.kind == 3) then cs.find? (fun x => s.stopCodeOf e x.2.2 != 0) else none
  let code := (hit.map (fun x => s.stopCodeOf e x.2.2)).getD 0
  let who := (hit.map (fun x => originCore x.1 x.2.1 + 0x8000)).getD 0
  let logs := s.logsOf e
  completion e.seq (if e.status == 0 && logs != 0 then 1 else e.status) code who s.tick logs

/-! ## Records of a core in the shape of assumption 15 -/

/-- Clear the context state of a core but for its memories (03 R95, 04 R139, 06 R165, 07 R222, 08 R257). -/
def Core.wipeRegs (c : Core) : Core :=
  { c with
    cc := { c.cc with
      regs := [], pc := 0, bank := false, loops := [], st := .stopped, stopCode := 0, verA := 0, verB := 0,
      meCnt := EngCnt.init, veCnt := EngCnt.init, seCnt := EngCnt.init, numStat := NumStat.init, hazard := [],
      ctl := { c.cc.ctl with pause := false, beaconMask := 0, suppress := false, logMark := c.cc.errSeq } },
    me := { c.me with feeds := [], scaleOk := 0, rmask := BitVec.allOnes 128, queue := [], jobs := [], pinned := 0,
                      sealedT := 0, haltedT := 0 },
    ve := { c.ve with queue := [], popped := none, chain := none, tloads := [], swaps := [], bank := 0, bankStat := 0,
                      permOor := false, rowEmptySeen := false, haltedV := false, tables := [] },
    se := { c.se with queue := [], ctxs := [], hqs := [], remotes := [], tdescs := [], tdStat := 0, waitLimit := 0xE57E0,
                      pause := false, haltedS := false, fence := none, waits := [] },
    stepNo := 0 }

/-- Clear all context state of a core: registers, IMEM, DMEM, tiles, scratchpad. -/
def Core.wipe (c : Core) : Core :=
  let c := c.wipeRegs
  { c with
    cc := { c.cc with dmem := Mem.zero, dmemPoison := [], imemA := Mem.zero, imemB := Mem.zero, imemBusy := [] },
    me := { c.me with tiles := [], accPoison := [] },
    sp := Mem.zero, spPoison := [] }

end Sys2Proof.Machine
end

