-- ==== Sys2Proof/Machine/Trellis.lean ====
section
/-! DEFINITION. Trellis (10): memberships, records and tag tables, handoffs, the send pass, closing, reduction and
write-back, folding, heartbeats. -/

namespace Sys2Proof.Machine

/-! ## Members (R300–R302) -/

/-- Primary members, in rank order. -/
def Membership.primaries (m : Membership) : List Member := m.members.filter (fun e => e.role == 0)
def Membership.n (m : Membership) : Nat := m.primaries.length

/-- Role and rank of a fabric address: a shadow's rank is the one it backs; 2 and 0 for a spare or a stranger. -/
def Membership.place (m : Membership) (addr : BitVec 13) : Nat × Nat :=
  match m.members.find? (fun e => e.addr == addr) with
  | some e =>
    if e.role == 0 then (0, m.primaries.findIdx (fun x => x.addr == addr)) else if e.role == 1 then (1, e.backupOf) else (2, 0)
  | none => (2, 0)

/-- The membership in force: that of the bound context. -/
def State.membership (s : State) : Option Membership := s.trellis.cfg.bind (fun c => (s.ctx c.ctx.toNat).membership)

/-- Number of primaries, epoch, own role and rank: alone when no membership is in force. -/
structure Self where
  n : Nat
  epoch : Word
  role : Nat
  rank : Nat
deriving DecidableEq, Repr

def State.selfOf (s : State) (m : Option Membership) : Self :=
  match m with
  | some m => let p := m.place s.fab.addr; { n := m.n, epoch := m.epoch, role := p.1, rank := p.2 }
  | none => { n := 1, epoch := 0, role := 0, rank := 0 }

def State.self (s : State) : Self := s.selfOf s.membership

/-- The fabric address of a primary rank. -/
def State.rankAddr (s : State) (r : Nat) : BitVec 13 :=
  ((s.membership.bind (fun m => m.primaries[r]?)).map Member.addr).getD s.fab.addr

/-- Parent and children in the tree (R302). -/
def treeParent (r : Nat) : Option Nat := if r == 0 then none else some ((r - 1) / 2)
def treeChildren (n r : Nat) : List Nat := [2 * r + 1, 2 * r + 2].filter (· < n)

/-- Read a membership list (R300): epoch, entries, and whether a reserved field is non-zero or a role is unknown. -/
def readList (bs : List Byte) (entries : List (List Byte)) : Membership × Bool :=
  let ms := entries.map (fun e => ({ addr := BitVec.ofNat 13 (bfld e 0 2), backupOf := bfld e 2 2, role := bfld e 4 1 } : Member))
  let bad := bfld bs 10 54 != 0 || entries.any (fun e => decide (bfld e 0 2 ≥ 8192) || decide (bfld e 4 1 > 2) || bfld e 5 3 != 0)
  ({ epoch := BitVec.ofNat 32 (bfld bs 0 4), members := ms }, bad)

def noDup (l : List Nat) : Bool := l.eraseDups.length == l.length

/-- The list breaks R300 against the epoch in force. DEDUCED, assumption 46. -/
def listBad (force : Word) (np ns nx : Nat) (m : Membership) (reserved : Bool) : Bool :=
  let sh := m.members.filter (fun e => e.role == 1)
  let want := List.replicate np 0 ++ List.replicate ns 1 ++ List.replicate nx 2
  reserved || decide (np < 1) || decide (np > 8192) || decide (ns > np) || decide (nx > 1024) ||
    m.members.map Member.role != want || !noDup (m.members.map (fun e => e.addr.toNat)) ||
    sh.any (fun e => decide (e.backupOf ≥ np)) || !noDup (sh.map Member.backupOf) ||
    m.members.any (fun e => e.role != 1 && e.backupOf != 0xFFFF) || decide (m.epoch.toNat ≤ force.toNat)

/-- Bytes of the membership list at an address. -/
def State.listLen (s : State) (a : Nat) : Nat :=
  let h := s.oread a 64
  64 + 8 * (bfld h 4 2 + bfld h 6 2 + bfld h 8 2)

/-- The membership list at an address, if R300 accepts it. -/
def State.listAt (s : State) (a : Nat) (force : Word) : Option Membership :=
  let h := s.oread a 64
  let np := bfld h 4 2
  let ns := bfld h 6 2
  let nx := bfld h 8 2
  let r := readList h ((List.range (np + ns + nx)).map (fun i => s.oread (a + 64 + 8 * i) 8))
  if listBad force np ns nx r.1 r.2 then none else some r.1

/-- A list the driver placed. -/
def State.loadList (s : State) (a : Nat) (force : Word) : Option Membership :=
  if a % 64 != 0 || !areaOk a (s.listLen a) then none else s.listAt a force

/-- The bytes of a membership list (R300). -/
def Membership.bytes (m : Membership) : List Byte :=
  let k (r : Nat) : Nat := (m.members.filter (fun e => e.role == r)).length
  leBytes 4 m.epoch.toNat ++ leBytes 2 (k 0) ++ leBytes 2 (k 1) ++ leBytes 2 (k 2) ++ List.replicate 54 0
    ++ m.members.flatMap (fun e => leBytes 2 e.addr.toNat ++ leBytes 2 e.backupOf ++ leBytes 1 e.role ++ [0, 0, 0])

/-! ## Records and tag tables (R303, R305) -/

def TagEntry.bytes (t : TagEntry) : Nat := 512 * t.units

/-- A tag table entry; none when it breaks R305. -/
def State.loadTag (s : State) (a : Nat) : Option TagEntry :=
  let b := s.oread a 32
  let units := bfld b 0 2 + 1
  let fl := bfld b 2 1
  let nx := bfld b 3 1
  let ea := bfld b 8 6
  let ext := (List.range nx).map (fun i => (s.onat (ea + 16 * i) 6, s.onat (ea + 16 * i + 6) 4, s.onat (ea + 16 * i + 10) 6))
  let expect := bfld b 4 2
  let ret := bfld b 16 6
  let bad := decide (units > 32768) || decide (fl ≥ 16) || rndReserved (BitVec.ofNat 3 (fl / 2)) || decide (nx < 1) || decide (nx > 32)
    || decide (expect < 1) || decide (expect > 2048) || bfld b 6 2 != 0 || bfld b 14 2 != 0 || bfld b 22 10 != 0
    || ret % 512 != 0 || !areaOk ret (512 * units) || !areaOk ea (16 * nx)
    || ext.any (fun e => e.1 % 512 != 0 || e.2.1 % 512 != 0 || e.2.2 != 0 || (s.regionOf e.1 e.2.1).isNone)
    || (ext.map (fun e => e.2.1)).sum != 512 * units
  if bad then none
  else some { units := units, lenient := bitAt fl 0, rnd := BitVec.ofNat 3 (fl / 2), ext := ext.map (fun e => (e.1, e.2.1)),
              expect := expect, ret := ret }

/-- The GDDR7 areas a record has Trellis write: staging, fold, completion ring, retained areas. -/
def TrCfg.areas (c : TrCfg) : List (Nat × Nat) :=
  [(c.stageAddr, 4 * c.stageMib * mib), (c.foldAddr, c.foldMib * mib), (c.complAddr, 64 * c.complN)]
    ++ c.tags.map (fun t => (t.ret, t.bytes))

/-- No two areas of a list overlap. -/
def disjoint : List (Nat × Nat) → Bool
  | [] => true
  | a :: r => r.all (fun b => !overlap a.1 a.2 b.1 b.2) && disjoint r

/-- Ranges that lie in the sealed ranges of a context (14 R436). -/
def State.inSeal (s : State) (n : Nat) (a len : Nat) : Bool :=
  !s.sealedNow n || (s.seal n).ranges.any (fun r => decide (r.1 ≤ a ∧ a + len ≤ r.1 + r.2))

/-- The Trellis record of a context at its address; none when R303 or R305 refuses it. DEDUCED, assumption 46. -/
def State.loadRecord (s : State) (n : Nat) : Option (TrCfg × Nat) :=
  let a := (s.ctx n).desc.trellisAddr
  let b := s.oread a 64
  let nt := bfld b 12 2
  let ta := bfld b 6 6
  let tags := (List.range nt).map (fun i => s.loadTag (ta + 32 * i))
  let c : TrCfg :=
    { ctx := BitVec.ofNat 4 n, ctxKey := (s.ctx n).desc.ctxKey, stageAddr := bfld b 16 6, stageMib := bfld b 22 4,
      foldAddr := bfld b 26 6, foldMib := bfld b 32 4, complAddr := bfld b 36 6, complN := bfld b 42 2, tags := tags.filterMap id }
  let stash := s.gddr.stash.filterMap (fun r => if r.2.en then some (r.2.base.toNat * mib, r.2.sizeMib.toNat * mib) else none)
  let bad := decide (nt < 1) || decide (nt > 4096) || tags.any Option.isNone || bfld b 14 2 != 0 || bfld b 44 20 != 0
    || ta % 64 != 0 || !areaOk ta (32 * nt) || c.stageAddr % 4096 != 0 || decide (c.stageMib < 1) || decide (c.stageMib > 16384)
    || c.foldAddr % 4096 != 0 || decide (c.foldMib > 16384) || c.complAddr % 64 != 0 || decide (c.complN < 2 * nt)
    || decide ((c.tags.filter TagEntry.lenient).length > nt / 16)
  let la := bfld b 0 6
  let all := (la, s.listLen la) :: (ta, 32 * nt) :: c.areas
  let areas := all.all (fun r => areaOk r.1 r.2 && stash.all (fun q => !overlap r.1 r.2 q.1 q.2)) && disjoint all
    && c.areas.all (fun r => s.inSeal n r.1 r.2)
  if bad || !areas then none else some (c, la)

/-! ## Dies (R306, 15 R458) -/

/-- The die that runs a tag: its home die, or the die that took over when both halves of it have failed. DEDUCED, assumption 59. -/
def State.dieOf (s : State) (t : Nat) : Nat :=
  let x := t % 4
  if (s.xd x).halves == 3 then (([1, 2, 3].map (fun i => (x + i) % 4)).find? (fun y => (s.xd y).halves != 3)).getD x else x

/-- The entry of a tag of the bound context; none on a die whose TR_CTL does not have Trellis active for it (R325). -/
def State.tag (s : State) (t : Nat) : Option TagEntry :=
  let d := (s.xd (s.dieOf t)).tr
  s.trellis.cfg.bind (fun c => if d.en && d.ctx == c.ctx then c.tags[t]? else none)

/-- The step Trellis works on. -/
def State.trStep (s : State) : Word := (s.xd 0).tr.step

/-- TR_STAT.idle of every die: no bucket running or pending, no owner work (R325). -/
def State.trIdle (s : State) : Bool :=
  (List.range 4).all (fun x => (s.xd x).tr.running.isEmpty && (s.xd x).tr.pendingTags.isEmpty) && s.trellis.closes.isEmpty

/-- Set TR_EPOCH on all dies (R324). -/
def State.setEpoch (s : State) : State :=
  let m := s.self
  let v := reg64 [(m.epoch.toNat, 0), (m.n % 2 ^ 14, 32), (m.rank % 2 ^ 14, 48), (m.role, 62)]
  (List.range 4).foldl (fun s x => s.modTr x (fun d => { d with epoch := v })) s

def epochOf (v : DWord) : Word := v.setWidth 32

/-- bad_cfg on every die (R326). -/
def State.raiseCfg (s : State) : State := (List.range 4).foldl (fun s x => s.raiseTr x 0 0 0 0) s

/-- Refuse a record, list or tag table: bad_cfg on every die, and the report to the driver (R303); the context is not
tried again. DEDUCED, assumption 46. -/
def State.badCfg (s : State) (n : Nat) : State :=
  let s := (List.range 4).foldl (fun s x => s.modTr x (fun d => { d with cfgValid := false })) s.raiseCfg
  (s.modCtx n (fun c => { c with trRefused := true })).almCtx n 8

/-- The runs that the check of a context's record reads: the record, its tag table with each tag's extents, the list. -/
def State.recordRuns (s : State) (n : Nat) : List (Nat × Nat) :=
  let a := (s.ctx n).desc.trellisAddr
  let b := s.oread a 64
  let ta := bfld b 6 6
  let nt := bfld b 12 2
  [(a, 64), (ta, 32 * nt)] ++ (List.range nt).map (fun i => (bfld (s.oread (ta + 32 * i) 32) 8 6, 16 * bfld (s.oread (ta + 32 * i) 32) 3 1))
    ++ [(bfld b 0 6, s.listLen (bfld b 0 6))]

/-- TRELLIS_BINDING (R303, R304): write the record's address, TR_CTL.ctx and en on all dies, and check record, list and
tag table. DEDUCED, assumption 46. -/
def State.bind (s : State) (n : Nat) : State :=
  let a := (s.ctx n).desc.trellisAddr
  let s := (List.range 4).foldl (fun s x => s.modTr x (fun d => { d with
    en := true, ctx := BitVec.ofNat 4 n, recAddr := BitVec.ofNat 48 a, cfgValid := true, totals := [], step := (s.ctx n).srec.step })) s
  let s := s.seenRuns s.orrReq (s.recordRuns n)
  match s.loadRecord n with
  | none => { s.badCfg n with trellis := { s.trellis with cfg := none } }
  | some (cfg, la) =>
    let m := match (s.ctx n).membership with
      | some m => some m
      | none => s.loadList la (epochOf (s.xd 0).tr.epoch)
    match m with
    | none => { s.badCfg n with trellis := { s.trellis with cfg := none } }
    | some m =>
      let s := s.modCtx n (fun c => { c with membership := some m })
      ({ s with trellis := { s.trellis with
          cfg := some cfg, heads := [], staging := [], closes := [], owed := [], retained := [], complete := [], status := [],
          handed := [], watch := [], failed := [] } } : State).setEpoch

/-! ## Segments (R308) -/

def segCount (n units : Nat) : Nat := min n units
/-- Units of segment i: first and one past the last. -/
def segUnits (units sN i : Nat) : Nat × Nat := (i * units / sN, (i + 1) * units / sN)
/-- The owner of a segment of tag t. -/
def segOwner (n t sN i : Nat) : Nat := (t / 4 * sN + i) % n
/-- The rank of a bucket's head. -/
def headRank (n t units : Nat) : Nat := segOwner n t (segCount n units) 0

/-! ## Reading and writing for a bucket -/

/-- A G16 element of local memory, and whether its word was poisoned (R309: then canonical NaN). -/
def State.g16At (s : State) (n a : Nat) : Half × Bool :=
  let r := s.readAs .fabric (some n) a 2
  if r.poison then (BitVec.ofNat 16 layG16.nanCode, true) else (BitVec.ofNat 16 (leNat r.bytes), false)

/-- The address of a byte of a bucket: the concatenation of its extents (R305). -/
def extAddr : List (Nat × Nat) → Nat → Nat
  | [], o => o
  | (a, len) :: r, o => if o < len then a + o else extAddr r (o - len)

/-- Elements of units [lo, hi) of a bucket. -/
def State.bucketElems (s : State) (n : Nat) (e : TagEntry) (lo hi : Nat) : List (Half × Bool) :=
  (List.range (256 * (hi - lo))).map (fun i => s.g16At n (extAddr e.ext (512 * lo + 2 * i)))

/-- The extents of a bucket have been read for its context. -/
def State.bucketSeen (s : State) (n : Nat) (e : TagEntry) : State :=
  e.ext.foldl (fun s r => s.seenRun .fabric (some n) r.1 r.2) s

/-! ## Handing over (R307) -/

/-- Why a handoff is ignored, or its tag and count. -/
def State.handoffOf (s : State) (x : Nat) (bs : List Byte) : Option (Nat × TagEntry × Nat) :=
  let t := bfld bs 0 2
  if bs.length != 64 || decide (t ≥ 4096) || bfld bs 8 56 != 0 || t % 4 != x then none
  else match s.tag t with
    | none => none
    | some e =>
      let n := bfld bs 6 2
      if bfld bs 2 4 != s.trStep.toNat || decide (n < 1) || decide (n > 2048) then none
      else if sget (fun _ => 0) (s.xd x).tr.totals t + n > e.expect then none
      else some (t, e, n)

/-- The bucket of a tag as it stands now: what Trellis reads at handoff. -/
def State.keepBucket (s : State) (t : Nat) (e : TagEntry) : State :=
  let n := ((s.trellis.cfg.map TrCfg.ctx).getD 0).toNat
  let es := s.bucketElems n e 0 e.units
  let t := BitVec.ofNat 12 t
  { s with trellis := { s.trellis with handed := s.trellis.handed.filter (fun h => h.1 != t) ++ [(t, es)] } }

/-- A write reaches TR_HANDOFF: counted, or ignored with bad_handoff (R307). -/
def State.handoff (s : State) (x : Nat) (bs : List Byte) : State :=
  match s.handoffOf x bs with
  | none => s.raiseTr (s.dieOf x) 1 (bfld bs 0 2) 0 s.trStep.toNat
  | some (t, e, n) =>
    let total := sget (fun _ => 0) (s.xd x).tr.totals t + n
    let s := s.modTr x (fun d => { d with totals := sset (fun _ => 0) d.totals t total })
    if total == e.expect then
      (s.keepBucket t e).modTr (s.dieOf t) (fun d => { d with pendingTags := d.pendingTags ++ [BitVec.ofNat 12 t] })
    else s

/-- TR_HANDOFF: a 64-byte write reaches the window of die `xd` (R307). DEDUCED, assumption 48. -/
def execTrHandoff (xd : BitVec 2) (payload : List Byte) (s : State) : Res := .next (s.handoff xd.toNat payload)

/-- ⌊log₂|g|⌋ of a finite non-zero G16 code; −128 otherwise (R309). -/
def g16Exp (c : Half) : Int :=
  match layG16.decode c.toNat with
  | .fin _ m e => if m == 0 then -128 else (Nat.log2 m : Int) + e
  | _ => -128

def g16NonFinite (c : Half) : Bool := codeNan fmtG16 c.toNat || codeInf fmtG16 c.toNat

def maxInt (l : List Int) : Int := l.foldl max (-128)

/-! ## Folding (R317) -/

/-- FOLD_LIMIT. -/
def State.foldLimit (s : State) : Nat := (s.xd 0).tr.fold.toNat

/-- A late copy is dropped. DEDUCED, assumption 47. -/
def State.foldDrop (s : State) (t rank step : Nat) : State := s.raiseTr (s.dieOf t) 7 t rank step

/-- Steps between an origin step and the step Trellis works on. -/
def State.stepsSince (s : State) (o : Word) : Nat := (s.trStep - o).toNat

/-- A step that Trellis has not begun. -/
def State.ahead (s : State) (o : Word) : Bool := decide (s.stepsSince o ≥ 2 ^ 31)

/-- A message is of the step Trellis works on or of one it has not begun. -/
def State.current (s : State) (step : Word) : Bool := step == s.trStep || s.ahead step

/-- The close notice of a tag's bucket in a step. -/
def State.closedAt (s : State) (t : BitVec 12) (step : Word) : Option CloseNotice :=
  (s.trellis.status.find? (fun q => q.1 == t && q.2.step == step)).map Prod.snd

/-- A rank was left out when the bucket closed; none while no close is known. -/
def State.exclAt (s : State) (t : BitVec 12) (step : Word) (rank : Nat) : Option Bool :=
  (s.closedAt t step).map (fun m => m.excl.contains rank)

/-- Whether a late copy of step `o` can still be folded: its tag is lenient, and the close of step o + FOLD_LIMIT has
not happened. -/
def State.foldable (s : State) (t : BitVec 12) (o : Word) : Bool :=
  ((s.tag t.toNat).map TagEntry.lenient).getD false && decide (0 < s.foldLimit)
    && (s.ahead o || decide (s.stepsSince o ≤ s.foldLimit))
    && !s.trellis.status.any (fun q => q.1 == t && decide (s.foldLimit ≤ (q.2.step - o).toNat) && decide ((q.2.step - o).toNat < 2 ^ 31))

/-- Bytes of late copies in the fold area, and of the whole area. -/
def State.foldUsed (s : State) : Nat := (s.trellis.foldData.map (fun c => 2 * c.data.length)).sum
def State.foldSize (s : State) : Nat := ((s.trellis.cfg.map TrCfg.foldMib).getD 0) * mib

/-- A segment message as its receiver keeps it, and back. -/
def contribOf (m : SegmentMsg) : Contrib :=
  { tag := m.tag, step := m.step, epoch := m.epoch, seg := m.seg, rank := m.rank.toNat, shadow := m.shadow, data := m.data }

def msgOf (q : Contrib) : SegmentMsg :=
  { tag := q.tag, step := q.step, epoch := q.epoch, seg := q.seg, rank := BitVec.ofNat 16 q.rank, shadow := q.shadow, data := q.data }

/-- The head records a late notice of a rank its bucket closed without; with the fold area full it is dropped (R317).
A rank that was included, or that its shadow served, has no fold. DEDUCED, assumption 47. -/
def State.foldNotice (s : State) (m : MemberNotice) : State :=
  let r := m.rank.toNat
  if s.exclAt m.tag m.step r == some false then s
  else if (s.exclAt m.tag m.step r).isNone || !s.foldable m.tag m.step || decide (s.foldUsed ≥ s.foldSize) then
    s.foldDrop m.tag.toNat r m.step.toNat
  else if s.trellis.folds.any (fun f => f.tag == m.tag && f.rank == r && f.step == m.step) then s
  else
    let f : FoldRec := { tag := m.tag, rank := r, step := m.step, epoch := m.epoch, eMax := m.eMax, used := none }
    { s with trellis := { s.trellis with folds := s.trellis.folds ++ [f] } }

/-- An owner keeps late data of a rank its bucket closed without. -/
def State.foldSegment (s : State) (m : SegmentMsg) : State :=
  let r := m.rank.toNat
  if m.shadow || s.exclAt m.tag m.step r == some false then s
  else if (s.exclAt m.tag m.step r).isNone || !s.foldable m.tag m.step || decide (s.foldUsed + 2 * m.data.length > s.foldSize) then
    s.foldDrop m.tag.toNat r m.step.toNat
  else { s with trellis := { s.trellis with foldData := s.trellis.foldData ++ [contribOf m] } }

/-! ## Completion (R316) -/

/-- The eight missing ranks of a record. -/
def missingField (l : List Nat) : List Byte := ((l ++ List.replicate 8 0xFFFF).take 8).flatMap (leBytes 2)

/-- Mark the step record of the step a message is of; a step not begun gets its marks when it begins. -/
def State.markStep (s : State) (n : Nat) (step : Word) (f : StepRec → StepRec) : State :=
  s.modCtx n (fun q => if q.srec.step == step then { q with srec := f q.srec } else q)

/-- Write the completion record of a tag whose retained area is whole. -/
def State.complRecord (s : State) (c : TrCfg) (t : Nat) (m : CloseNotice) : State :=
  let n := c.ctx.toNat
  let cnt := (s.ctx n).records
  let flags := pack [(bit m.lenient, 0), (bit m.backup, 1), (bit !m.folds.isEmpty, 2), (bit m.nonfinite, 3), (bit m.poison, 4)]
  let incl := s.self.n - m.excl.length
  let bs := leBytes 4 m.step.toNat ++ leBytes 2 t ++ leBytes 1 flags ++ leBytes 1 (intBits 8 m.kc) ++ leBytes 2 incl
    ++ leBytes 2 m.excl.length ++ leBytes 2 m.folds.length ++ [0, 0] ++ missingField m.excl ++ leBytes 4 m.epoch.toNat
    ++ leBytes 8 m.closeTick.toNat ++ leBytes 8 s.tick.toNat ++ leBytes 4 cnt ++ List.replicate 8 0
  let x := s.dieOf t
  let s := s.writeNow .fabric (some n) (c.complAddr + 64 * (cnt % c.complN)) bs
  let s := s.modTr x (fun d => { d with
    doneCnt := d.doneCnt + 1, ringLost := if cnt ≥ c.complN then d.ringLost + 1 else d.ringLost,
    running := d.running.filter (fun b => !(b.tag.toNat == t && b.step == m.step)) })
  let s := s.modCtx n (fun q => { q with records := q.records + 1 })
  let s := { s with trellis := { s.trellis with complete := s.trellis.complete ++ [(BitVec.ofNat 12 t, m.step)] } }
  if m.poison then (s.raiseTr x 10 t 0 m.step.toNat).markStep n m.step (fun r => { r with faulted := true }) else s

/-- COMPLETION_RECORD: every segment of the tag is retained and its close notice is known. -/
def State.tryComplete (s : State) (tag : BitVec 12) (step : Word) : State :=
  match s.trellis.cfg, s.tag tag.toNat, s.closedAt tag step with
  | some c, some e, some m =>
    let sN := segCount s.self.n e.units
    let got := (List.range sN).all (fun i => s.trellis.retained.contains (tag, step, i))
    if got && !s.trellis.complete.contains (tag, step) then s.complRecord c tag.toNat m else s
  | _, _, _ => s

/-! ## Write-back (R315, R316) -/

/-- A reduced segment reaches this member's retained area. -/
def State.retain (s : State) (m : SegmentMsg) : State :=
  match s.trellis.cfg, s.tag m.tag.toNat with
  | some c, some e =>
    let lo := (segUnits e.units (segCount s.self.n e.units) m.seg).1
    let s := s.writeNow .fabric (some c.ctx.toNat) (e.ret + 512 * lo) (m.data.flatMap (fun h => leBytes 2 h.toNat))
    let s := { s with trellis := { s.trellis with retained := s.trellis.retained ++ [(m.tag, m.step, m.seg)] } }
    s.tryComplete m.tag m.step
  | _, _ => s

/-! ## Reduction (R314) -/

/-- One round of the tree: neighbours combine, a present one passes up alone. -/
def combRound : List (Option Val) → List (Option Val)
  | a :: b :: r =>
    (match a, b with
     | some x, some y => some (addFp32 x y)
     | some x, none => some x
     | none, y => y) :: combRound r
  | l => l

/-- The tree over ranks. -/
def combTree : Nat → List (Option Val) → Option Val
  | 0, l => (l.head?).getD none
  | f + 1, l => match l with
    | [] => none
    | [a] => a
    | _ => combTree f (combRound l)

/-- The sum of one element: the tree, then the fold items in close-notice order. -/
def reduceElem (parts : List (Option Val)) (folds : List Val) : Val :=
  folds.foldl addFp32 ((combTree parts.length parts).getD Val.zero)

/-- The contribution of a rank to a segment that a close notice names. -/
def State.chosen (s : State) (m : CloseNotice) (seg r : Nat) : Option Contrib :=
  s.trellis.staging.find? (fun c => c.tag == m.tag && c.step == m.step && c.seg == seg && c.rank == r
    && c.shadow == m.backups.contains r)

/-- The fold data of an item of a close notice. -/
def State.foldItem (s : State) (m : CloseNotice) (seg : Nat) (f : Nat × Nat) : Option Contrib :=
  s.trellis.foldData.find? (fun c => c.tag == m.tag && c.seg == seg && c.rank == f.1 && c.step == m.step - BitVec.ofNat 32 f.2)

/-- The written G16 codes of an owned segment, when every contribution the close notice names has arrived. -/
def State.reduceSeg (s : State) (c : TrCfg) (e : TagEntry) (m : CloseNotice) (n seg : Nat) : Option (List Half) :=
  let parts := (List.range n).map (fun r => if m.excl.contains r then (true, none) else
    let x := s.chosen m seg r
    (x.isSome, x.map Contrib.data))
  let folds := m.folds.map (s.foldItem m seg)
  if parts.any (fun p => !p.1) || folds.any Option.isNone then none
  else
    let u := segUnits e.units (segCount n e.units) seg
    let at_ (d : List Half) (i : Nat) : Val := widen fmtG16 0 (nth d i 0).toNat
    let key : SrKey := { ctxKey := c.ctxKey, step := m.step, tag := m.tag, seq := 0xFFFF }
    some ((List.range (256 * (u.2 - u.1))).map (fun i =>
      let v := reduceElem (parts.map (fun p => p.2.map (fun d => at_ d i))) (folds.filterMap (fun f => f.map (fun x => at_ x.data i)))
      BitVec.ofNat 16 (fmtEncode fmtG16 m.kc (rndAt e.rnd key (256 * u.1 + i)) v).code))

/-- Reduce one owned segment and write it back to every member. -/
def State.ownSeg (s : State) (c : TrCfg) (e : TagEntry) (m : CloseNotice) (seg : Nat) : State :=
  let me := s.self
  match s.reduceSeg c e m me.n seg with
  | none => { s with trellis := { s.trellis with owed := s.trellis.owed ++ [(m.tag, m.step, seg)] } }
  | some d =>
    let out : SegmentMsg := { tag := m.tag, step := m.step, epoch := m.epoch, seg := seg, rank := BitVec.ofNat 16 me.rank,
                              shadow := false, data := d }
    let s := (s.emit (.writeBack out)).modTr (s.dieOf m.tag.toNat) (fun x => { x with
      bytesOut := x.bytesOut + BitVec.ofNat 64 (2 * d.length * (((s.membership.map (fun q => (q.members.filter (fun r => r.role != 2)).length)).getD 1) - 1)),
      foldCnt := x.foldCnt + BitVec.ofNat 64 m.folds.length })
    s.retain out

/-- Segments of a tag that this module owns. -/
def State.mySegs (s : State) (t : Nat) (e : TagEntry) : List Nat :=
  let me := s.self
  let sN := segCount me.n e.units
  if me.role == 0 then (List.range sN).filter (fun i => segOwner me.n t sN i == me.rank) else []

/-- Try again the segments of a bucket that waited for data. -/
def State.retryOwed (s : State) (tag : BitVec 12) (step : Word) : State :=
  match s.trellis.cfg, s.tag tag.toNat, s.closedAt tag step with
  | some c, some e, some m =>
    let of_ (o : BitVec 12 × Word × Nat) : Bool := o.1 == tag && o.2.1 == step
    let mine := (s.trellis.owed.filter of_).map (fun o => o.2.2)
    let s := { s with trellis := { s.trellis with owed := s.trellis.owed.filter (fun o => !of_ o) } }
    let s := mine.foldl (fun s seg => s.ownSeg c e m seg) s
    if s.trellis.owed.any of_ then s
    else { s with trellis := { s.trellis with closes := s.trellis.closes.filter (fun x => !(x.tag == tag && x.step == step)) } }
  | _, _, _ => s

/-- A close notice reaches this member (R313): the owner uses exactly the contributions it names. -/
def State.takeClose (s : State) (m : CloseNotice) : State :=
  match s.trellis.cfg, s.tag m.tag.toNat with
  | some c, some e =>
    if (s.closedAt m.tag m.step).isSome then s
    else
      let t := m.tag.toNat
      -- data of excluded ranks is kept for folding
      let late := s.trellis.staging.filter (fun q => q.tag == m.tag && q.step == m.step && m.excl.contains q.rank && !q.shadow)
      let s := { s with trellis := { s.trellis with
        status := s.trellis.status ++ [(m.tag, m)], closes := s.trellis.closes ++ [m],
        staging := s.trellis.staging.filter (fun q => !(q.tag == m.tag && q.step == m.step && m.excl.contains q.rank)),
        owed := s.trellis.owed ++ (s.mySegs t e).map (fun i => (m.tag, m.step, i)) } }
      let s := late.foldl (fun s q => s.foldSegment (msgOf q)) s
      let s := if m.lenient then s.markStep c.ctx.toNat m.step (fun r => { r with lenient := true }) else s
      (s.retryOwed m.tag m.step).tryComplete m.tag m.step
  | _, _ => s

/-! ## Closing at the head (R311–R313) -/

def ceilLog2 (c : Nat) : Nat := if c ≤ 1 then 0 else Nat.log2 (c - 1) + 1

/-- The common scale (R312). -/
def commonScale (es : List Int) : Int :=
  let m := maxInt es
  if m == -128 then 0 else m + ceilLog2 es.length - 30

def HeadRec.has (h : HeadRec) (shadow : Bool) (r : Nat) : Option MemberNotice :=
  h.notices.find? (fun m => m.shadow == shadow && m.rank.toNat == r)

/-- Fold items named at the close of a tag: ascending origin step, then rank (R317). -/
def State.foldItems (s : State) (t : Nat) (step epoch : Word) : List FoldRec :=
  let ok (j : Nat) (f : FoldRec) : Bool := f.tag.toNat == t && f.epoch == epoch && f.step == step - BitVec.ofNat 32 j
    && (f.used == none || f.used == some step)
  ((List.range s.foldLimit).reverse.map (· + 1)).flatMap (fun j =>
    (List.range s.self.n).flatMap (fun r => (s.trellis.folds.filter (ok j)).filter (fun f => f.rank == r)))

/-- Close a bucket with these excluded and backed-up ranks. DEDUCED, assumption 47. -/
def State.closeBucket (s : State) (h : HeadRec) (excl backups : List Nat) : State :=
  let me := s.self
  let t := h.tag.toNat
  let x := s.dieOf t
  let used := (List.range me.n).filterMap (fun r => if excl.contains r then none else h.has (backups.contains r) r)
  let folds := s.foldItems t h.step me.epoch
  let m : CloseNotice :=
    { step := h.step, epoch := me.epoch, tag := h.tag, kc := commonScale (used.map MemberNotice.eMax ++ folds.map FoldRec.eMax),
      lenient := !excl.isEmpty, backup := !backups.isEmpty, nonfinite := used.any MemberNotice.nonfinite,
      poison := used.any MemberNotice.poison, excl := excl, backups := backups,
      folds := folds.map (fun f => (f.rank, (h.step - f.step).toNat)), closeTick := s.tick }
  let s := { s with trellis := { s.trellis with
    heads := s.trellis.heads.map (fun q : HeadRec => if q.tag == h.tag && q.step == h.step then { q with closed := true } else q),
    folds := s.trellis.folds.map (fun f => if folds.contains f then { f with used := some h.step } else f) } }
  let s := if backups.isEmpty then s else s.raiseTr x 5 t (backups.headD 0) h.step.toNat
  let s := if excl.isEmpty then s
    else (s.raiseTr x 4 t (excl.headD 0) h.step.toNat).modTr x (fun d => { d with lenientCnt := d.lenientCnt + 1 })
  (s.emit (.close m)).takeClose m

/-- Settle a bucket after grace: backups, lenient exclusion, or stay open (R311 rule 2). -/
def State.settle (s : State) (h : HeadRec) : State :=
  let missing := (List.range s.self.n).filter (fun r => (h.has false r).isNone)
  let backups := missing.filter (fun r => (h.has true r).isSome)
  let gone := missing.filter (fun r => (h.has true r).isNone)
  let lenient := ((s.tag h.tag.toNat).map TagEntry.lenient).getD false
  if gone.isEmpty then s.closeBucket h [] backups
  else if lenient then s.closeBucket h gone backups
  else s

/-- The grace timer of an open bucket has run out. -/
def State.graceOver (s : State) (h : HeadRec) : Bool :=
  !h.closed && decide (s.tick.toNat ≥ h.first.toNat + (s.xd 0).tr.grace.toNat)

/-- Apply rule 2 of R311 to a tag's bucket of a step. -/
def State.graceExpire (s : State) (t : Nat) (step : Word) : State :=
  match s.trellis.heads.find? (fun h => h.tag.toNat == t && h.step == step) with
  | none => s
  | some h =>
    if !s.graceOver h || h.graceDone then s
    else
      let s := s.raiseTr (s.dieOf t) 3 t (((List.range s.self.n).find? (fun r => (h.has false r).isNone)).getD 0) h.step.toNat
      let h' := { h with graceDone := true }
      let s := { s with trellis := { s.trellis with heads := s.trellis.heads.map (fun q => if q == h then h' else q) } }
      s.settle h'

/-- BUCKET_GRACE_EXPIRY of a bucket (R311). -/
def execBucketGraceExpiry (tag : TagStep) (s : State) : Res := .next (s.graceExpire tag.tag.toNat tag.step)

/-- A notice of an open bucket enters the head's record (R311): the head's timer starts at the first, whether or not this
module has begun the step itself. DEDUCED, assumption 47. -/
def State.headNotice (s : State) (m : MemberNotice) : State :=
  let t := m.tag.toNat
  let s := s.graceExpire t m.step
  let s := if m.nonfinite then s.raiseTr (s.dieOf t) 9 t m.rank.toNat m.step.toNat else s
  let h := (s.trellis.heads.find? (fun h => h.tag == m.tag && h.step == m.step)).getD
    { tag := m.tag, step := m.step, first := s.tick, notices := [], graceDone := false, closed := false }
  if h.closed then (if m.shadow then s else s.foldNotice m)
  else if (h.has m.shadow m.rank.toNat).isSome then s
  else
    let h := { h with notices := h.notices ++ [m] }
    let s := { s with trellis := { s.trellis with
      heads := (s.trellis.heads.filter (fun q : HeadRec => !(q.tag == m.tag && q.step == m.step))) ++ [h] } }
    if (List.range s.self.n).all (fun r => (h.has false r).isSome) then s.closeBucket h [] []
    else if h.graceDone then s.settle h
    else s

/-- Whether this module is the head of a tag. -/
def State.isHead (s : State) (t : Nat) : Bool :=
  match s.tag t with
  | some e => s.self.role == 0 && headRank s.self.n t e.units == s.self.rank
  | none => false

/-- A message of another epoch is discarded and sets stale_epoch (R301). -/
def State.stale (s : State) (t rank step : Nat) : State := s.raiseTr (s.dieOf t) 2 t rank step

/-- A member notice reaches the head: of the current step or one it has not begun, or a late one of an earlier step
(R317). -/
def State.noticeAt (s : State) (m : MemberNotice) : State :=
  let t := m.tag.toNat
  if s.trellis.cfg.isNone || m.epoch != s.self.epoch then s.stale t m.rank.toNat m.step.toNat
  else if !s.isHead t then s
  else if s.current m.step then s.headNotice m
  else
    let s := if m.nonfinite then s.raiseTr (s.dieOf t) 9 t m.rank.toNat m.step.toNat else s
    if m.shadow then s else s.foldNotice m

/-- MEMBER_NOTICE (R311, R317). -/
def execMemberNotice (m : MemberNotice) (s : State) : Res := .next (s.noticeAt m)

/-! ## Contributions at an owner (R310, R313) -/

/-- Bytes of open buckets in the staging area of a die. -/
def State.stageUsed (s : State) (x : Nat) : Nat :=
  ((s.trellis.staging.filter (fun c => s.dieOf c.tag.toNat == x && (s.closedAt c.tag c.step).isNone)).map
    (fun c => 2 * c.data.length)).sum

/-- Both copies of a rank differ: backup_mismatch and an Almanac entry (R313). -/
def State.compareCopies (s : State) (m : SegmentMsg) : State :=
  match s.trellis.staging.find? (fun c => c.tag == m.tag && c.step == m.step && c.seg == m.seg && c.rank == m.rank.toNat && c.shadow != m.shadow) with
  | some c =>
    if c.data == m.data then s
    else
      let s := s.raiseTr (s.dieOf m.tag.toNat) 6 m.tag.toNat m.rank.toNat m.step.toNat
      s.almanac 0x02 .urgent (s.trellis.cfg.map TrCfg.ctx) 0 (leBytes 4 m.tag.toNat ++ leBytes 4 m.rank.toNat)
  | none => s

/-- Keep a contribution to a segment until its bucket closes. DEDUCED, assumption 47. -/
def State.stage (s : State) (m : SegmentMsg) : State :=
  let s := s.compareCopies m
  if s.exclAt m.tag m.step m.rank.toNat == some true then s.foldSegment m
  else if s.trellis.staging.any (fun c => c.tag == m.tag && c.step == m.step && c.seg == m.seg && c.rank == m.rank.toNat && c.shadow == m.shadow) then s
  else
    let s := { s with trellis := { s.trellis with staging := s.trellis.staging ++ [contribOf m] } }
    s.retryOwed m.tag m.step

/-- SEGMENT_DATA (R310, R317), of the current step or one this module has not begun, or late. With the staging area full
the data waits for credit on its link: the command leaves the state as it is. -/
def State.segmentAt (s : State) (m : SegmentMsg) : State :=
  let t := m.tag.toNat
  if s.trellis.cfg.isNone || m.epoch != s.self.epoch then s.stale t m.rank.toNat m.step.toNat
  else match s.tag t with
    | none => s
    | some e =>
      if !(s.mySegs t e).contains m.seg then s
      else
        let x := s.dieOf t
        let room := decide (s.stageUsed x + 2 * m.data.length ≤ ((s.trellis.cfg.map TrCfg.stageMib).getD 0) * mib)
        let got (s : State) : State := s.modTr x (fun d => { d with bytesIn := d.bytesIn + BitVec.ofNat 64 (2 * m.data.length) })
        if s.current m.step then (if room then (got s).stage m else s)
        else (got s).foldSegment m

def execSegmentData (m : SegmentMsg) (s : State) : Res := .next (s.segmentAt m)

/-- CLOSE_NOTICE (R313). -/
def State.closeNoticeAt (s : State) (m : CloseNotice) : State :=
  if s.trellis.cfg.isNone || m.epoch != s.self.epoch then s.stale m.tag.toNat 0 m.step.toNat
  else if s.current m.step then s.takeClose m else s

/-- The command of the row: the message arrives (`State.closeNoticeAt`). -/
def execCloseNotice (m : CloseNotice) (s : State) : Res := .next (s.closeNoticeAt m)

/-- WRITE_BACK_DATA (R315, R316). -/
def State.writeBackAt (s : State) (m : SegmentMsg) : State :=
  let t := m.tag.toNat
  if s.trellis.cfg.isNone || m.epoch != s.self.epoch then s.stale t m.rank.toNat m.step.toNat
  else if s.current m.step && !s.trellis.retained.contains (m.tag, m.step, m.seg) then
    (s.modTr (s.dieOf t) (fun d => { d with bytesIn := d.bytesIn + BitVec.ofNat 64 (2 * m.data.length) })).retain m
  else s

/-- The command of the row: the message arrives (`State.writeBackAt`). -/
def execWriteBackData (m : SegmentMsg) (s : State) : Res := .next (s.writeBackAt m)

/-! ## The send pass (R306, R309) -/

/-- What the send pass reads of a bucket: the elements as they stood at handoff. One that was written since is undefined
(R307, R15): a free value. -/
def State.sentElems (s : State) (t : Nat) (cur : List (Half × Bool)) : List (Half × Bool) × State :=
  match s.trellis.handed.find? (fun h => h.1.toNat == t) with
  | some (_, old) =>
    if old == cur then (cur, s)
    else
      let (f, s) := s.fresh cur.length
      (((cur.zip old).zip (List.range cur.length)).map (fun p =>
        if p.1.1 == p.1.2 then p.1.1 else (Config.freeWord 16 (f + p.2), p.1.1.2 || p.1.2.2)), s)
  | none => (cur, s)

/-- Elements of units [lo, hi) of a bucket's elements. -/
def unitElems (es : List (Half × Bool)) (lo hi : Nat) : List (Half × Bool) := (es.drop (256 * lo)).take (256 * (hi - lo))

/-- Send one segment of a bucket to its owner, or keep it. DEDUCED, assumption 47. -/
def State.sendSeg (s : State) (t : Nat) (e : TagEntry) (es : List (Half × Bool)) (i : Nat) : State :=
  let me := s.self
  let sN := segCount me.n e.units
  let u := segUnits e.units sN i
  let m : SegmentMsg := { tag := BitVec.ofNat 12 t, step := s.trStep, epoch := me.epoch, seg := i, rank := BitVec.ofNat 16 me.rank,
                          shadow := me.role == 1, data := (unitElems es u.1 u.2).map Prod.fst }
  let o := segOwner me.n t sN i
  if me.role == 0 && o == me.rank then s.stage m
  else (s.emit (.segment o m)).modTr (s.dieOf t) (fun d => { d with bytesOut := d.bytesOut + BitVec.ofNat 64 (2 * m.data.length) })

/-- A pending full bucket takes a slot, unless its record is written already, and makes its send pass; a spare takes no
part (R300). -/
def State.startBucket (s : State) (x t : Nat) : State :=
  match s.trellis.cfg, s.tag t with
  | some c, some e =>
    let n := c.ctx.toNat
    let me := s.self
    let b : Bucket := { tag := BitVec.ofNat 12 t, step := s.trStep, started := s.tick }
    let s := s.modTr x (fun d => { d with
      pendingTags := d.pendingTags.tail,
      running := if me.role == 2 || s.trellis.complete.contains (b.tag, b.step) then d.running else d.running ++ [b] })
    if me.role == 2 then s
    else
      let (es, s) := (s.bucketSeen n e).sentElems t (s.bucketElems n e 0 e.units)
      let m : MemberNotice :=
        { step := s.trStep, epoch := me.epoch, tag := BitVec.ofNat 12 t, rank := BitVec.ofNat 16 me.rank, shadow := me.role == 1,
          nonfinite := es.any (fun v => g16NonFinite v.1), poison := es.any Prod.snd, eMax := maxInt (es.map (fun v => g16Exp v.1)) }
      let s := if m.poison then (s.raiseTr x 10 t me.rank s.trStep.toNat).markStep n s.trStep (fun r => { r with faulted := true }) else s
      let s := (List.range (segCount me.n e.units)).foldl (fun s i => s.sendSeg t e es i) s
      if s.isHead t then s.headNotice m else s.emit (.notice (headRank me.n t e.units) m)
  | _, _ => s

/-- BUCKET_START: at most 64 buckets run on a die; pending ones start in handoff order (R306). -/
def execBucketStart (xd : BitVec 2) (s : State) : Res :=
  let x := xd.toNat
  .next (match (s.xd x).tr.pendingTags with
    | [] => s
    | t :: _ => if (s.xd x).tr.running.length < 64 then s.startBucket x t.toNat else s)

/-! ## Step boundaries (R321, R317) -/

/-- Begin a step on all dies. What arrived for it, or for a later one, before this module began it stays; closes are
remembered as long as their late copies may be folded. -/
def State.trBegin (s : State) (n : Nat) (step : Word) : State :=
  let s := (List.range 4).foldl (fun s x => s.modTr x (fun d => { d with step := step, totals := [], pendingTags := [], running := [] })) s
  let live (o : Word) : Bool := decide ((o - step).toNat < 2 ^ 31)
  let tr := s.trellis
  let s := { s with trellis := { tr with
    heads := tr.heads.filter (fun h => live h.step), staging := tr.staging.filter (fun c => live c.step),
    closes := tr.closes.filter (fun c => live c.step), owed := tr.owed.filter (fun o => live o.2.1),
    retained := tr.retained.filter (fun r => live r.2.1), complete := tr.complete.filter (fun c => live c.2),
    status := tr.status.filter (fun q => live q.2.step || decide ((step - q.2.step).toNat ≤ 4)), handed := [] } }
  let mine := (s.trellis.status.map Prod.snd).filter (fun m => m.step == step)
  s.markStep n step (fun r => { r with
    lenient := r.lenient || mine.any CloseNotice.lenient,
    faulted := r.faulted || mine.any (fun m => m.poison && s.trellis.complete.contains (m.tag, step)) })

/-- STEP_ABORT_CLEANUP (R321): open buckets close without reduction, staging and totals clear, late copies of the
aborted step are dropped; fold items it used are named again in the repeat. What has arrived for a later step stays. -/
def State.trAbort (s : State) (step : Word) : State :=
  let s := (List.range 4).foldl (fun s x => s.modTr x (fun d => { d with totals := [], pendingTags := [], running := [] })) s
  let tr := s.trellis
  { s with trellis := { tr with
      heads := tr.heads.filter (fun h => h.step != step), staging := tr.staging.filter (fun c => c.step != step),
      closes := tr.closes.filter (fun c => c.step != step), owed := tr.owed.filter (fun o => o.2.1 != step),
      retained := tr.retained.filter (fun r => r.2.1 != step), complete := tr.complete.filter (fun c => c.2 != step),
      status := tr.status.filter (fun q => q.2.step != step), handed := [],
      folds := (tr.folds.filter (fun f => f.step != step)).map (fun f => if f.used == some step then { f with used := none } else f),
      foldData := tr.foldData.filter (fun c => c.step != step) } }

/-- Late data has left the fold area when a step is DONE: its bucket's close named it in that step, or no later close can
name it. DEDUCED, assumption 47. -/
def State.foldOver (s : State) (step : Word) (c : Contrib) : Bool :=
  (decide (s.foldLimit ≤ (step - c.step).toNat) && decide ((step - c.step).toNat < 2 ^ 31)) ||
    s.trellis.status.any (fun q => q.1 == c.tag && q.2.step == step && q.2.folds.contains (c.rank, (step - c.step).toNat))

/-- DONE of a step: its fold items leave the fold area at the head and at every owner, and its retained segments are
released (R317, R291); those of a step that has begun since are not touched. -/
def State.trDone (s : State) (step : Word) : State :=
  let tr := s.trellis
  { s with trellis := { tr with
      heads := tr.heads.filter (fun h => h.step != step), staging := tr.staging.filter (fun c => c.step != step),
      retained := tr.retained.filter (fun r => r.2.1 != step),
      folds := tr.folds.filter (fun f => f.used != some step), foldData := tr.foldData.filter (fun c => !s.foldOver step c) } }

/-- A new epoch is installed: fold items and late copies of an earlier one are dropped, with one Almanac entry that
lists them (R317). -/
def State.trEpoch (s : State) (epoch : Word) : State :=
  let old := s.trellis.folds.filter (fun f => f.epoch != epoch)
  let oldData := s.trellis.foldData.filter (fun c => c.epoch != epoch)
  if old.isEmpty && oldData.isEmpty then s
  else
    let gone := (old.map (fun f => (f.tag, f.rank, f.step)) ++ oldData.map (fun c => (c.tag, c.rank, c.step))).eraseDups
    let s := s.foldDrop ((gone.map (fun g => g.1.toNat)).headD 0) ((gone.map (fun g => g.2.1)).headD 0) ((gone.map (fun g => g.2.2.toNat)).headD 0)
    let s := s.almanac 0x02 .open_ (s.trellis.cfg.map TrCfg.ctx) 0
      (gone.flatMap (fun g => leBytes 2 g.1.toNat ++ leBytes 2 g.2.1 ++ leBytes 4 g.2.2.toNat))
    { s with trellis := { s.trellis with folds := s.trellis.folds.filter (fun f => f.epoch == epoch),
                                         foldData := s.trellis.foldData.filter (fun c => c.epoch == epoch) } }

/-- No bucket spans two epochs (R301): nothing of an earlier epoch is left open when a new one is installed. -/
def State.trFresh (s : State) : State :=
  { s with trellis := { s.trellis with
      heads := [], staging := [], closes := [], owed := [], retained := [], complete := [], status := [], handed := [] } }

/-- Every tag of the bound context has its completion record of the step (R316). -/
def State.trComplete (s : State) (step : Word) : Bool :=
  match s.trellis.cfg with
  | some c => (List.range c.tags.length).all (fun t => s.trellis.complete.contains (BitVec.ofNat 12 t, step))
  | none => true

/-! ## Heartbeats (R318) -/

/-- The addresses this module knows in its cascade: peers of up ports, destinations with a route, members of its lists. -/
def State.knownAddrs (s : State) : List Nat :=
  (((List.range 16).map s.port).filter (fun p => p.state == 3 || p.state == 4)).map (fun p => p.peer.toNat)
    ++ ((s.xd 0).fab.routes.filter (fun r => r.2.getLsbD 63)).map Prod.fst
    ++ (List.range 16).flatMap (fun n => ((s.ctx n).membership.map (fun m => m.members.map (fun e => e.addr.toNat))).getD [])

/-- Where this module sends its heartbeat: parent; rank 1 for rank 0; the primary it backs for a shadow; for a rank 0
alone in its membership the lowest healthy address it knows but its own, the lodestar unless it is that itself. DEDUCED, assumption 69. -/
def State.hbTarget (s : State) : Option (BitVec 13) :=
  match s.membership with
  | none => none
  | some m =>
    let me := s.self
    if me.role == 2 then none
    else if me.role == 1 then some (s.rankAddr me.rank)
    else if m.n == 1 then
      (if s.fab.lodestar != s.fab.addr then some s.fab.lodestar
       else (((s.knownAddrs.filter (fun a => a != s.fab.addr.toNat && !s.fab.failedPeers.contains (BitVec.ofNat 13 a))).min?).map
         (BitVec.ofNat 13)))
    else match treeParent me.rank with
      | some p => some (s.rankAddr p)
      | none => some (s.rankAddr 1)

/-- HEARTBEAT_SEND, every TR_HB.period ticks. -/
def execHeartbeatSend (s : State) : Res :=
  .next (if s.tick.toNat < s.trellis.lastHb.toNat + (s.xd 0).tr.hbPeriod.toNat then s
    else match s.hbTarget with
    | none => s
    | some a =>
      let me := s.self
      ({ s with trellis := { s.trellis with lastHb := s.tick } } : State).emit
        (.heartbeat a (BitVec.ofNat 16 me.rank) me.epoch s.trStep s.tick))

/-- The sender is the rank 0, alone in its membership, of a list that this module is no member of. DEDUCED, assumption 69. -/
def State.isLone (s : State) (src : BitVec 13) (rank : Half) : Bool :=
  rank == 0 && !((s.membership.map (fun m => m.members.any (fun e => e.addr == src))).getD false)

/-- HEARTBEAT: one of the epoch in force resets the watch of its rank; one of a rank 0 alone in another membership
starts or resets that of its address. -/
def State.heartbeatAt (s : State) (src : BitVec 13) (rank : Half) (epoch step : Word) (_sent : DWord) : State :=
  if s.isLone src rank then
    { s with trellis := { s.trellis with lone := s.trellis.lone.filter (fun l => l.1 != src) ++ [(src, epoch, s.tick)] } }
  else if s.membership.isSome && epoch != s.self.epoch then s.stale 0 rank.toNat step.toNat
  else { s with trellis := { s.trellis with watch := sset (fun _ => 0) s.trellis.watch rank.toNat s.tick } }

/-- The command of the row: the message arrives (`State.heartbeatAt`). -/
def execHeartbeat (rank : RankAt) (epoch step : Word) (sent : DWord) (s : State) : Res :=
  .next (s.heartbeatAt rank.src rank.rank epoch step sent)

/-- The ranks this module watches; its own rank stands for its shadow. DEDUCED, assumption 69. -/
def State.watched (s : State) : List Nat :=
  match s.membership with
  | none => []
  | some m =>
    let me := s.self
    if me.role != 0 then []
    else treeChildren m.n me.rank ++ (if me.rank == 1 then [0] else [])
      ++ (if m.members.any (fun e => e.role == 1 && e.backupOf == me.rank) then [me.rank] else [])

/-- The heartbeat limit of every watched rank counts from now. -/
def State.startWatch (s : State) : State :=
  { s with trellis := { s.trellis with
      watch := s.watched.foldl (fun w r => sset (fun _ => 0) w r s.tick) [], failed := [] } }

end Sys2Proof.Machine
end

