-- ==== Sys2Proof/Machine/Train.lean ====
section
/-! DEFINITION. The training step (09): phases, records, step header, tally, vote, decision, update, DONE, restore. -/

namespace Sys2Proof.Machine

/-! ## Records (R298, R299) -/

/-- A signed byte. -/
def sbyte (bs : List Byte) (i : Nat) : Int := sfld (bfld bs i 1) 0 8

/-- The training policy record; none when a value is out of range (R298). -/
def readPolicy (b : List Byte) : Option Policy :=
  let p : Policy :=
    { sigmaInit := sbyte b 0, sigmaMin := sbyte b 1, sigmaMax := sbyte b 2, dec := bfld b 3 1, growInterval := bfld b 4 4,
      skip := bitAt (bfld b 8 1) 0, earlyAbort := bitAt (bfld b 8 1) 1, satVotes := bitAt (bfld b 8 1) 2, maxRepeats := bfld b 9 1,
      momentFmt := BitVec.ofNat 4 (bfld b 10 1), weightRnd := BitVec.ofNat 3 (bfld b 11 1), hdr := BitVec.ofNat 16 (bfld b 12 2),
      voteTimeout := bfld b 16 4 }
  let bad := decide (p.sigmaMin < -32) || decide (p.sigmaMax > 32) || decide (p.sigmaMin > p.sigmaInit) || decide (p.sigmaInit > p.sigmaMax)
    || decide (p.dec < 1) || decide (p.dec > 8) || decide (bfld b 8 1 ≥ 8) || decide (p.maxRepeats < 1) || decide (bfld b 10 1 > 1)
    || decide (bfld b 11 1 ≥ 8) || rndReserved p.weightRnd || p.hdr.toNat % 16 != 0 || bfld b 14 2 != 0 || decide (p.voteTimeout < 47000)
    || bfld b 20 44 != 0
  if bad then none else some p

/-- The 64 bytes of a step record. -/
def StepRec.bytes (r : StepRec) : List Byte :=
  let flags := pack [(bit r.lenient, 0), (bit r.repeated, 1), (bit r.restored, 2), (bit r.early, 3)]
  leBytes 4 r.step.toNat ++ leBytes 1 r.phase ++ leBytes 1 r.outcome ++ leBytes 1 (intBits 8 r.sigma) ++ leBytes 1 flags
    ++ leBytes 1 r.repeats ++ leBytes 1 (bit r.cur) ++ leBytes 2 r.firstCore.toNat ++ leBytes 2 r.firstTag.toNat ++ [0, 0]
    ++ leBytes 4 r.goodSteps ++ leBytes 8 r.decisionTick.toNat ++ leBytes 4 r.epoch.toNat ++ List.replicate 32 0

def State.srec (s : State) (n : Nat) : StepRec := (s.ctx n).srec
def State.modSrec (s : State) (n : Nat) (f : StepRec → StepRec) : State := s.modCtx n (fun c => { c with srec := f c.srec })

/-- The step in UPD: a committed one that awaits DONE behind the running step, else the latest. DEDUCED, assumption 24. -/
def State.updRec (s : State) (n : Nat) : StepRec := (s.ctx n).upd.getD (s.srec n)
/-- DEDUCED, assumption 24. -/
def State.modUpd (s : State) (n : Nat) (f : StepRec → StepRec) : State :=
  s.modCtx n (fun c => match c.upd with
    | some r => { c with upd := some (f r) }
    | none => { c with srec := f c.srec })

/-- A step is at its boundary: none yet, DONE or ABORTED. -/
def StepRec.atEnd (r : StepRec) : Bool := !r.started || r.phase == 5 || r.phase == 6 || r.phase == 0

/-- Every step of the context is. -/
def Ctx.atEnd (c : Ctx) : Bool := c.srec.atEnd && c.upd.isNone

/-! ## Ports at a step boundary (11 R333) -/

/-- Whether a port is up (11 R359). -/
def Port.up (p : Port) : Bool := p.state == 3 || p.state == 4

/-- State 3 or 4 of an up port (11 R359). DEDUCED, assumption 51. -/
def Port.settle (p : Port) : Port :=
  if p.up then { p with state := if p.tx.narrow || p.rx.narrow || p.pruned then 4 else 3 } else p

/-- P3 narrows every port; leaving it widens them again (11 R333, 16 R475). -/
def State.prunePorts (s : State) (on : Bool) : State :=
  (List.range 16).foldl (fun s p => s.modPort p (fun q => ({ q with pruned := on } : Port).settle)) s

/-- A step boundary: the first after P3 has been left widens the ports. -/
def State.stepBoundary (s : State) : State :=
  if s.fab.widen then ({ s with fab := { s.fab with widen := false } } : State).prunePorts false else s

/-- Rewrite the step record in memory, and write the Almanac step entry (R299, 13 R412). -/
def State.writeSrec (s : State) (n : Nat) : State :=
  let b := (s.srec n).bytes
  (s.owrite ((s.ctx n).desc.policyAddr + 64) b).almanac 0x05 .open_ (some (BitVec.ofNat 4 n)) 0 (b.take 40)

/-- Enter a phase (R266): recorded at every change. -/
def State.setPhase (s : State) (n ph : Nat) : State := (s.modSrec n (fun r => { r with phase := ph })).writeSrec n

/-- The bound context is this one. -/
def State.bound (s : State) (n : Nat) : Bool :=
  match s.trellis.cfg with
  | some c => c.ctx.toNat == n
  | none => false

def State.ctxSelf (s : State) (n : Nat) : Self := s.selfOf (s.ctx n).membership

/-- The step is between FWD and VOTE, without a decision. -/
def StepRec.open_ (r : StepRec) : Bool := decide (1 ≤ r.phase) && decide (r.phase ≤ 3) && r.commit.isNone

/-! ## The step header (R280) -/

def headerBytes (step : Word) (sigma : Int) : List Byte := leBytes 4 step.toNat ++ leBytes 1 (intBits 8 sigma) ++ List.replicate 11 0

/-- Write the step header into the DMEM of some cores through the window (R280, 08 R231), mirror_pending 0. -/
def State.writeHeaders (s : State) (cs : List (Nat × Nat × Nat)) (p : Policy) (r : StepRec) : State :=
  cs.foldl (fun s x => s.dmemWindow x.2.2 p.hdr.toNat (headerBytes r.step r.sigma)) s

/-- The mirror_pending word of a core's header. -/
def Core.mirrorPending (c : Core) (p : Policy) : Nat := c.cc.dmem.nat (p.hdr.toNat + 8) 4

/-! ## Stopping a step's cores -/

/-- The end of a context whose program stops at a command boundary; one with transfers on their way ends when they land. -/
def SeCtx.stopAtBoundary (c : SeCtx) : SeCtx :=
  if !c.running then c
  else if c.inflight.isEmpty then
    { c with running := false, waitKind := 0, q := none, prog := none, held := [], loops := [], toIssue := [], ending := false }
  else { c with ending := true, toIssue := [], waitKind := 0 }

/-- Stop a core at its command boundaries (R293): the CC stops, waiting commands are dropped and count as complete, SE
contexts end once no transfer of theirs is left; commands in progress finish. -/
def Core.stopStep (c : Core) : Core :=
  let close (n : EngCnt) (q : List QEntry) : EngCnt := q.foldl (fun n e => { (n.complete e.num) with started := n.started + 1 }) n
  let ended := (c.se.ctxs.filter (fun x => x.2.running && x.2.inflight.isEmpty)).filterMap (fun x => x.2.q)
  { c with
    cc := { c.cc with
      st := (match c.cc.st with
        | .halted => .halted
        | .fault => .fault
        | _ => .stopped),
      loops := [], meCnt := close c.cc.meCnt c.me.queue, veCnt := close c.cc.veCnt c.ve.queue,
      seCnt := close (ended.foldl (fun n q => n.complete q.num) c.cc.seCnt) c.se.queue },
    me := { c.me with queue := [] },
    ve := { c.ve with queue := [], popped := none },
    se := { c.se with queue := [], waits := [], ctxs := c.se.ctxs.map (fun x => (x.1, x.2.stopAtBoundary)) } }

/-- Stop the cores that hold a context, and the saved ones of a context that is switched out. -/
def State.stopCores (s : State) (n : Nat) : State :=
  let mine := (s.ctxCores n).filter (fun x => (s.core x.2.2).ctx == some (BitVec.ofNat 4 n))
  (s.eachCore mine Core.stopStep).modCtx n (fun c => { c with saved := c.saved.map (fun x => (x.1, x.2.map Core.stopStep)) })

/-! ## The tally (R283) -/

/-- What a core answers to the tally. -/
def Core.tallies (c : Core) (p : Policy) : Bool := c.cc.numStat.nan || c.cc.numStat.inf || (p.satVotes && c.cc.numStat.sat)

/-- BWD_END (R266, R283): every core of the context has stopped with idle engines; the tally request goes out and the
answers are summed. A step whose program emitted no beacon passes through BWD here. -/
def State.bwdEnd (s : State) (n : Nat) : State :=
  let r := s.srec n
  match (s.ctx n).policy with
  | none => s
  | some p =>
    let cs := s.ctxCores n
    if (s.ctx n).st != .running || !(r.phase == 1 || r.phase == 2) || !r.commit.isNone || !cs.all (fun x => (s.core x.2.2).finished) then s
    else
      let s := if r.phase == 1 then s.setPhase n 2 else s
      let hit := cs.find? (fun x => (s.core x.2.2).cc.numStat.nan || (s.core x.2.2).cc.numStat.inf)
      let s := s.modSrec n (fun r => { r with
        tally := (cs.filter (fun x => (s.core x.2.2).tallies p)).length,
        mirror := (cs.map (fun x => (s.core x.2.2).mirrorPending p)).sum % 2 ^ 32,
        firstCore := (hit.map (fun x => originCore x.1 x.2.1 + 0x8000)).getD 0,
        firstTag := (hit.map (fun x => (s.core x.2.2).cc.numStat.firstTag)).getD 0 })
      (s.setPhase n 3).emit (.tally (BitVec.ofNat 4 n))

def execBwdEnd (ctx : BitVec 4) (s : State) : Res := .next (s.bwdEnd ctx.toNat)

/-- FORWARD_END_BEACON (R266): the step's first forward-end beacon moves it from FWD to BWD. -/
def State.fwdBeacon (s : State) (n : Nat) : State :=
  let mine (b : BitVec 4 × Word) : Bool := b.1.toNat == n && b.2 == (s.srec n).step
  if !s.orr.fwdBeacons.any mine then s
  else
    let s := s.modOrr (fun o => { o with fwdBeacons := o.fwdBeacons.filter (fun b => !mine b) })
    if (s.srec n).phase == 1 then s.setPhase n 2 else s

def execForwardEndBeacon (ctx : BitVec 4) (s : State) : Res := .next (s.fwdBeacon ctx.toNat)

/-! ## Decision (R281, R284, R292–R294, R448) -/

/-- Vote bits as a byte, and back (R282 byte [8]). -/
def voteBits (v : VoteWord) : Byte :=
  BitVec.ofNat 8 (pack [(bit v.finite, 0), (bit v.complete, 1), (bit v.healthy, 2), (bit v.mirrorOk, 3), (bit v.seenCommit, 4), (bit v.earlyAbort, 5)])

/-- Two words combined at a node (R284). -/
def voteJoin (a b : VoteWord) : VoteWord :=
  { a with finite := a.finite && b.finite, complete := a.complete && b.complete, healthy := a.healthy && b.healthy,
           mirrorOk := a.mirrorOk && b.mirrorOk, seenCommit := a.seenCommit || b.seenCommit, earlyAbort := a.earlyAbort || b.earlyAbort }

/-- The root's rule (R284). -/
def voteCommits (v : VoteWord) : Bool :=
  v.seenCommit || (v.finite && v.complete && v.healthy && v.mirrorOk && !v.earlyAbort)

/-- The next loss-scale exponent and good_steps (R281); an abort with healthy = 0 is an abort by fault (R448). -/
def moveSigma (p : Policy) (sigma : Int) (good : Nat) (commit : Bool) (bits : Byte) : Int × Nat :=
  if commit then
    let g := good + 1
    if p.growInterval != 0 && decide (g ≥ p.growInterval) then (min (sigma + 1) p.sigmaMax, 0) else (sigma, g)
  else if bitAt bits.toNat 2 && !bitAt bits.toNat 0 then (max (sigma - p.dec) p.sigmaMin, 0)
  else (sigma, good)

/-- The outcome code of an aborted step (R299): non-finite (or skipped by the policy), or by fault or vote. -/
def abortOutcome (p : Policy) (bits : Byte) : Nat :=
  if bitAt bits.toNat 2 && !bitAt bits.toNat 0 then (if p.skip then 4 else 2) else 3

/-- Finish the STEP entry of a step with a status. DEDUCED, assumption 22. -/
def State.finishStep (s : State) (n j : Nat) (status : Byte) : State :=
  s.modCtx n (fun c => { c with entries := c.entries.map (fun e =>
    if e.kind == 3 && e.index == j && !e.finished then { e with finished := true, status := status } else e) })

/-- Put the STEP entry of an aborted step back, to be run again. DEDUCED, assumption 22. -/
def State.repeatStep (s : State) (n j : Nat) : State :=
  s.modCtx n (fun c => { c with entries := c.entries.map (fun e =>
    if e.kind == 3 && e.index == j && !e.finished then { e with started := false } else e) })

/-- A started START that the orrery stops completes with status 2 (R405, 15 R452). DEDUCED, assumption 22. -/
def Ctx.endStarts (c : Ctx) : Ctx :=
  { c with entries := c.entries.map (fun e => if e.kind == 2 && e.started && !e.finished then { e with status := 2 } else e) }

/-- The context stops for the driver: outcome 5, Almanac entry (R294). DEDUCED, assumption 22. -/
def State.stopCtx (s : State) (n : Nat) : State :=
  let s := s.modCtx n (fun c => { c with st := .stopped })
  ((s.modSrec n (fun r => { r with outcome := 5 })).writeSrec n).almCtx n 7

/-- Take the step to ABORTED (R266, R267, R293, R294, R321). Its entry ends with status 2 when the context stops, when
the policy skips the step, or when the driver is gone (13 R407); a step that STEP_RESTART redoes keeps its entry (15
R452, 16 R478); any other is run again from its entry (R292, 10 R319, R323). DEDUCED, assumption 22. -/
def State.abortStep (s : State) (n : Nat) (bits : Byte) : State :=
  match (s.ctx n).policy with
  | none => s
  | some p =>
    let r := s.srec n
    let q := moveSigma p r.sigma r.goodSteps false bits
    let s := (s.stopCores n).modCtx n Ctx.endStarts
    let s := if s.bound n then s.trAbort r.step else s
    let s := s.modSrec n (fun r => { r with
      commit := some false, decBits := bits, decisionTick := s.tick, sigma := q.1, goodSteps := q.2, outcome := abortOutcome p bits,
      early := r.early || bitAt bits.toNat 5, repeats := min (r.repeats + 1) 255 })
    let s := (s.setPhase n 6).stepBoundary
    if (s.srec n).repeats ≥ p.maxRepeats then (s.finishStep n r.entry 2).stopCtx n
    else if bitAt (s.gis.halted ||| s.pwr.redo).toNat n then s
    else if (s.srec n).outcome == 4 || s.orr.draining || s.orr.stopping then s.finishStep n r.entry 2
    else s.repeatStep n r.entry

/-- Act on a decision that this module has received (R284): once per step; an abort is never overturned. DEDUCED, assumption 50. -/
def State.decide_ (s : State) (n : Nat) (d : DecisionMsg) : State :=
  let r := s.srec n
  match (s.ctx n).policy with
  | none => s
  | some p =>
    if d.step != r.step || d.epoch != r.epoch || !r.open_ then s
    else if !d.commit then s.abortStep n d.bits
    else
      let q := moveSigma p r.sigma r.goodSteps true d.bits
      let s := s.modSrec n (fun r => { r with
        commit := some true, decBits := d.bits, decisionTick := s.tick, sigma := q.1, goodSteps := q.2, repeats := 0, outcome := 1 })
      s.setPhase n 4

/-- DECISION: acted on here and passed down the tree. -/
def State.decisionAt (s : State) (ctx : BitVec 4) (d : DecisionMsg) : State :=
  let n := ctx.toNat
  let me := s.ctxSelf n
  let fresh := (s.srec n).open_ && d.step == (s.srec n).step && d.epoch == (s.srec n).epoch
  let s := s.decide_ n d
  if fresh && !(treeChildren me.n me.rank).isEmpty then s.emit (.decide d) else s

/-- The command of the row: the message arrives (`State.decisionAt`). -/
def execDecision (ctx : BitVec 4) (d : DecisionMsg) (s : State) : Res := .next (s.decisionAt ctx d)

/-! ## The vote (R282–R285) -/

/-- A graft is waiting or under way, or the context's HALT is in force (R282). Kind 5 is a reload of IMEM, no graft. -/
def State.grafting (s : State) (n : Nat) : Bool :=
  s.gis.grafts.any (fun g => g.kind != 5 || bitAt g.mask.toNat n) || bitAt (s.gis.halted ||| s.pwr.redo).toNat n

/-- This module's vote word (R282). -/
def State.voteOf (s : State) (n : Nat) (early : Bool) : VoteWord :=
  let r := s.srec n
  let me := s.ctxSelf n
  { step := r.step, epoch := r.epoch, finite := r.tally == 0 && !early, complete := if s.bound n then s.trComplete r.step else true,
    healthy := !s.grafting n && !r.faulted, mirrorOk := r.mirror == 0, seenCommit := r.commit == some true, earlyAbort := early,
    rank := BitVec.ofNat 16 me.rank }

/-- A vote word reaches this tree node, its own among them: words are combined in rank order; an early abort goes up at
once; the root decides (R284, R293). DEDUCED, assumption 50. -/
def State.nodeVote (s : State) (n : Nat) (v : VoteWord) : State :=
  let r := s.srec n
  let me := s.ctxSelf n
  if v.step != r.step || v.epoch != r.epoch then s
  else
    let vs := r.votes.filter (fun w => w.rank != v.rank) ++ [v]
    let s := s.modSrec n (fun r => { r with votes := vs })
    let need := me.rank :: treeChildren me.n me.rank
    let words := need.filterMap (fun k => vs.find? (fun w => w.rank.toNat == k))
    let all := words.length == need.length
    if !all && !v.earlyAbort then s
    else
      let c := match words with
        | [] => v
        | w :: ws => { (ws.foldl voteJoin w) with rank := BitVec.ofNat 16 me.rank }
      let c := if v.earlyAbort then { (voteJoin c v) with rank := BitVec.ofNat 16 me.rank } else c
      match treeParent me.rank with
      | some _ => s.emit (.vote c)
      | none =>
        if !r.open_ then s
        else
          let d : DecisionMsg := { step := r.step, epoch := r.epoch, commit := voteCommits c, bits := voteBits c }
          let s := s.decide_ n d
          if me.n > 1 then s.emit (.decide d) else s

/-- VOTE_WORD: a child's word arrives. -/
def State.voteWordAt (s : State) (ctx : BitVec 4) (v : VoteWord) : State :=
  if (s.srec ctx.toNat).started then s.nodeVote ctx.toNat v else s

/-- The command of the row: the message arrives (`State.voteWordAt`). -/
def execVoteWord (ctx : BitVec 4) (v : VoteWord) (s : State) : Res := .next (s.voteWordAt ctx v)

/-- The four bits of a vote for commit (R284). DEDUCED, assumption 24. -/
def voteWants (v : VoteWord) : Bool := v.finite && v.complete && v.healthy && v.mirrorOk

/-- TALLY_RESULT (R282, R283): the sums have arrived and this module votes once its exchange has ended (R292), a module with
a fault at once (15 R450); a vote for commit waits for DONE of the step
before (R291). A shadow or a spare does not vote (10 R300). DEDUCED, assumption 50. -/
def State.tallyResult (s : State) (n : Nat) : State :=
  let r := s.srec n
  let v := s.voteOf n false
  if r.phase != 3 || r.voted || !r.commit.isNone || (v.healthy && !v.complete)
    || ((s.ctx n).upd.isSome && voteWants v) then s
  else
    let s := s.modSrec n (fun r => { r with voted := true, voteTick := s.tick })
    if (s.ctxSelf n).role == 0 then s.nodeVote n v else s

def execTallyResult (ctx : BitVec 4) (s : State) : Res := .next (s.tallyResult ctx.toNat)

/-- Send the vote word at once with early_abort = 1 (R293, 15 R450). DEDUCED, assumption 50. -/
def State.earlyVote (s : State) (n : Nat) : State :=
  let r := s.srec n
  if !r.open_ || r.voted then s
  else
    let v := s.voteOf n true
    let s := s.modSrec n (fun r => { r with voted := true, voteTick := s.tick, early := true })
    if (s.ctxSelf n).role == 0 then s.nodeVote n v else s

/-- EARLY_ABORT (R293): the first core of the context that sets nan or inf. -/
def execEarlyAbort (l : SiteNo) (c : CoreNo) (s : State) : Res :=
  match (s.key l c).bind (fun k => (s.core k).ctx.map (fun n => (k, n.toNat))) with
  | none => .next s
  | some (k, n) =>
    let st := (s.core k).cc.numStat
    match (s.ctx n).policy with
    | none => .next s
    | some p => .next (if p.earlyAbort && (st.nan || st.inf) then s.earlyVote n else s)

/-- VOTE_TIMEOUT (R284): no decision within vote_timeout, and the module asks again. -/
def execVoteTimeout (ctx : BitVec 4) (s : State) : Res :=
  let n := ctx.toNat
  let r := s.srec n
  match (s.ctx n).policy with
  | none => .next s
  | some p =>
    .next (if r.voted && r.open_ && decide (s.tick.toNat ≥ r.voteTick.toNat + p.voteTimeout) then
      (s.modSrec n (fun r => { r with voteTick := s.tick })).emit (.decisionReq r.step r.epoch (BitVec.ofNat 16 (s.ctxSelf n).rank))
    else s)

/-- DECISION_REQUEST (R284): a module that holds the decision answers it, another passes the request up. DEDUCED, assumption 50. -/
def State.decisionAsked (s : State) (ctx : BitVec 4) (step epoch : Word) (rank : Half) : State :=
  let n := ctx.toNat
  let r := s.srec n
  let u := s.updRec n
  if epoch != r.epoch then s
  else if r.step == step && r.commit.isSome then
    s.emit (.decide { step := step, epoch := epoch, commit := r.commit == some true, bits := r.decBits })
  else if u.step == step && u.commit.isSome then
    s.emit (.decide { step := step, epoch := epoch, commit := u.commit == some true, bits := u.decBits })
  else if r.lastDone == some step then s.emit (.decide { step := step, epoch := epoch, commit := true, bits := r.decBits })
  else if (s.ctxSelf n).rank == 0 then s
  else s.emit (.decisionReq step epoch rank)

/-- The command of the row: the message arrives (`State.decisionAsked`). -/
def execDecisionRequest (ctx : BitVec 4) (step epoch : Word) (rank : Half) (s : State) : Res := .next (s.decisionAsked ctx step epoch rank)

/-! ## Update and DONE (R286–R291). While the next step runs behind the update, its record is the one in memory (R299),
and the step in UPD changes `upd` and the Almanac only. -/

/-- Rewrite the record of the step in UPD (R299). DEDUCED, assumption 24. -/
def State.writeUpd (s : State) (n : Nat) : State :=
  match (s.ctx n).upd with
  | some r => s.almanac 0x05 .open_ (some (BitVec.ofNat 4 n)) 0 (r.bytes.take 40)
  | none => s.writeSrec n

/-- DONE reaches this module (R291): cur flips, retained gradients are released, the step is over. DEDUCED, assumption 49. -/
def State.stepDone (s : State) (n : Nat) : State :=
  let r := s.updRec n
  let s := s.modSrec n (fun q => { q with cur := !q.cur, lastDone := some r.step })
  let s := if s.bound n then s.trDone r.step else s
  let s := match (s.ctx n).upd with
    | some u =>
      let s := s.modCtx n (fun c => { c with upd := some { u with phase := 5, cur := (s.srec n).cur } })
      ((s.writeUpd n).modCtx n (fun c => { c with upd := none })).writeSrec n
    | none => s.setPhase n 5
  s.stepBoundary.finishStep n r.entry 0

/-- An acknowledgement of this step at this node: passed up, or counted at the root, which broadcasts DONE. -/
def State.nodeAck (s : State) (n : Nat) (rank : Half) : State :=
  let r := s.updRec n
  let me := s.ctxSelf n
  if me.rank != 0 || me.role != 0 then s.emit (.ack r.step r.epoch rank)
  else
    let acks := if r.acks.contains rank then r.acks else r.acks ++ [rank]
    let s := s.modUpd n (fun r => { r with acks := acks })
    if acks.length == me.n && r.phase == 4 then
      let s := s.stepDone n
      if me.n > 1 then s.emit (.doneMsg r.step r.epoch) else s
    else s

/-- The update of a committed step has ended on this module: the cores that run the step's commands have finished, and no
START entry between its STEP and the next one is left. DEDUCED, assumption 49. -/
def State.updOver (s : State) (n : Nat) : Bool :=
  let r := s.updRec n
  let es := (s.ctx n).entries
  let last := match es.find? (fun e => e.kind == 3 && decide (e.index > r.entry)) with
    | some e => e.index
    | none => (s.ctx n).subCons
  (s.ctxCores n).all (fun x => (s.core x.2.2).stepNo != r.step || (s.core x.2.2).finished)
    && !es.any (fun e => e.kind == 2 && !e.finished && decide (r.entry < e.index ∧ e.index < last))

/-- UPDATE_FINISHED (R291): the module acknowledges the commit at the end of UPD; one with a fault repairs its shard first
(R296). Shadows and spares are not awaited (10 R300). DEDUCED, assumption 49. -/
def execUpdateFinished (ctx : BitVec 4) (s : State) : Res :=
  let n := ctx.toNat
  let r := s.updRec n
  let me := s.ctxSelf n
  .next (if r.phase != 4 || r.acked || r.faulted || r.restore == 1 || !s.updOver n then s
    else
      let s := s.modUpd n (fun r => { r with acked := true })
      if me.role == 0 then s.nodeAck n (BitVec.ofNat 16 me.rank) else s)

/-- COMMIT_ACKNOWLEDGEMENT (R291). -/
def State.commitAckAt (s : State) (ctx : BitVec 4) (step epoch : Word) (rank : Half) : State :=
  let r := s.updRec ctx.toNat
  if r.step == step && r.epoch == epoch then s.nodeAck ctx.toNat rank else s

/-- The command of the row: the message arrives (`State.commitAckAt`). -/
def execCommitAcknowledgement (ctx : BitVec 4) (step epoch : Word) (rank : Half) (s : State) : Res := .next (s.commitAckAt ctx step epoch rank)

/-- DONE (R291), passed down the tree. -/
def State.doneAt (s : State) (ctx : BitVec 4) (step epoch : Word) : State :=
  let n := ctx.toNat
  let r := s.updRec n
  let me := s.ctxSelf n
  if r.step == step && r.epoch == epoch && r.phase == 4 then
    let s := s.stepDone n
    if (treeChildren me.n me.rank).isEmpty then s else s.emit (.doneMsg step epoch)
  else s

/-- The command of the row: the message arrives (`State.doneAt`). -/
def execDone (ctx : BitVec 4) (step epoch : Word) (s : State) : Res := .next (s.doneAt ctx step epoch)

/-- The START entries of the update, those between the committed STEP and the next one, that are claimed and not yet
reported run again. DEDUCED, assumption 49. -/
def Ctx.againAfter (c : Ctx) (j : Nat) : Ctx :=
  let last := match c.entries.find? (fun e => e.kind == 3 && decide (e.index > j)) with
    | some e => e.index
    | none => c.subCons
  { c with entries := c.entries.map (fun e =>
      if e.kind == 2 && decide (j < e.index ∧ e.index < last) then { e with started := false, finished := false, status := 0 } else e) }

/-- SHARD_RESTORE (R296), after a fault between commit and acknowledgement, in two goes. The first sets flags.restored and
pauses the context's scheduling. The second comes once the grafts have run and the cores of the step, whose program copies
the shard from the mirror, have finished: the orrery recomputes the parity of every Seedbank group and the update runs
again. DEDUCED, assumption 49. -/
def State.shardRestore (s : State) (n : Nat) : State :=
  let r := s.updRec n
  if r.phase != 4 || r.acked then s
  else if r.restore != 1 then
    if !r.faulted then s
    else (s.modUpd n (fun r => { r with restored := true, restore := 1, restoreTick := s.tick })).writeUpd n
  else if s.grafting n || s.sb.state == 3 || !(s.ctxCores n).all (fun x => (s.core x.2.2).stepNo != r.step || (s.core x.2.2).finished) then s
  else
    let s := s.modUpd n (fun r => { r with faulted := false, restore := 2 })
    let s := s.modCtx n (fun c => c.againAfter r.entry)
    let s := if s.sb.en && s.sb.state != 1 then
        let s := s.parityAll
        { s with sb := { s.sb with unprot := BitVec.ofNat 4 s.unprotNow, state := 2 } }
      else s
    s.writeUpd n

def execShardRestore (ctx : BitVec 4) (s : State) : Res := .next (s.shardRestore ctx.toNat)

end Sys2Proof.Machine
end

