-- ==== Sys2Proof/Machine/Epoch.lean ====
section
/-! DEFINITION. Membership epochs and failed members (10 R318, R319; 11 R350): the next list, proposals, answers,
installation. -/

namespace Sys2Proof.Machine

/-- Some port is up. -/
def State.anyUp (s : State) : Bool := (List.range 16).any (fun p => (s.port p).up)

/-- This module is healthy (11 R348): a valid address and an up port. -/
def State.healthySelf (s : State) : Bool := s.fab.valid && s.anyUp

/-- This module is the lodestar of its cascade (11 R348, R361). -/
def State.isLodestar (s : State) : Bool := s.healthySelf && s.fab.lodestar == s.fab.addr

/-! ## The next list (R319) -/

def Membership.drop (m : Membership) (addr : BitVec 13) : Membership :=
  { m with members := m.members.filter (fun e => e.addr != addr) }

/-- Give a primary's place to another address. -/
def Membership.replace (m : Membership) (old new : BitVec 13) : Membership :=
  { m with members := m.members.map (fun e => if e.addr == old then { e with addr := new } else e) }

/-- The list without a primary that nobody replaces: higher ranks move down. -/
def Membership.shrink (m : Membership) (addr : BitVec 13) (r : Nat) : Membership :=
  { m with members := (m.members.filter (fun e => e.addr != addr && !(e.role == 1 && e.backupOf == r))).map (fun e =>
      if e.role == 1 && decide (e.backupOf > r) then { e with backupOf := e.backupOf - 1 } else e) }

/-- The list in which a failed member is replaced: its shadow becomes the primary and a spare its shadow; with no shadow
a spare takes its rank; a failed shadow or spare leaves. DEDUCED, assumption 55. -/
def Membership.without (m : Membership) (addr : BitVec 13) : Membership :=
  match m.members.find? (fun e => e.addr == addr) with
  | none => m
  | some e =>
    if e.role != 0 then m.drop addr
    else
      let r := (m.place addr).2
      let shadow := m.members.find? (fun x => x.role == 1 && x.backupOf == r)
      let spare := m.members.find? (fun x => x.role == 2)
      match shadow, spare with
      | some sh, some sp => ((m.drop sp.addr).replace sh.addr sp.addr).replace addr sh.addr
      | some sh, none => (m.drop sh.addr).replace addr sh.addr
      | none, some sp => (m.drop sp.addr).replace addr sp.addr
      | none, none => m.shrink addr r

/-! ## Proposals (R350) -/

/-- The first context whose membership has a property, the bound one first. -/
def State.memberCtx (s : State) (p : Membership → Bool) : Option Nat :=
  ((s.trellis.cfg.map (fun c => c.ctx.toNat)).toList ++ List.range 16).find? (fun n => ((s.ctx n).membership.map p).getD false)

/-- The context that a proposed list is for: the one whose membership it shares members with, the bound one first. DEDUCED, assumption 55. -/
def State.epochCtx (s : State) (m : Membership) : Option Nat :=
  s.memberCtx (fun q => q.members.any (fun e => m.members.any (fun x => x.addr == e.addr)))

/-- A new list is accepted for a context, whose FWD waits until it is installed (R350 step 4). -/
def State.epochHolds (s : State) (n : Nat) : Bool := (s.fab.proposal.map (fun m => s.epochCtx m == some n)).getD false

/-- The next number of the cascade's increasing sequence of epochs (10 R304), as far as this module knows it. -/
def State.nextEpoch (s : State) : Word :=
  let known := ((List.range 16).filterMap (fun n => (s.ctx n).membership.map (fun m => m.epoch.toNat)))
    ++ (s.fab.proposal.map (fun m => m.epoch.toNat)).toList
  BitVec.ofNat 32 (known.foldl max 0 + 1)

/-- The other members of a list. -/
def State.others (s : State) (m : Membership) : List (BitVec 13) := (m.members.map Member.addr).filter (· != s.fab.addr)

/-- Write a list into window 15 of every other member and propose it (R350 step 1). DEDUCED, assumption 55. -/
def State.propose (s : State) (m : Membership) : State :=
  let m := { m with epoch := s.nextEpoch }
  let s := { s with fab := { s.fab with proposal := some m, answers := [], committed := false } }
  let s := (s.others m).foldl (fun s a => s.emit (.packet a 1 15 0 m.bytes false)) s
  s.emit (.proposal m.epoch (shake256 m.bytes 32))

/-- Every other member has accepted the proposal. -/
def State.allAccept (s : State) : Bool :=
  match s.fab.proposal with
  | some m => (s.others m).all (fun a => s.fab.answers.any (fun x => x.1 == a && x.2))
  | none => false

/-- The vote word goes up again under a new epoch: a step without a decision is voted again, one with a commit reports
seen_commit (09 R284). -/
def State.revote (s : State) (n : Nat) (epoch : Word) : State :=
  let r := s.srec n
  if !r.started || r.atEnd then s
  else
    let s := s.modSrec n (fun r => { r with epoch := epoch, votes := [], acks := [] })
    if (s.ctxSelf n).role == 0 && (r.voted || r.commit == some true) then s.nodeVote n (s.voteOf n false) else s

/-- A committed step's acknowledgement goes up again under a new epoch. -/
def State.reack (s : State) (n : Nat) (epoch : Word) : State :=
  let r := s.updRec n
  if !r.started || r.phase != 4 then s
  else
    let s := s.modUpd n (fun r => { r with epoch := epoch, acks := [] })
    if (s.ctxSelf n).role == 0 && r.acked then s.nodeAck n (BitVec.ofNat 16 (s.ctxSelf n).rank) else s

/-! ### The vote time of a list (R346) -/

/-- The hops of a route (R336, R337). -/
def routeHops (e : DWord) : Nat := ((List.range 6).map (fun i => fld (e.toNat % 2 ^ 60) (10 * i + 4) 6)).sum

/-- The hops between two members: by this module's route table where it is one of them. DESIGN CHOICE, assumption 81. -/
def State.hopsOf (s : State) (a b : BitVec 13) : Nat :=
  let own (d : BitVec 13) : Nat := routeHops (sget (fun _ => (0 : DWord)) (s.xd 0).fab.routes d.toNat)
  if a == b then 0 else if a == s.fab.addr then own b else if b == s.fab.addr then own a else Config.hopsBetween a.toNat b.toNat

/-- The hops of the tree edges from a rank to rank 0. -/
def State.edgeHops (s : State) (m : Membership) : Nat → Nat → List Nat
  | 0, _ => []
  | f + 1, r => match treeParent r with
    | none => []
    | some p =>
      let at_ (k : Nat) : BitVec 13 := ((m.primaries[k]?).map Member.addr).getD 0
      s.hopsOf (at_ r) (at_ p) :: s.edgeHops m f p

/-- The hop sums to rank 0 keep the bound of R285. -/
def State.voteHopsOk (s : State) (m : Membership) : Bool :=
  (List.range m.n).all (fun r => decide ((s.edgeHops m 14 r).sum ≤ 8 * ceilLog2 m.n / 3))

/-- T_v of a list that breaks it, in nanoseconds. -/
def State.voteNs (s : State) (m : Membership) : Nat :=
  2000 + 2 * (((List.range m.n).map (fun r => ((s.edgeHops m 14 r).map (fun h => 350 + 150 * (h - 1))).sum)).foldl max 0)

/-- The lodestar writes the T_v of such a list to the Almanac at installation. DESIGN CHOICE, assumption 15. -/
def State.writeVoteTime (s : State) (n : Nat) (m : Membership) : State :=
  if !s.isLodestar || s.voteHopsOk m then s
  else s.almanac 0x0A .open_ (some (BitVec.ofNat 4 n)) 0 (9 :: leBytes 4 m.epoch.toNat ++ leBytes 8 (s.voteNs m))

/-! ### Installation -/

/-- A step that has lost its root cannot end under its own epoch (09 R284): without a decision it votes anew, for abort
where its exchange cannot end any more. DEDUCED, assumption 55. -/
def State.rootLost (s : State) (n : Nat) (epoch : Word) : State :=
  let s := (s.revote n epoch).reack n epoch
  if (s.srec n).open_ && (s.srec n).started && !(s.srec n).voted then
    (s.modSrec n (fun r => { r with faulted := true })).earlyVote n else s

/-- Install the proposed list for its context (R350 step 4): list, TR_EPOCH, fold items of earlier epochs, the watch; the
provisional mark clears (R349); the lodestar writes the vote time (R346). -/
def State.installEpoch (s : State) (first : Word) : State :=
  match s.fab.proposal with
  | some m =>
    let done (s : State) : State := { s with fab := { s.fab with
      proposal := none, answers := [], firstStep := first, provisional := false, committed := false } }
    (match s.epochCtx m with
     | some n =>
       let s := s.modCtx n (fun x => { x with membership := some m })
       let s := if s.bound n then (s.setEpoch.trEpoch m.epoch).trFresh.startWatch else s
       ((done s).writeVoteTime n m).rootLost n m.epoch
     | none => done s)
  | none => s

/-- A list may be installed: at the context's step boundary, and at once where it has another root, without which no step
ends. DEDUCED, assumption 55. -/
def State.epochDue (s : State) (m : Membership) : Bool :=
  match s.epochCtx m with
  | some n => (s.ctx n).atEnd ||
      (((s.ctx n).membership.bind (fun q => q.primaries.head?)).map Member.addr != (m.primaries.head?).map Member.addr)
  | none => true

/-- The lodestar commits an accepted epoch once the step is DONE or ABORTED (R350 step 3): DONE reaches it after every
member's acknowledgement, an abort decision binds every member. DEDUCED, assumption 55. -/
def State.commitEpoch (s : State) : State :=
  match s.fab.proposal with
  | some m =>
    if !s.isLodestar || !s.allAccept || !s.epochDue m then s
    else
      let r := s.srec ((s.epochCtx m).getD 0)
      let first := if r.started && r.phase == 5 then r.step + 1 else r.step
      (s.installEpoch first).emit (.epochCommit m.epoch first)
  | none => s

/-- A committed list waits for the step boundary. -/
def State.installDue (s : State) : State :=
  match s.fab.proposal with
  | some m => if s.fab.committed && s.epochDue m then s.installEpoch s.fab.firstStep else s
  | none => s

/-! ## Failed members (R319) -/

/-- The lodestar hears of a failed member of one of its memberships: it injects abort into the vote of the current step
unless a commit exists (R295), and proposes the next list, a provisional lodestar at the next step boundary only (R349). -/
def State.memberFailed (s : State) (addr : BitVec 13) : State :=
  let s := { s with fab := { s.fab with
    failedPeers := if s.fab.failedPeers.contains addr then s.fab.failedPeers else s.fab.failedPeers ++ [addr] } }
  match s.memberCtx (fun m => m.members.any (fun e => e.addr == addr)) with
  | some n =>
    let m := ((s.ctx n).membership).getD { epoch := 0, members := [] }
    let r := s.srec n
    let p := m.place addr
    let s := if p.1 == 0 && r.started && r.open_ then
        s.nodeVote n { step := r.step, epoch := r.epoch, finite := true, complete := false, healthy := false, mirrorOk := true,
                       seenCommit := false, earlyAbort := true, rank := BitVec.ofNat 16 p.2 }
      else s
    if s.fab.provisional then s else s.propose ((s.fab.proposal.getD m).without addr)
  | none => s

/-- The hops of the longest route this module knows: the diameter of R348. DEDUCED, assumption 55. -/
def State.diameter (s : State) : Nat := ((s.xd 0).fab.routes.map (fun r => routeHops r.2)).foldl max 1

/-- A provisional lodestar takes over epoch changes at the next step boundary, after the election has settled (R348,
R349): it proposes the list without the members lost. A module without a membership has no epoch to change. DEDUCED, assumption 55. -/
def State.takeSequencing (s : State) : State :=
  if !s.fab.provisional || !s.isLodestar || s.fab.proposal.isSome
    || decide (s.tick.toNat < s.fab.electTick.toNat + 9400 * (s.diameter + 2)) then s
  else match s.memberCtx (fun _ => true) with
    | some n =>
      let m := ((s.ctx n).membership).getD { epoch := 0, members := [] }
      let m := s.fab.failedPeers.foldl Membership.without m
      if (s.ctx n).atEnd || ((((s.ctx n).membership.bind (fun q => q.primaries.head?)).map Member.addr) != (m.primaries.head?).map Member.addr)
      then s.propose m else s
    | none => { s with fab := { s.fab with provisional := false } }

/-- The lodestar is lost (11 R349): the next generation begins with this module's own address as the lowest known. DEDUCED, assumption 55. -/
def State.loseLodestar (s : State) : State :=
  { s with fab := { s.fab with
      generation := s.fab.generation + 1, lodestar := s.fab.addr, provisional := true, electTick := s.tick,
      failedPeers := if s.fab.failedPeers.contains s.fab.lodestar then s.fab.failedPeers else s.fab.failedPeers ++ [s.fab.lodestar] } }

/-- Report a failed member to the lodestar, which this module may be itself. -/
def State.reportFailed (s : State) (addr : BitVec 13) (epoch : Word) (rank cause : Nat) : State :=
  let s := if addr == s.fab.lodestar && !s.isLodestar then s.loseLodestar else s
  if s.isLodestar then s.memberFailed addr
  else s.emit (.failure addr epoch (BitVec.ofNat 16 rank) (BitVec.ofNat 8 cause))

/-- The address of the watched member of a rank: for this module's own rank its shadow. DEDUCED, assumption 69. -/
def State.watchedAddr (s : State) (rank : Nat) : BitVec 13 :=
  match s.membership with
  | some m => if rank == s.self.rank then
      ((m.members.find? (fun e => e.role == 1 && e.backupOf == rank)).map Member.addr).getD 0 else s.rankAddr rank
  | none => 0

/-- HEARTBEAT_LIMIT_EXPIRY (R318): no heartbeat of a watched rank for TR_HB.limit ticks. DEDUCED, assumption 69. -/
def State.hbExpire (s : State) (rank : Nat) : State :=
  let last := (sget (fun _ => 0) s.trellis.watch rank).toNat
  if !s.watched.contains rank || s.trellis.failed.contains rank || decide (s.tick.toNat < last + (s.xd 0).tr.hbLimit.toNat) then s
  else
    let s := { s with trellis := { s.trellis with failed := s.trellis.failed ++ [rank] } }
    let s := s.raiseTr 0 8 0 rank s.trStep.toNat
    s.reportFailed (s.watchedAddr rank) s.self.epoch rank 1

/-- The limit of a rank 0 that is alone in its membership (R318): its watch ends with the declaration. -/
def State.loneExpire (s : State) (addr : BitVec 13) : State :=
  match s.trellis.lone.find? (fun l => l.1 == addr) with
  | some (_, epoch, last) =>
    if s.tick.toNat < last.toNat + (s.xd 0).tr.hbLimit.toNat then s
    else
      let s := { s with trellis := { s.trellis with lone := s.trellis.lone.filter (fun l => l.1 != addr) } }
      (s.raiseTr 0 8 0 0 s.trStep.toNat).reportFailed addr epoch 0 1
  | none => s

/-- HEARTBEAT_LIMIT_EXPIRY of a watched rank, or of an address whose rank 0 is alone in its membership. -/
def execHeartbeatLimitExpiry (rank : WatchedRank) (s : State) : Res :=
  .next (match rank.alone with
    | none => s.hbExpire rank.rank.toNat
    | some a => s.loneExpire a)

/-- FAILURE_REPORT at the lodestar (R319, R350). -/
def State.failureAt (s : State) (addr : BitVec 13) (epoch : Word) (_rank : Half) (_cause : Byte) : State :=
  if s.isLodestar && !s.fab.failedPeers.contains addr
    && (s.memberCtx (fun m => m.epoch == epoch && m.members.any (fun e => e.addr == addr))).isSome then s.memberFailed addr else s

/-- The command of the row: the message arrives (`State.failureAt`). -/
def execFailureReport (addr : BitVec 13) (epoch : Word) (rank : Half) (cause : Byte) (s : State) : Res := .next (s.failureAt addr epoch rank cause)

end Sys2Proof.Machine
end

