-- ==== Sys2Proof/Machine/Orrery.lean ====
section
/-! DEFINITION. The orrery (13): contexts and time slicing, submission entries, scheduling ticks, paced periods (11
R354), watchdogs and takeover, deadlocks (07 R215). -/

namespace Sys2Proof.Machine

/-! ## Who runs -/

/-- Orrery firmware runs (R389, R420 fw_state). -/
def State.fwRuns (s : State) : Bool := s.orr.fwState == 2 || s.orr.fwState == 3 || s.orr.fwState == 5

/-- The orrery core of a context schedules it: firmware runs and the core is in service. From its crash to its takeover
nothing of the context is scheduled (R398). -/
def State.served (s : State) (n : Nat) : Bool := s.fwRuns && (s.oc (s.ctx n).oc.toNat).role == 0

/-- No context is released until the sidereal count is locked (11 R351): a rule for members of a cascade, which the
lodestar itself and a module without a fabric address meet. DEDUCED, assumption 30. -/
def State.timeReady (s : State) : Bool := s.fab.locked || !s.fab.valid || s.fab.lodestar == s.fab.addr

/-- A context waits for cores or for its turn (R400); none runs before an image has confirmed its health (16 R488). -/
def State.wants (s : State) (n : Nat) : Bool :=
  let c := s.ctx n
  (c.st == .ready || c.st == .saved) && !c.destroying && s.timeReady && s.orr.opened && !s.orr.hold

/-- Contexts that hold cores of a context's sites. DEDUCED, assumption 26. -/
def State.occupants (s : State) (n : Nat) : List Nat :=
  (((s.ctxCores n).filterMap (fun x => (s.core x.2.2).ctx)).map BitVec.toNat).eraseDups.filter (· != n)

/-- An entry of a context is started and not finished. DEDUCED, assumption 26. -/
def Ctx.busy (c : Ctx) : Bool := c.entries.any (fun e => e.started && !e.finished)

/-- The context's quantum has expired (R401). -/
def State.quantumOver (s : State) (n : Nat) : Bool :=
  let c := s.ctx n
  c.desc.quantum != 0 && decide (s.tick.toNat ≥ c.sliceStart.toNat + c.desc.quantum.toNat)

/-- Context `n` takes the place of the occupant `m` (R401): higher priority, or equal with an expired quantum, or an
occupant in hold. A sealed context is never switched out (14 R435). DEDUCED, assumption 41. -/
def State.displaces (s : State) (n m : Nat) : Bool :=
  let a := (s.ctx n).desc.prio
  let b := (s.ctx m).desc.prio
  !(s.ctx m).desc.sealedCtx && (decide (a > b) || (a == b && s.quantumOver m) || (s.ctx m).st == .held)

/-- Begin to switch a context out: without lean its CCs pause and its queues drain (R401). -/
def State.beginSwitch (s : State) (m : Nat) : State :=
  let c := s.ctx m
  if c.switching || bitAt (s.gis.halted ||| s.pwr.redo).toNat m then s
  else
    let s := s.modCtx m (fun c => { c with switching := true })
    if c.desc.lean then s else (s.ctxCores m).foldl (fun s x => s.ccPause x.2.2 true) s

/-- Contexts in scheduling order: highest priority, then rotating in context order (R401). -/
def State.schedOrder (s : State) : List Nat :=
  let turn := (List.range 16).map (fun i => (s.orr.rotate + 1 + i) % 16)
  (List.range 8).reverse.flatMap (fun p => turn.filter (fun n => (s.ctx n).st != .free && (s.ctx n).desc.prio == p))

/-- A context of higher priority became ready: occupants begin to leave at once (R401). -/
def State.preempt (s : State) : State :=
  (s.schedOrder.filter s.wants).foldl (fun s n =>
    (s.occupants n).foldl (fun s m =>
      if (s.ctx m).st == .running && !(s.ctx m).desc.sealedCtx && decide ((s.ctx n).desc.prio > (s.ctx m).desc.prio) then s.beginSwitch m else s) s) s

/-! ## Saving and restoring (R402) -/

/-- Bytes of one core's image. -/
def imageSize (lean : Bool) (pins : Nat) : Nat := if lean then 495744 + 65536 * pins else 5738624

def Me.pins (m : Me) : Nat := (onesOf 16 m.pinned.toNat).length

/-- Available bytes from save_addr to the end of its region (R399), and the bytes that the images present need there. -/
def State.saveFits (s : State) (m : Nat) : Bool :=
  let d := (s.ctx m).desc
  let size (cs : List (Nat × Nat × Nat)) : Nat := (cs.map (fun x => imageSize d.lean (s.core x.2.2).me.pins)).sum
  if d.saveBed then (s.ctxSites m).all (fun l => decide (d.saveAddr + size (s.coresOf [l]) ≤ parityBase))
  else decide (d.saveAddr + size (s.ctxCores m) ≤ fwBase)

/-- The core has come to a command boundary: CC not fetching, queues drained, SE contexts paused or ended. -/
def Core.atBoundary (c : Core) : Bool :=
  !c.cc.st.fetches && c.me.idle && c.ve.idle && c.se.queue.isEmpty && c.se.fence.isNone && (c.se.idle || c.se.paused)

/-- Once a core's SE queue has drained, its stream contexts pause (07 R222). -/
def Core.pauseSe (c : Core) : Core :=
  if !c.cc.st.fetches && c.se.queue.isEmpty && c.se.fence.isNone then { c with se := { c.se with pause := true } } else c

/-- The context can leave its cores. -/
def State.canLeave (s : State) (m : Nat) : Bool :=
  if (s.ctx m).desc.lean then !(s.ctx m).busy && (s.ctxCores m).all (fun x => (s.core x.2.2).idle && !(s.core x.2.2).cc.st.fetches)
  else (s.ctxCores m).all (fun x => (s.core x.2.2).atBoundary)

/-- Set GDDR7 bytes [lo, hi) together, written under the key of their slot. -/
def State.gddrFill (s : State) (lo hi : Nat) (src : List FreeSrc) : State :=
  let g : Gddr := { s.gddr with mem := s.gddr.mem.fillRange lo hi src }
  { s with gddr := g.fillUnits (lo / 64) ((hi + 63) / 64) (s.slotGen (s.xtsSlot lo)) }

/-- Leave a range of the save area undefined: it holds images whose layout the manual does not give. DEDUCED, assumption 41. -/
def State.fillSave (s : State) (m : Nat) (src : Nat → List FreeSrc) : State :=
  let d := (s.ctx m).desc
  let size (cs : List (Nat × Nat × Nat)) : Nat := (cs.map (fun x => imageSize d.lean (s.core x.2.2).me.pins)).sum
  if d.saveBed then (s.ctxSites m).foldl (fun s l => match s.physOf l with
      | some p => s.modBed p (fun b => b.fillRange d.saveAddr (d.saveAddr + size (s.coresOf [l])) (src l))
      | none => s) s
  else s.gddrFill d.saveAddr (d.saveAddr + size (s.ctxCores m)) (src 0)

/-- Switch a context out: save each core, leave the cores free. DEDUCED, assumption 41. -/
def State.switchOut (s : State) (m : Nat) : State :=
  if (s.ctx m).desc.lean && !s.saveFits m then (s.modCtx m (fun c => { c with switching := false })).almCtx m 6
  else
    let cs := s.ctxCores m
    let (n, s) := s.fresh 1
    let s := s.fillSave m (fun l => [{ event := n, shift := (l : Int) * 2 ^ 30 }])
    let s := cs.foldl (fun s x =>
      let c := s.core x.2.2
      (s.modCtx m (fun q => { q with saved := sset (fun _ => none) q.saved (32 * x.1 + x.2.1) (some c) })).modCore x.2.2 (fun c =>
        { c.wipeRegs with ctx := none })) s
    let s := s.modCtx m (fun c => { c with st := if c.st == .held then .held else .saved, switching := false })
    s.almCtx m 3

/-- A core with the context state of an image (R402): with lean = 1 the scratchpad and the unpinned tiles are
undefined. DEDUCED, assumption 41. -/
def Core.restore (c sv : Core) (lean : Bool) (free : Nat) : Core :=
  let tile (t : Nat) : Tile :=
    if lean && !bitAt sv.me.pinned.toNat t then Tile.undef (free + 1 + 16384 * t) else sget (fun _ => Tile.zero) sv.me.tiles t
  { c with
    cc := { c.cc with
      regs := sv.cc.regs, pc := sv.cc.pc, bank := sv.cc.bank, loops := sv.cc.loops,
      st := if sv.cc.st == .paused then .running else sv.cc.st, stopCode := sv.cc.stopCode, verA := sv.cc.verA, verB := sv.cc.verB,
      meCnt := sv.cc.meCnt, veCnt := sv.cc.veCnt, seCnt := sv.cc.seCnt, hazard := sv.cc.hazard, numStat := sv.cc.numStat,
      dmem := sv.cc.dmem, dmemPoison := sv.cc.dmemPoison, imemA := sv.cc.imemA, imemB := sv.cc.imemB,
      ctl := { c.cc.ctl with pause := false, beaconMask := sv.cc.ctl.beaconMask, logMark := c.cc.errSeq } },
    me := { c.me with
      tiles := (List.range 16).foldl (fun m t => sset (fun _ => Tile.zero) m t (tile t)) [],
      accPoison := if lean then [] else sv.me.accPoison, feeds := sv.me.feeds, scaleOk := sv.me.scaleOk, rmask := sv.me.rmask,
      pinned := sv.me.pinned, sealedT := sv.me.sealedT, haltedT := sv.me.haltedT },
    ve := { c.ve with
      tables := sv.ve.tables, bank := sv.ve.bank, bankStat := sv.ve.bankStat, permOor := sv.ve.permOor,
      rowEmptySeen := sv.ve.rowEmptySeen, haltedV := sv.ve.haltedV },
    se := { c.se with
      ctxs := sv.se.ctxs, hqs := sv.se.hqs, remotes := sv.se.remotes, tdescs := sv.se.tdescs, tdStat := sv.se.tdStat, waitLimit := sv.se.waitLimit,
      waits := sv.se.waits, pause := false },
    sp := if lean then Mem.undef free else sv.sp,
    spPoison := if lean then [] else sv.spPoison, stepNo := sv.stepNo }

/-- The first period of a paced context (11 R354): T0, or the first T0 + k × Lp after activation. DEDUCED, assumption 70. -/
def State.activatePace (s : State) (n : Nat) : State :=
  let c := s.ctx n
  if !c.desc.paced || c.paceOn then s
  else
    let t0 := c.desc.t0.toNat
    let lp := c.desc.lp.toNat
    let k := if s.tick.toNat ≤ t0 then 0 else (s.tick.toNat - t0) / lp + 1
    let st := t0 + k * lp
    s.modCtx n (fun c => ({ c with paceOn := true } : Ctx).startPeriod k st)

/-- Give a context its cores: restore what was saved, and run. DEDUCED, assumption 41. -/
def State.switchIn (s : State) (n : Nat) : State :=
  let lean := (s.ctx n).desc.lean
  let s := (s.ctxCores n).foldl (fun s x =>
    let (f, s) := s.fresh (1 + 16384 * 16)
    match sget (fun _ => none) (s.ctx n).saved (32 * x.1 + x.2.1) with
    | some sv => s.modCore x.2.2 (fun c => { c.restore sv lean f with ctx := some (BitVec.ofNat 4 n) })
    | none => s.modCore x.2.2 (fun c => { c with ctx := some (BitVec.ofNat 4 n) })) s
  let s := s.modCtx n (fun c => { c with st := .running, saved := [], sliceStart := s.tick, switching := false })
  let s := s.modOrr (fun o => { o with rotate := n })
  (s.activatePace n).almCtx n 9

/-- Schedule one waiting context (R401): occupants that it displaces begin to leave, those that can leave do, and once
its cores are free it runs. DEDUCED, assumption 41. -/
def State.schedule (s : State) (n : Nat) : State :=
  if !s.wants n then s
  else
    let s := (s.occupants n).foldl (fun s m => if s.displaces n m then s.beginSwitch m else s) s
    let s := (s.occupants n).foldl (fun s m =>
      if !(s.ctx m).switching then s
      else
        let s := if (s.ctx m).desc.lean then s else s.eachCore (s.ctxCores m) Core.pauseSe
        if s.canLeave m then s.switchOut m else s) s
    if (s.occupants n).isEmpty then s.switchIn n else s

/-- QUANTUM_EXPIRY (R401): the running context begins to leave when another of equal or higher priority is ready. -/
def execQuantumExpiry (ctx : BitVec 4) (s : State) : Res :=
  let m := ctx.toNat
  .next (if s.served m && (s.ctx m).st == .running && s.quantumOver m &&
      (List.range 16).any (fun n => n != m && s.wants n && s.overlaps m n && s.displaces n m) then s.beginSwitch m else s)

/-! ## Submission entries (R403, R404) -/

/-- Decode a submission entry. -/
def readEntry (b : List Byte) (j : Nat) : Entry :=
  let fl := bfld b 1 1
  { kind := BitVec.ofNat 8 (bfld b 0 1), irq := bitAt fl 0, barrier := bitAt fl 1, seq := BitVec.ofNat 32 (bfld b 4 4),
    sites := BitVec.ofNat 64 (bfld b 8 8), cores := BitVec.ofNat 32 (bfld b 16 4), src := bfld b 20 6, len := bfld b 26 4,
    target := BitVec.ofNat 8 (bfld b 30 1), dst := bfld b 31 3, ver := BitVec.ofNat 16 (bfld b 34 2), pc := BitVec.ofNat 16 (bfld b 20 2),
    bank := bfld b 22 1 == 1, step := BitVec.ofNat 32 (bfld b 24 4), started := false, finished := false, measured := false,
    status := 0, logAt := [], doneOn := [], index := j }

/-- Bytes of the target of a LOAD. -/
def targetSize (t : Byte) : Nat := if t == 1 then 65536 else 131072

/-- The entry breaks R404: unknown kind, reserved bytes, sites beyond the context's, a LOAD out of range. DEDUCED, assumption 42. -/
def entryBad (d : CtxDesc) (b : List Byte) (e : Entry) : Bool :=
  let common := decide (bfld b 1 1 ≥ 4) || bfld b 2 2 != 0 || (e.sites &&& ~~~d.sites) != 0
  match e.kind.toNat with
  | 1 => common || bfld b 36 28 != 0 || e.src % 64 != 0 || e.len % 64 != 0 || e.len == 0 || decide (e.target.toNat > 3)
      || decide (e.dst + e.len > targetSize e.target) || !areaOk e.src e.len
  | 2 => common || decide (bfld b 22 1 > 1) || bfld b 23 41 != 0
  | 3 => common || decide (bfld b 22 1 > 1) || bfld b 23 1 != 0 || bfld b 28 36 != 0
  | 4 => common || bfld b 20 44 != 0
  | _ => true

/-- What the state of a context refuses (R404; 14 R435): STEP without the training flag, START and STEP before
SEAL_CFG, LOAD into IMEM once keyed. -/
def State.entryRefused (s : State) (n : Nat) (e : Entry) : Bool :=
  let d := (s.ctx n).desc
  let st := (s.seal n).state
  (e.kind == 3 && !d.training) || (d.sealedCtx && (e.kind == 2 || e.kind == 3) && st == 0)
    || (d.sealedCtx && e.kind == 1 && e.target != 1 && st == 2)

/-- Claim entry `j` of a context's submission ring. -/
def State.claim (s : State) (n : Nat) : State :=
  let c := s.ctx n
  let b := s.oread (ringAt c.desc.subAddr 64 c.desc.subN c.subCons) 64
  let s := s.oseen (ringAt c.desc.subAddr 64 c.desc.subN c.subCons) 64
  let e := readEntry b c.subCons
  let unknown := decide (e.kind.toNat < 1) || decide (e.kind.toNat > 4)
  let bad := entryBad c.desc b e
  let e := if bad || s.entryRefused n e then { e with finished := true, status := 3 } else e
  let s := s.modCtx n (fun c => { c with entries := c.entries ++ [e], subCons := c.subCons + 1 })
  if bad && !unknown then s.raise .orr 12 else s

/-- Poll the rings of a context (R403): claim what the completion ring has room for, write the consumer index and the
snapshot that records the claims (R397). -/
def State.pollCtx (s : State) (n : Nat) : State :=
  let c := s.ctx n
  let d := c.desc
  if !(c.st == .ready || c.st == .running || c.st == .saved) || c.destroying || c.held then s
  else
    let p := s.onat d.subAddr 8
    let cc := s.onat (d.cplAddr + 64) 8
    let s := (s.oseen d.subAddr 8).oseen (d.cplAddr + 64) 8
    if p < c.subCons ∨ p > c.subCons + d.subN ∨ cc > c.cplProd ∨ c.cplProd > cc + d.cplN then s.raise .orr 12
    else
      let room := d.cplN - (c.cplProd - cc) - c.entries.length
      let k := min (p - c.subCons) room
      let s := (List.range k).foldl (fun s _ => s.claim n) s
      let s := if k == 0 then s else s.owrite (d.subAddr + 64) (leBytes 8 (s.ctx n).subCons)
      s.modCtx n (fun c => { c with snapshot := c.subCons })

/-- Entry `e` names a core that entry `f` names. -/
def Entry.shares (e f : Entry) : Bool := (e.sites &&& f.sites) != 0 && (e.cores &&& f.cores) != 0

/-- The entry's step has its commit decision. DEDUCED, assumption 23. -/
def Ctx.committed (c : Ctx) (f : Entry) : Bool :=
  c.upd.any (fun r => r.entry == f.index) || (c.srec.entry == f.index && c.srec.phase == 4)

/-- Every core that both entries name has finished the earlier one (R404, R405); a STEP that may still be run again has
finished on none. DEDUCED, assumption 23. -/
def State.passed (s : State) (n : Nat) (f e : Entry) : Bool :=
  f.started && (f.kind == 2 || (f.kind == 3 && (s.ctx n).committed f))
    && (s.entryCores { f with sites := f.sites &&& e.sites, cores := f.cores &&& e.cores }).all (fun x => (s.core x.2.2).finished)

/-- Nothing that `e` must wait for is left among the earlier entries (R404). A LOAD into the inactive bank passes a
running START or STEP; steps follow each other in order, the next FWD once the last decision is commit (09 R266). DEDUCED, assumption 23. -/
def State.clear (s : State) (n : Nat) (e : Entry) : Bool :=
  (s.ctx n).entries.all (fun f => f.finished || decide (f.index ≥ e.index) ||
    (!e.barrier && e.kind != 4 && ((!e.shares f && !(e.kind == 3 && f.kind == 3)) || s.passed n f e
      || (e.kind == 1 && e.target == 0 && (f.kind == 2 || f.kind == 3) && f.started))))

/-- A paced context's work begins at its first period. DEDUCED, assumption 70. -/
def State.paceReached (s : State) (n : Nat) : Bool :=
  let c := s.ctx n
  !c.desc.paced || (c.paceOn && decide (s.tick.toNat ≥ c.pStart.toNat))

/-- The repair of a shard has paused the context's scheduling, for at most 50 µs (09 R296). -/
def State.restoring (s : State) (n : Nat) : Bool :=
  let r := s.updRec n
  r.restore == 1 && decide (s.tick.toNat < r.restoreTick.toNat + 47000)

/-- The next entry of a kind that may start. From P2 on no STEP or START is released (16 R476), nor once every context is
to stop at its step boundary (R388). DEDUCED, assumption 23. -/
def State.nextEntry (s : State) (n : Nat) (kind : Byte) : Option Entry :=
  let c := s.ctx n
  if !s.served n || c.st != .running || c.switching || c.destroying || c.held || s.restoring n || bitAt (s.gis.halted ||| s.pwr.redo).toNat n
    || ((kind == 2 || kind == 3) && (s.orr.stopping || decide (s.pwr.level ≥ 2))) then none
  else c.entries.find? (fun e => e.kind == kind && !e.started && !e.finished && s.clear n e)

/-- Change one entry. -/
def State.modEntry (s : State) (n j : Nat) (f : Entry → Entry) : State :=
  s.modCtx n (fun c => { c with entries := c.entries.map (fun e => if e.index == j then f e else e) })

/-- The part of an earlier entry that is over once `e` takes its cores: their stop codes and log counts. DEDUCED, assumption 23. -/
def State.takenBy (s : State) (f e : Entry) : List (Nat × Half × Half) :=
  ((s.entryCores e).filter (fun x => f.logAt.any (fun y => y.1 == x.2.2) && !f.doneOn.any (fun d => d.1 == x.2.2))).map (fun x =>
    (x.2.2, (s.core x.2.2).cc.stopCode, (s.core x.2.2).cc.errSeq))

/-- Mark an entry started, with the log counts of its cores (those of its first start when it is run again); earlier
entries are over on the cores it takes. -/
def State.startEntry (s : State) (n : Nat) (e : Entry) : State :=
  let logs := if e.logAt.isEmpty then (s.entryCores e).map (fun x => (x.2.2, (s.core x.2.2).cc.errSeq)) else e.logAt
  s.modCtx n (fun c => { c with entries := c.entries.map (fun f =>
    if f.index == e.index then { f with started := true, logAt := logs }
    else if f.started && !f.finished && f.kind != 1 && e.kind != 1 then { f with doneOn := f.doneOn ++ s.takenBy f e }
    else f) })

/-- MARK completes when every earlier entry has (R404). -/
def State.markEntry (s : State) (n : Nat) (e : Entry) : State := s.modEntry n e.index (fun e => { e with started := true, finished := true })

def execMark (ctx : BitVec 4) (s : State) : Res :=
  .next (match s.nextEntry ctx.toNat 4 with
    | some e => s.markEntry ctx.toNat e
    | none => s)

/-- The named cores start under 08 R255; the commands they issue are of the context's newest step (02 R56). -/
def State.startCores (s : State) (n : Nat) (e : Entry) : State :=
  (s.entryCores e).foldl (fun s x => (s.modCore x.2.2 (fun c => { c with stepNo := (s.srec n).step })).ccStart x.2.2 e.pc e.bank) s

def execStart (ctx : BitVec 4) (s : State) : Res :=
  let n := ctx.toNat
  .next (match s.nextEntry n 2 with
    | some e => if s.paceReached n then (s.startEntry n e).startCores n e else s
    | none => s)

/-! ### LOAD -/

/-- The bank a LOAD writes on a core; none for DMEM. Target 0 is the bank other than CC_STAT.bank. -/
def loadBank (c : Cc) (t : Byte) : Option Bool :=
  if t == 0 then some (!c.bank) else if t == 2 then some false else if t == 3 then some true else none

/-- Write a LOAD image to one core; the Boolean tells of a refused write into the active bank. -/
def State.loadCore (s : State) (k : Nat) (e : Entry) (img : List Byte) : State × Bool :=
  match loadBank (s.core k).cc e.target with
  | none => (s.dmemWindow k e.dst img, false)
  | some b =>
    if (s.core k).cc.activeBank == some b then (s.imemRefuse k (e.dst / 2) b, true)
    else
      (s.modCc k (fun c =>
        let c := c.drainImem
        let c := if b then { c with imemB := c.imemB.setBytes e.dst img, verB := e.ver } else { c with imemA := c.imemA.setBytes e.dst img, verA := e.ver }
        c), false)

/-- Write a LOAD image to all named cores. -/
def State.loadAll (s : State) (cs : List (Nat × Nat × Nat)) (e : Entry) : State × Bool :=
  let img := s.oread e.src e.len
  let s := s.oseen e.src e.len
  cs.foldl (fun (acc : State × Bool) x =>
    let r := acc.1.loadCore x.2.2 e img
    (r.1, acc.2 || r.2)) (s, false)

/-- The orrery's request area for channel 1 of the security block, in its working memory (R392). DESIGN CHOICE, assumption 31. -/
def orrReqAddr : Nat := 0x2FFF100000

/-- Submit a request on channel 1 (14 R432). -/
def State.secAsk (s : State) (code ctx : Nat) (a0 len : Nat) : State :=
  let rec_ := leBytes 1 code ++ leBytes 1 ctx ++ [0, 0] ++ leBytes 4 0 ++ leBytes 8 a0 ++ List.replicate 16 0 ++ leBytes 8 len ++ List.replicate 24 0
  (s.owrite orrReqAddr rec_).modSec (fun c => { c with ch1 := { c.ch1 with addr := BitVec.ofNat 48 orrReqAddr, busy := true, record := rec_ } })

/-- An executed LOAD as it is replayed (15 R452): into the bank that each core got it in. -/
def State.executed (s : State) (e : Entry) : List Entry :=
  if e.target != 0 then [e]
  else
    let cs := s.entryCores e
    let bank (x : Nat × Nat × Nat) : Bool := !(s.core x.2.2).cc.bank
    if cs.all (fun x => !bank x) then [{ e with target := 2 }]
    else if cs.all bank then [{ e with target := 3 }]
    else cs.map (fun x => { e with sites := BitVec.ofNat 64 (2 ^ x.1), cores := BitVec.ofNat 32 (2 ^ x.2.1), target := if bank x then 3 else 2 })

/-- LOAD (R404): its image is measured first (14 R429); then it is written to every named core. One claimed before its
context was keyed is refused after (14 R435). -/
def State.loadEntry (s : State) (n : Nat) (e : Entry) : State :=
  if s.entryRefused n e then s.modEntry n e.index (fun e => { e with finished := true, status := 3 })
  else if s.sec.ch1.busy then s
  else if !e.measured then (s.modEntry n e.index (fun e => { e with measured := true })).secAsk 0x11 n e.src e.len
  else
    let s := s.startEntry n e
    let r := s.loadAll (s.entryCores e) e
    let s := r.1.modEntry n e.index (fun e => { e with finished := true, status := if r.2 then 3 else 0 })
    s.modCtx n (fun c => { c with loads := c.loads ++ s.executed { e with img := s.oread e.src e.len } })

def execLoad (ctx : BitVec 4) (s : State) : Res :=
  .next (match s.nextEntry ctx.toNat 1 with
    | some e => s.loadEntry ctx.toNat e
    | none => s)

/-! ### STEP (09 R266, R280, R298) -/

/-- The bound context's record is accepted; a context without a Trellis record never waits (10 R303, R304). -/
def State.trellisReady (s : State) (n : Nat) : Bool :=
  (s.ctx n).desc.trellisAddr == 0 || (s.bound n && (s.xd 0).tr.cfgValid)

/-- The step record at the start of a step. A step of the same number as the aborted one before it is its repeat. -/
def StepRec.begin_ (r : StepRec) (p : Policy) (step epoch : Word) (entry : Nat) (c1 c2 : Word) : StepRec :=
  { r with
    step := step, phase := 1, outcome := 0, sigma := if r.started then r.sigma else p.sigmaInit,
    used := if r.started then r.sigma else p.sigmaInit, lenient := false,
    repeated := r.started && r.step == step && r.phase == 6, restored := false, early := false, firstCore := 0, firstTag := 0,
    epoch := epoch, started := true, voteTick := 0, voted := false, votes := [], acks := [], acked := false, commit := none,
    decBits := 0, faulted := false, tally := 0, mirror := 0, entry := entry, c1 := c1, c2 := c2, restore := 0 }

/-- Release a step: record, headers, cleared numeric status, Trellis begun, cores started (R67, R280, R299). The factors c₁ and
c₂ of the step (R286) are free values: the manual gives the orrery no β₁ and β₂. DESIGN CHOICE, assumption 80. -/
def State.beginStep (s : State) (n : Nat) (e : Entry) (p : Policy) : State :=
  let s := s.startEntry n e
  let s := s.modCtx n (fun c => { c with policy := some p, upd := if c.srec.started && c.srec.phase == 4 then some c.srec else c.upd })
  let (f, s) := s.fresh 2
  let s := s.modSrec n (fun r => r.begin_ p e.step (s.ctxSelf n).epoch e.index (Config.freeWord 32 f) (Config.freeWord 32 (f + 1)))
  let s := s.modOrr (fun o => { o with fwdBeacons := o.fwdBeacons.filter (fun b => b.1.toNat != n) })
  let cs := s.ctxCores n
  let s := s.eachCore cs (fun c => { c with cc := { c.cc with numStat := { c.cc.numStat with nan := false, inf := false, sat := false } } })
  let s := s.writeHeaders cs p (s.srec n)
  let s := if s.bound n then ({ s with trellis := { s.trellis with turn := n } } : State).trBegin n e.step else s
  (s.writeSrec n).startCores n e

/-- The membership of a context holds a held module (R408). -/
def State.heldMember (s : State) (n : Nat) : Bool :=
  match (s.ctx n).membership with
  | some m => m.members.any (fun e => s.fab.held.contains e.addr)
  | none => false

/-- STEP: the policy record is read at the start of every step; one out of range stops the context with outcome 5
(R298). FWD waits while the membership holds a held module (R408) or Trellis is not bound, a repeat until the cores it
names are idle, and a step while two before it await DONE. DEDUCED, assumption 42. -/
def State.stepEntry (s : State) (n : Nat) (e : Entry) : State :=
  if s.heldMember n || s.epochHolds n || !s.trellisReady n || !s.paceReached n || ((s.ctx n).upd.isSome && (s.srec n).phase == 4)
    || !(s.entryCores e).all (fun x => (s.core x.2.2).idle) then s
  else
  let rec_ := readPolicy (s.oread (s.ctx n).desc.policyAddr 64)
  let s := s.oseen (s.ctx n).desc.policyAddr 64
  match rec_ with
    | none =>
      ((s.modEntry n e.index (fun e => { e with started := true, finished := true, status := 2 })).modSrec n (fun r =>
        { r with step := e.step })).stopCtx n
    | some p => s.beginStep n e p

def execStep (ctx : BitVec 4) (s : State) : Res :=
  .next (match s.nextEntry ctx.toNat 3 with
    | some e => s.stepEntry ctx.toNat e
    | none => s)

/-! ### ENTRY_FINISHED (R405) -/

/-- A started START has finished on every named core; one that was halted ends once its cores have stopped (15 R452). That
of a context that is switched out waits for its cores. -/
def State.startOver (s : State) (n : Nat) (e : Entry) : Bool :=
  e.kind == 2 && e.started && (s.ctx n).saved.isEmpty && (s.entryCores e).all (fun x =>
    let c := s.core x.2.2
    e.doneOn.any (fun d => d.1 == x.2.2) || c.finished || (e.status == 2 && (c.cc.st == .halted || c.cc.st == .fault || c.cc.st == .stopped)))

/-- Write the completion record of the first finished entry. -/
def State.entryFinished (s : State) (n : Nat) : State :=
  match (s.ctx n).entries.find? (fun e => e.finished || s.startOver n e) with
  | none => s
  | some e =>
    let r := s.entryRecord e
    let s := s.modCtx n (fun c => { c with entries := c.entries.filter (fun f => f.index != e.index) })
    s.complete n e.irq r

def execEntryFinished (ctx : BitVec 4) (s : State) : Res :=
  .next (if s.served ctx.toNat then s.entryFinished ctx.toNat else s)

/-! ## Paced periods (11 R354) -/

/-- Every paced queue of the context has popped its handle of the current period. -/
def State.periodPopped (s : State) (n : Nat) : Bool :=
  (s.ctxCores n).all (fun x => (List.range 32).all (fun q =>
    let h := s.hq x.2.2 q
    match h.cfg with
    | some c => !c.paced || decide ((s.ctx n).period.toNat < c.firstPeriod.toNat + h.popIndex)
    | none => true))

/-- PACED_PERIOD_END: period k ends at s_k + ℓ_k, or when its last paced pop completes if that is later, which is a
deadline miss. DEDUCED, assumption 70. -/
def State.periodEnd (s : State) (n : Nat) : State :=
  let c := s.ctx n
  let due := c.pStart.toNat + c.pLen.toNat
  if !c.desc.paced || !c.paceOn || s.tick.toNat < due || !s.periodPopped n then s
  else
    let f := c.pFinish.toNat
    let late := decide (f > due)
    let st := if late then f else due
    let k := c.period.toNat + 1
    let s := s.modCtx n (fun c => c.startPeriod k st)
    if late then s.almanac 0x04 .open_ (some (BitVec.ofNat 4 n)) 0 (leBytes 4 0xFFFFFFFF ++ leBytes 8 c.period.toNat ++ leBytes 8 (f - due)) else s

def execPacedPeriodEnd (ctx : BitVec 4) (s : State) : Res := .next (s.periodEnd ctx.toNat)

/-! ## Deadlock (07 R215) -/

/-- A node of the wait graph: core key and endpoint. -/
abbrev WNode := Nat × Nat

/-- The consumers that a multicast acquire of stream context `x` on queue `q` waits for: those of the full member
queues. -/
def State.fullMembers (s : State) (k x q : Nat) : List WNode :=
  ((s.liveMembers k ((s.core k).se.ctx x).groupRun).filter (fun m => !s.memberFree k q m)).filterMap (fun m =>
    (s.hq m.2.2 q).cfg.map (fun c => (m.2.2, c.cons.toNat)))

/-- Where a wait points. -/
def State.waitEdges (s : State) (k : Nat) (w : HqWait) : List WNode :=
  let q := w.hq.toNat
  if !w.acq then
    (match (s.hq k q).cfg with
     | some c => if c.remote then ((s.key c.rsite c.rcore).map (fun m => (m, c.prod.toNat))).toList else [(k, c.prod.toNat)]
     | none => [])
  else if ((s.core k).se.ctx (w.endpoint.toNat - 1)).waitKind == 4 then s.fullMembers k (w.endpoint.toNat - 1) q
  else match s.key w.rsite w.rcore with
    | some m => ((s.hq m q).cfg.map (fun c => (m, c.cons.toNat))).toList
    | none => []

/-- The wait graph of a context: node, queue, successors. DEDUCED, assumption 44. -/
def State.waitGraph (s : State) (n : Nat) : List (WNode × Nat × List WNode) :=
  (s.ctxCores n).flatMap (fun x => (s.core x.2.2).se.waits.map (fun w => ((x.2.2, w.endpoint.toNat), w.hq.toNat, s.waitEdges x.2.2 w)))

/-- Nodes reachable in at most `f` more rounds. -/
def reach (g : List (WNode × Nat × List WNode)) : Nat → List WNode → List WNode
  | 0, l => l
  | f + 1, l => reach g f ((l ++ (g.filter (fun e => l.contains e.1)).flatMap (fun e => e.2.2)).eraseDups)

/-- The entries of the graph that lie on a cycle. DEDUCED, assumption 44. -/
def cycles (g : List (WNode × Nat × List WNode)) : List (WNode × Nat × List WNode) :=
  g.filter (fun e => (reach g g.length e.2.2).contains e.1)

/-- A core forgets the handles its endpoints hold, those of commands still in progress too, and its waits. -/
def Core.dropHandles (c : Core) : Core :=
  { c with
    me := { c.me with jobs := c.me.jobs.map (fun j => match j.work with
      | .mma t vals checks _ p left => { j with work := .mma t vals checks [] p left }
      | _ => j) },
    ve := { c.ve with popped := none, chain := c.ve.chain.map (fun j => { j with hqIn := none, hqOut := none }) },
    se := { c.se with
      hqs := c.se.hqs.map (fun h => (h.1, { Hq.init with cfg := h.2.cfg })), remotes := [], waits := [],
      ctxs := c.se.ctxs.map (fun x => (x.1, { x.2 with acqHeld := [], popHeld := [] })) } }

/-- Reset the queues of a context (R215 step 3). DEDUCED, assumption 44. -/
def State.resetQueues (s : State) (n : Nat) : State :=
  let cs := s.ctxCores n
  let s := s.eachCore cs Core.dropHandles
  let s := { s with notices := s.notices.filter (fun m => !bitAt (s.ctx n).desc.sites.toNat m.site.toNat) }
  cs.foldl (fun s x => (List.range 32).foldl (fun s q => match (s.hq x.2.2 q).cfg with
    | some c => if c.remote then (match s.key c.rsite c.rcore with
        | some m => s.modSe m (fun e => { e with remotes := sset (fun _ => 0) e.remotes (remoteKey x.1 x.2.1 q) c.count })
        | none => s) else s
    | none => s) s) s

/-- Some wait of the context is stalled (R214). -/
def State.stalledWait (s : State) (n : Nat) : Bool := (s.ctxCores n).any (fun x => (s.core x.2.2).se.waits.any HqWait.stalled)

/-- Break a deadlock: the step is aborted by fault, started entries end with status 2, an Almanac entry names the
cycle, the queues are reset. -/
def State.deadlock (s : State) (n : Nat) (cyc : List (WNode × Nat × List WNode)) : State :=
  let s := s.almanac 0x03 .open_ (some (BitVec.ofNat 4 n)) 0 ((cyc.take 8).flatMap (fun e => leBytes 1 e.2.1 ++ leBytes 1 e.1.2 ++ leBytes 2 e.1.1))
  let s := if (s.srec n).open_ && (s.srec n).started then (s.modSrec n (fun r => { r with faulted := true })).earlyVote n else s
  let s := s.eachCore (s.ctxCores n) Core.stopStep
  let s := s.modCtx n (fun c => { c with entries := c.entries.map (fun e =>
    if e.kind == 2 && e.started && !e.finished then { e with finished := true, status := 2 } else e) })
  s.resetQueues n

/-- Read the wait registers of a context with a stalled wait (R215). DEDUCED, assumption 44. -/
def State.deadlockCheck (s : State) (n : Nat) (since : DWord) : State :=
  if !s.stalledWait n then s
  else
    let cyc := cycles (s.waitGraph n)
    if !cyc.isEmpty then s.deadlock n cyc
    else
      let fresh := (s.ctxCores n).any (fun x => (s.core x.2.2).se.waits.any (fun w =>
        w.stalled && decide (w.since.toNat + (s.core x.2.2).se.waitLimit.toNat ≥ since.toNat)))
      if fresh then s.almanac 0x02 .open_ (some (BitVec.ofNat 4 n)) 0 [13] else s

/-! ## Trellis binding (10 R304) -/

/-- Contexts with a Trellis record that are ready to start a step, in the order of the binding. -/
def State.bindOrder (s : State) : List Nat :=
  let turn := (List.range 16).map (fun i => (s.trellis.turn + 1 + i) % 16)
  (List.range 8).reverse.flatMap (fun p => turn.filter (fun n =>
    (s.ctx n).desc.prio == p && (s.ctx n).desc.trellisAddr != 0 && (s.nextEntry n 3).isSome))

/-- The bound context's steps have reached DONE or ABORTED, or there is none. DEDUCED, assumption 46. -/
def State.bindFree (s : State) : Bool :=
  s.trIdle && (match s.trellis.cfg with
    | some c => (s.ctx c.ctx.toNat).atEnd
    | none => true)

/-- TRELLIS_BINDING, at the next scheduling tick of the lead. A context whose record was refused does not hold up the
others (R303); equal contexts take turns by steps. DEDUCED, assumption 46. -/
def State.bindNext (s : State) : State :=
  match s.bindOrder.find? (fun n => !(s.ctx n).trRefused) with
  | none => s
  | some n => if !s.bindFree || s.bound n then s else (s.bind n).startWatch

/-! ## Scheduling tick (R396, R397, R403, R407) -/

/-- Release or hold notice to the lodestar, PLIC source 22 (R387, R408). -/
def State.holdNotice (s : State) (v : Bool) : State := (s.emit (.held s.fab.addr v)).plic 22

/-- Enter hold (R407 step 5, R408): every live context is held. DEDUCED, assumption 43. -/
def State.enterHold (s : State) : State :=
  let s := (List.range 16).foldl (fun s n => s.modCtx n (fun c =>
    { c with st := match c.st with
      | .free => .free
      | .stopped => .stopped
      | _ => .held })) s
  let s := s.modOrr (fun o => { o with hold := true, draining := false, stopping := false })
  ((s.raise .orr 6).holdNotice true).almDriver 4

/-- Nothing released is left to run or to report. -/
def State.drained (s : State) : Bool := (List.range 16).all (fun n => (s.ctx n).entries.isEmpty || (s.ctx n).st == .stopped)

/-- Every context is at a step boundary: nothing that was released still runs. -/
def State.noStepRuns (s : State) : Bool := (List.range 16).all (fun n => !(s.ctx n).busy || (s.ctx n).st == .stopped)

/-- The lead's part of a tick: driver heartbeat, an accepted epoch, binding, entry into hold. -/
def State.leadTick (s : State) : State :=
  let s := if s.orr.drvHb != s.orr.drvHbSeen then
      s.modOrr (fun o => { o with drvHbSeen := o.drvHb, drvHbTick := s.tick, hbChanged := true }) else s
  let s := s.takeSequencing.commitEpoch.installDue.bindNext
  if (s.orr.draining && s.drained) || (s.orr.stopping && s.noStepRuns) then s.enterHold else s

/-- Ticks between two scheduling ticks of a core (R397, 01 R35). -/
def schedPeriod : Nat := 1880

/-- The next scheduling tick of a core has come: the first after its start, then every 1,880 ticks (01 R35). -/
def State.tickDue (s : State) (oc : Nat) : Bool :=
  !(s.oc oc).ticked || decide (s.tick.toNat ≥ (s.oc oc).restarted.toNat + schedPeriod)

/-- SCHEDULING_TICK of an in-service orrery core: watchdog, rings and snapshots, deadlocks, scheduling of its contexts;
the lead also serves what belongs to the lead. -/
def State.schedTick (s : State) (oc : Nat) : State :=
  if (s.oc oc).role != 0 || !s.fwRuns || oc ≥ 20 || !s.tickDue oc then s
  else
    let last := (s.oc oc).restarted
    let s := s.setOc oc { s.oc oc with restarted := s.tick, ticked := true }
    let mine := (List.range 16).filter (fun n => (s.ctx n).st != .free && (s.ctx n).oc.toNat == oc)
    let s := if s.orr.draining || s.orr.stopping || s.orr.hold then s else mine.foldl (fun s n => s.pollCtx n) s
    let s := mine.foldl (fun s n => s.sramWritten (snapshotAt n) (snapshotAt (n + 1))) s
    let s := mine.foldl (fun s n => s.deadlockCheck n last) s
    let s := (s.schedOrder.filter (mine.contains ·)).foldl (fun s n => s.schedule n) s
    if s.orr.lead.toNat == oc then s.leadTick else s

def execSchedulingTick (oc : BitVec 5) (s : State) : Res := .next (s.schedTick oc.toNat)

/-! ## Watchdog and takeover (R398) -/

/-- The I/O die of an orrery core (R396: five to a die). -/
def ocDie (oc : Nat) : Nat := oc / 5

def State.ocCtxs (s : State) (oc : Nat) : List Nat := (List.range 16).filter (fun n => (s.ctx n).st != .free && (s.ctx n).oc.toNat == oc)

/-- The in-service core with the fewest contexts, the lowest-numbered on a tie, among some cores. -/
def State.lightest (s : State) (l : List Nat) : Option Nat :=
  l.foldl (fun (b : Option Nat) oc => match b with
    | none => some oc
    | some x => if (s.ocCtxs oc).length < (s.ocCtxs x).length then some oc else some x) none

def State.inService (s : State) : List Nat := (List.range 20).filter (fun oc => (s.oc oc).role == 0)

/-- The takeover core: a spare on the same die, else the lowest-numbered spare, else the in-service core with the
fewest contexts. A spare already chosen is no spare. -/
def State.takeoverFor (s : State) (oc : Nat) : Option Nat :=
  let chosen := (List.range 20).filterMap (fun c => (s.oc c).takeover.map BitVec.toNat)
  let spares := (List.range 20).filter (fun c => (s.oc c).role == 1 && !chosen.contains c)
  match spares.find? (fun c => ocDie c == ocDie oc) with
  | some c => some c
  | none => match spares.head? with
    | some c => some c
    | none => s.lightest s.inService

/-- A crashed core is held in reset and its takeover core is chosen (R398). -/
def State.ocCrash (s : State) (oc : Nat) : State :=
  let o := s.oc oc
  if o.role != 0 || oc ≥ 20 || !s.fwRuns then s
  else
    let s := s.setOc oc { o with role := 2, wdogCnt := if o.wdogCnt == 0xFFFF then o.wdogCnt else o.wdogCnt + 1 }
    let t := s.takeoverFor oc
    let s := s.setOc oc { s.oc oc with takeover := t.map (BitVec.ofNat 5) }
    (s.raise .orr 0).almOrr 1 oc

/-- WATCHDOG_EXPIRY: the core has not restarted its watchdog within the limit. -/
def State.wdogExpire (s : State) (oc : Nat) : State :=
  if decide (s.tick.toNat < (s.oc oc).restarted.toNat + s.orr.wdogLimit.toNat) then s else s.ocCrash oc

def execWatchdogExpiry (oc : BitVec 5) (s : State) : Res := .next (s.wdogExpire oc.toNat)

/-- TAKEOVER_COMPLETE of takeover core `oc`: it carries on every context of the crashed core from its snapshots, and
the lead's work when the lead crashed. -/
def State.takeover (s : State) (oc : Nat) : State :=
  match (List.range 20).find? (fun c => (s.oc c).takeover == some (BitVec.ofNat 5 oc)) with
  | none => s
  | some c =>
    let noSpare := (s.oc oc).role != 1
    let s := s.setOc c { s.oc c with takeover := none }
    let s := s.setOc oc { s.oc oc with role := 0, restarted := s.tick, ticked := false }
    let s := (s.ocCtxs c).foldl (fun s n => s.modCtx n (fun x => { x with oc := BitVec.ofNat 5 oc })) s
    let s := if s.orr.lead.toNat == c then (s.modOrr (fun o => { o with lead := BitVec.ofNat 5 oc })).almOrr 3 oc else s
    let s := if noSpare then s.raise .orr 2 else s
    (s.raise .orr 1).almOrr 2 oc

def execTakeoverComplete (oc : BitVec 5) (s : State) : Res := .next (s.takeover oc.toNat)

end Sys2Proof.Machine
end

