-- ==== Sys2Proof/Machine/Security.lean ====
section
/-! DEFINITION. The security block (14): requests, reports, sealed contexts, owner and peer policy, erasure. -/

namespace Sys2Proof.Machine

/-! ## Digests and measurements (R428) -/

/-- A byte list at a fixed length. -/
def padTo (n : Nat) (l : List Byte) : List Byte := (l ++ List.replicate n 0).take n

/-- Bytes [lo, lo + n) of a list. -/
def cut (l : List Byte) (lo n : Nat) : List Byte := padTo n (l.drop lo)

/-- SHAKE256 with a 64-byte output, the digest of the manual (R428, R434). DESIGN CHOICE, assumption 65. -/
def digest64 (bs : List Byte) : List Byte := shake256 bs 64
/-- DESIGN CHOICE, assumption 65. -/
def digest32 (bs : List Byte) : List Byte := shake256 bs 32

/-- M ← SHAKE256(M ‖ d). -/
def extend (m d : List Byte) : List Byte := digest64 (m ++ d)

def Sec.extendM (c : Sec) (i : Nat) (d : List Byte) : Sec :=
  { c with meas := (List.range 8).map (fun j =>
      let m := c.meas.getD j (List.replicate 64 0)
      if j == i then extend m d else m) }

/-- The active owner (R430). -/
def Sec.owner (c : Sec) : Option Owner := c.owners.getLast?

/-- Owner flags byte (R430). -/
def Owner.flags (o : Owner) : Byte := BitVec.ofNat 8 (bit o.cosign + 2 * bit o.peerReq)

/-- What M6 is extended with (R428): active owner digest, owner flags, peer policy digest, the three counters. -/
def Sec.m6 (c : Sec) : List Byte :=
  let o := (c.owner.map Owner.digest).getD (List.replicate 32 0)
  let f := (c.owner.map Owner.flags).getD 0
  let p := (c.policy.map PeerPol.digest).getD (List.replicate 64 0)
  o ++ [f] ++ p ++ leBytes 1 c.svnS1 ++ leBytes 1 c.svnLd ++ leBytes 1 c.svnOrr

def Sec.touchM6 (c : Sec) : Sec := c.extendM 6 c.m6

/-- Extend Cn (R429). -/
def State.extendC (s : State) (n : Nat) (d : List Byte) : State :=
  s.setSeal n { s.seal n with meas := extend (s.seal n).meas d }

/-! ## Identity (R424) -/

def Part.idKey (p : Part) : List Byte := Config.falconPublic p.idSeed
def Part.idDigest (p : Part) : List Byte := digest32 p.idKey

/-- SYS_PART_ID (00 R7). -/
def Part.id (p : Part) : DWord :=
  reg64 [(p.activeSites, 0), (4, 8), (p.grade.toNat, 12), (p.rev.toNat, 16), (7, 24)]

/-- The identity key that a two-certificate chain vouches for; none when the chain does not verify to the root key
(R424). -/
def chainKey (chain : List Byte) : Option (List Byte) :=
  let c0 := cut chain 0 3126
  let c1 := cut chain 3126 3126
  let ok (c : List Byte) (key : List Byte) : Bool :=
    cut c 1793 32 == digest32 key && Config.falconVerify key (digest64 (c.take 1847)) (cut c 1847 (min 1279 (bfld c 1845 2)))
  if ok c0 Config.rootKey && ok c1 (cut c0 0 1793) then some (cut c1 0 1793) else none

/-! ## Reports (R434) -/

/-- The 1024-byte body of a report of kind 0 module, 1 context, 2 link. DESIGN CHOICE, assumption 65. -/
def State.reportBody (s : State) (kind ctx : Nat) (nonce : List Byte) : List Byte :=
  let c := s.sec
  let o := c.owner
  let q := s.seal ctx
  let isCtx := kind == 1
  let flags := pack [(bit o.isSome, 0), (bit ((o.map Owner.cosign).getD false), 1), (bit (s.orr.fwState == 5), 2), (bit c.dbgUsed, 3),
    (bit (isCtx && q.state == 2), 4)]
  leBytes 4 0x54505241 ++ leBytes 2 1 ++ leBytes 1 kind ++ leBytes 1 flags ++ leBytes 8 s.tick.toNat ++ padTo 64 nonce
    ++ leBytes 4 s.part.id.toNat ++ leBytes 2 s.fab.addr.toNat ++ [0, 0] ++ padTo 32 s.part.idDigest
    ++ padTo 32 ((o.map Owner.digest).getD []) ++ leBytes 1 c.runS1 ++ leBytes 1 c.runLd
    ++ leBytes 1 ((s.orr.image.map Image.svn).getD 0) ++ List.replicate 5 0 ++ padTo 512 c.meas.flatten
    ++ padTo 64 ((s.orr.image.map Image.digest).getD []) ++ leBytes 1 (if isCtx then ctx else 0xFF)
    ++ leBytes 1 (if isCtx then q.state.toNat else 0) ++ List.replicate 6 0 ++ (if isCtx then padTo 64 q.meas else List.replicate 64 0)
    ++ (if isCtx && !q.ek.isEmpty then padTo 32 (digest32 q.ek) else List.replicate 32 0)
    ++ (if isCtx then padTo 32 q.modelId else List.replicate 32 0) ++ List.replicate 152 0

/-- Body and signature field. -/
def State.signReport (s : State) (body : List Byte) : List Byte :=
  let sig := Config.falconSign s.part.idSeed (digest64 body)
  body ++ leBytes 2 sig.length ++ padTo 2046 sig

/-- A report whose signature and identity digest agree with a key. -/
def reportSigned (r key : List Byte) : Bool :=
  bfld r 0 4 == 0x54505241 && bfld r 4 2 == 1 && cut r 88 32 == digest32 key
    && Config.falconVerify key (digest64 (r.take 1024)) (cut r 1026 (min 2046 (bfld r 1024 2)))

/-- Parts 2 and 3 of R431: owner digest, svn, image digest, dbg_used. -/
def Sec.policyOk (c : Sec) (r : List Byte) : Bool :=
  match c.owner, c.policy with
  | some o, some p =>
    cut r 120 32 == o.digest && decide (bfld r 154 1 ≥ p.minSvn) && (p.images.isEmpty || p.images.contains (cut r 672 64))
      && !(p.noDbg && bitAt (bfld r 7 1) 3)
  | some o, none => !o.peerReq
  | none, _ => true

/-- A peer report passes the policy of R356 (R431): chain and signature, owner, policy, nonce. -/
def Sec.peerOk (c : Sec) (chain : Bool) (key r nonce : List Byte) : Bool :=
  chain && reportSigned r key && c.policyOk r && cut r 16 64 == padTo 64 nonce

/-! ## Requests (R432, R433) -/

structure SecReq where
  code : Nat
  ctx : Nat
  seq : Nat
  a0 : Nat
  a1 : Nat
  a2 : Nat
  len : Nat
  reserved : Bool
deriving DecidableEq, Repr

/-- DESIGN CHOICE, assumption 65. -/
def readReq (b : List Byte) : SecReq :=
  { code := bfld b 0 1, ctx := bfld b 1 1, seq := bfld b 4 4, a0 := bfld b 8 8, a1 := bfld b 16 8, a2 := bfld b 24 8, len := bfld b 32 8,
    reserved := bfld b 2 2 != 0 || bfld b 40 24 != 0 }

def State.chan (s : State) (c1 : Bool) : SecChan := if c1 then s.sec.ch1 else s.sec.ch0
def State.setChan (s : State) (c1 : Bool) (v : SecChan) : State :=
  s.modSec (fun c => if c1 then { c with ch1 := v } else { c with ch0 := v })

/-- Codes a channel serves (R433). DESIGN CHOICE, assumption 65. -/
def chanServes (c1 : Bool) (code : Nat) : Bool :=
  if c1 then [0x01, 0x10, 0x11, 0x12].contains code else decide (1 ≤ code ∧ code ≤ 9)

/-- A request ends with a result. -/
def State.secDone (s : State) (c1 : Bool) (result seq : Nat) : State :=
  s.setChan c1 { s.chan c1 with busy := false, result := BitVec.ofNat 3 result, seq := BitVec.ofNat 32 seq }

/-- An area in GDDR7. -/
def inGddr (a n : Nat) : Bool := decide (a + n ≤ gddrBytes)

/-- Bytes the security block reads; the firmware region is closed to it (13 R392). -/
def State.secRead (s : State) (a n : Nat) : List Byte := s.readRun .security a n

/-- The block has read a run: what it met is recorded (12 R377, 13 R392). -/
def State.secSeen (s : State) (a n : Nat) : State := s.seenRun .security none a n

/-- go (R432): the record is taken; a busy channel ignores the write; a code the channel does not serve ends at once
with result 1. -/
def State.secGo (s : State) (c1 : Bool) : State :=
  if (s.chan c1).busy then s.raiseSec 1 0 0
  else
    let a := (s.chan c1).addr.toNat
    let b := s.secRead a 64
    let q := readReq b
    let s := s.secSeen a 64
    if chanServes c1 q.code && inGddr a 64 then s.setChan c1 { s.chan c1 with busy := true, record := b } else s.secDone c1 1 q.seq

/-- It is the other channel's turn: both have a request, and this one was served last (R432). -/
def Sec.otherTurn (c : Sec) (c1 : Bool) : Bool := (if c1 then c.ch0 else c.ch1).busy && c.last == some c1

/-- Serve the request of a channel if it is of this code and the channel's turn: a malformed one changes nothing. -/
def State.secServe (s : State) (c1 : Bool) (code : Nat) (f : SecReq → State → State × Nat) : State :=
  let c := s.chan c1
  let q := readReq c.record
  if !c.busy || q.code != code || s.sec.otherTurn c1 then s
  else
    let s := s.modSec (fun c => { c with last := some c1 })
    if q.reserved then s.secDone c1 1 q.seq
    else
      let r := f q s
      r.1.secDone c1 r.2 q.seq

/-- A signature check failed: sig_fail, result 2. -/
def State.sigFail (s : State) : State × Nat := (s.raiseSec 2 0 0, 2)

/-! ### REPORT -/

def State.secReport (q : SecReq) (s : State) : State × Nat :=
  if !inGddr q.a0 64 || !inGddr q.a1 8192 || (q.ctx != 0xFF && decide (q.ctx ≥ 16)) then (s, 1)
  else if q.ctx != 0xFF && (s.ctx q.ctx).st == .free then (s, 3)
  else
    let kind := if q.ctx == 0xFF then 0 else 1
    let body := s.reportBody kind q.ctx (s.secRead q.a0 64)
    let s := s.secSeen q.a0 64
    let r := s.signReport body
    let r := if kind == 1 && (s.seal q.ctx).state == 1 then padTo 4096 r ++ padTo 1568 (s.seal q.ctx).ek else r
    let s := if kind == 1 then s.setSeal q.ctx { s.seal q.ctx with report := digest64 body } else s
    (s.writeNow .security none q.a1 r, 0)

def execReport (chan : Bool) (s : State) : Res := .next (s.secServe chan 0x01 State.secReport)

/-! ### SEAL_CFG (R436) -/

/-- The ranges of a seal record: 16-byte items, base and size in 4 KiB units; their number is in the request's len. DESIGN CHOICE, assumption 65. -/
def sealRanges (b : List Byte) (k : Nat) : List (Nat × Nat) :=
  (List.range k).map (fun i => (4096 * bfld b (16 * i) 8, 4096 * bfld b (16 * i + 8) 8))

/-- Rings and records that a context descriptor names. -/
def CtxDesc.named (d : CtxDesc) : List (Nat × Nat) :=
  [(d.subAddr, 128 + 64 * d.subN), (d.cplAddr, 128 + 32 * d.cplN), (d.policyAddr, 128)]
    ++ (if d.trellisAddr == 0 then [] else [(d.trellisAddr, 64)])

/-- Free MC_XTS_REGION entries. -/
def State.freeRegions (s : State) : List Nat := (List.range 64).filter (fun i => (sget (fun _ => none) s.gddr.regions i).isNone)

/-- A range of a seal record is refused. DESIGN CHOICE, assumption 65. -/
def State.rangeBad (s : State) (n : Nat) (r : Nat × Nat) : Bool :=
  r.2 == 0 || !areaOk r.1 r.2 || overlap r.1 r.2 (s.flash.hostBase) (s.flash.hostGib * 2 ^ 30)
    || (List.range 16).any (fun m => m != n && (s.seal m).ranges.any (fun q => overlap r.1 r.2 q.1 q.2))
    || (s.ctx n).desc.named.any (fun q => overlap r.1 r.2 q.1 q.2)
    || s.gddr.stash.any (fun x => x.2.en && overlap r.1 r.2 (x.2.base.toNat * mib) (x.2.sizeMib.toNat * mib)
        && !decide (r.1 ≤ x.2.base.toNat * mib ∧ (x.2.base.toNat + x.2.sizeMib.toNat) * mib ≤ r.1 + r.2))

/-- Draw a key into a slot (R377). DESIGN CHOICE, assumption 13. -/
def State.drawKey (s : State) (slot : Nat) : State :=
  let g := s.sec.keyGen + 1
  let s := s.modSec (fun c => { c with keyGen := g })
  { s with gddr := { s.gddr with slots := sset (fun _ => 0) s.gddr.slots slot g } }

/-- Write one region register pair (R377). -/
def State.setRegion (s : State) (i : Nat) (g : XtsRegion) : State :=
  { s with gddr := { s.gddr with regions := sset (fun _ => none) s.gddr.regions i (some g) } }

/-- Acceptance of a seal record. -/
def State.sealAccept (s : State) (n : Nat) (b : List Byte) (rs : List (Nat × Nat)) : State :=
  let s := s.drawKey (n + 1)
  let s := (s.freeRegions.zip rs).foldl (fun s x =>
    s.setRegion x.1 { base := x.2.1, limit := x.2.1 + x.2.2 - 4096, slot := BitVec.ofNat 5 (n + 1) }) s
  let (f, s) := s.fresh 1
  let kp := Config.kemKeygen f
  let s := s.extendC n (digest64 b)
  s.setSeal n { s.seal n with state := 1, ranges := rs, ek := kp.1, dk := kp.2, ck := none, modelId := [], report := [] }

def State.sealCfg (q : SecReq) (s : State) : State × Nat :=
  if decide (q.ctx ≥ 16) || q.len % 16 != 0 || decide (q.len < 16) || decide (q.len > 128) || !inGddr q.a0 q.len then (s, 1)
  else
    let b := s.secRead q.a0 q.len
    let s := s.secSeen q.a0 q.len
    let rs := sealRanges b (q.len / 16)
    if (s.ctx q.ctx).st == .free || !(s.ctx q.ctx).desc.sealedCtx || (s.seal q.ctx).state != 0 then (s, 3)
    else if rs.any (s.rangeBad q.ctx) || !disjoint rs || decide (s.freeRegions.length < rs.length) then (s, 3)
    else (s.sealAccept q.ctx b rs, 0)

/-- SEAL_CFG; its key draws wait while the entropy source is out (R443 entropy_fail). -/
def execSealCfg (chan : Bool) (s : State) : Res :=
  .next (if s.sec.entropyBad then s else s.secServe chan 0x02 State.sealCfg)

/-! ### KEY_DELIVER (R437) -/

def State.keyDeliver (q : SecReq) (s : State) : State × Nat :=
  if decide (q.ctx ≥ 16) || !inGddr q.a0 1648 then (s, 1)
  else
    let x := s.seal q.ctx
    if x.state != 1 || x.dk.isEmpty then (s, 3)
    else
      let b := s.secRead q.a0 1648
      let s := s.secSeen q.a0 1648
      let ss := Config.kemDecaps x.dk (cut b 0 1568)
      let kek := digest32 (ss ++ x.report)
      let mid := cut b 1616 32
      match gcmOpen kek (List.replicate 12 0) mid (cut b 1568 32) (cut b 1600 16) with
      | some ck => (s.setSeal q.ctx { x with state := 2, ck := some ck, modelId := mid, dk := [] }, 0)
      | none => ((s.setSeal q.ctx { x with dk := [], ek := [] }).raiseSec 3 0 0, 4)

def execKeyDeliver (chan : Bool) (s : State) : Res := .next (s.secServe chan 0x03 State.keyDeliver)

/-! ### IMPORT and EXPORT (R439, R440) -/

/-- The area lies wholly in one sealed range of the context or in one bed of it. -/
def State.inClosure (s : State) (n a len : Nat) (windows : Bool) : Bool :=
  (s.seal n).ranges.any (fun r => decide (r.1 ≤ a ∧ a + len ≤ r.1 + r.2)) ||
    (match place a with
     | .bed l o => bitAt (s.ctx n).desc.sites.toNat l && decide (o + len ≤ parityBase)
     | .core l _ o => windows && bitAt (s.ctx n).desc.sites.toNat l && decide (o + len ≤ 2 ^ 23)
     | _ => false)

def chunkBytes : Nat := 65536

/-- Nonce of a chunk. -/
def chunkNonce (mid : List Byte) (i : Nat) : List Byte := mid.take 4 ++ leBytes 8 i

/-- Import chunks i, i + 1, … of `left` bytes. The Boolean tells that a tag failed. -/
def State.importChunks (s : State) (n a0 a1 : Nat) (ck mid aad : List Byte) : Nat → Nat → Nat → State × Bool
  | 0, _, _ => (s, false)
  | f + 1, i, left =>
    let k := min left chunkBytes
    let src := a0 + 4096 + 65552 * i
    let dst := a1 + chunkBytes * i
    let opened := gcmOpen ck (chunkNonce mid i) aad (s.secRead src k) (s.secRead (src + k) 16)
    let s := s.secSeen src (k + 16)
    match opened with
    | some pt => State.importChunks (s.writeNow .fabric (some n) dst (padTo k pt)) n a0 a1 ck mid aad f (i + 1) (left - k)
    | none =>
      let s := s.writeNow .fabric (some n) dst (List.replicate k 0)
      (s.modSec (fun c => { c with importPos := BitVec.ofNat 40 i }), true)

def chunkCount (len : Nat) : Nat := (len + chunkBytes - 1) / chunkBytes
/-- Bytes of a blob of `len` plaintext bytes. -/
def blobBytes (len : Nat) : Nat := 4096 + len + 16 * chunkCount len

def State.secImport (q : SecReq) (s : State) : State × Nat :=
  if decide (q.ctx ≥ 16) || q.len == 0 || !inGddr q.a0 (blobBytes q.len) then (s, 1)
  else
    let x := s.seal q.ctx
    match x.ck with
    | none => (s, 3)
    | some ck =>
      let h := s.secRead q.a0 4096
      let s := s.secSeen q.a0 4096
      if x.state != 2 || !s.inClosure q.ctx q.a1 q.len false then (s, 3)
      else if bfld h 0 4 != 0x42534C42 || bfld h 4 8 != q.len || cut h 12 32 != x.modelId || (h.drop 44).any (· != 0) then (s, 1)
      else
        let r := s.importChunks q.ctx q.a0 q.a1 ck x.modelId (h.take 44) (chunkCount q.len) 0 q.len
        if r.2 then (r.1.raiseSec 3 0 0, 4) else (r.1, 0)

def execImportBlob (chan : Bool) (s : State) : Res := .next (s.secServe chan 0x04 State.secImport)

/-- The encapsulation key of a recipient record: byte 0 the kind, then for an owner the key and its signature, for a
peer its context report and chain. DESIGN CHOICE, assumption 65. -/
def State.recipient (s : State) (b : List Byte) : Option (List Byte) :=
  if bfld b 0 1 == 0 then
    (match s.sec.owner with
     | some o =>
       let ek := cut b 64 1568
       if Config.falconVerify o.key (digest64 ek) (cut b 1634 (min 2046 (bfld b 1632 2))) then some ek else none
     | none => none)
  else
    let r := cut b 64 5664
    match chainKey (cut b 5728 6252) with
    | some key =>
      let ek := cut r 4096 1568
      if s.sec.peerOk true key r s.sec.nonce && bfld r 6 1 == 1 && bfld r 737 1 == 1 && cut r 808 32 == digest32 ek then some ek else none
    | none => none

/-- Export chunks i, i + 1, … of `left` bytes. -/
def State.exportChunks (s : State) (n a0 a1 : Nat) (key mid aad : List Byte) : Nat → Nat → Nat → State
  | 0, _, _ => s
  | f + 1, i, left =>
    let k := min left chunkBytes
    let pt := (List.range k).flatMap (fun j => (s.readAs .fabric (some n) (a0 + chunkBytes * i + j) 1).bytes)
    let e := gcmSeal key (chunkNonce mid i) aad pt
    let s := s.seenRun .fabric (some n) (a0 + chunkBytes * i) k
    let s := s.writeNow .security none (a1 + 4096 + 65552 * i) (padTo k e.1 ++ padTo 16 e.2)
    s.exportChunks n a0 a1 key mid aad f (i + 1) (left - k)

def State.secExport (q : SecReq) (s : State) : State × Nat :=
  if decide (q.ctx ≥ 16) || q.len == 0 || !inGddr q.a1 (blobBytes q.len) || !inGddr q.a2 11980 || bfld (s.secRead q.a2 1) 0 1 > 1 then (s, 1)
  else
    let x := s.seal q.ctx
    let to_ := s.recipient (s.secRead q.a2 11980)
    let s := s.secSeen q.a2 11980
    if x.state != 2 || !s.inClosure q.ctx q.a0 q.len true then (s, 3)
    else match to_ with
      | none => s.sigFail
      | some ek =>
        let (f, s) := s.fresh 1
        let kc := Config.kemEncaps ek f
        let key := digest32 (kc.1 ++ x.modelId)
        let h := leBytes 4 0x42534C42 ++ leBytes 8 q.len ++ padTo 32 x.modelId ++ padTo 1568 kc.2
        let s := s.writeNow .security none q.a1 (padTo 4096 h)
        (s.exportChunks q.ctx q.a0 q.a1 key x.modelId (h.take 44) (chunkCount q.len) 0 q.len, 0)

/-- EXPORT; its encapsulation waits while the entropy source is out. -/
def execExportBlob (chan : Bool) (s : State) : Res :=
  .next (if s.sec.entropyBad then s else s.secServe chan 0x05 State.secExport)

/-! ### OWNER_SET, PEER_POLICY, EXTEND, SVN_COMMIT (R427, R428, R430, R431) -/

/-- OWNER_SET record: key [1792:0], flags [1793], signature length [1795:1794], signature. -/
def State.ownerSet (q : SecReq) (s : State) : State × Nat :=
  if !inGddr q.a0 3842 then (s, 1)
  else
    let b := s.secRead q.a0 3842
    let s := s.secSeen q.a0 3842
    let fl := bfld b 1793 1
    if fl ≥ 4 then (s, 1)
    else if s.sec.owners.length ≥ 4 then (s.raiseSec 7 0 0, 5)
    else
      let ok := match s.sec.owner with
        | some o => Config.falconVerify o.key (digest64 (b.take 1794)) (cut b 1796 (min 2046 (bfld b 1794 2)))
        | none => true
      if !ok then s.sigFail
      else
        let o : Owner := { key := b.take 1793, digest := digest32 (b.take 1793), cosign := bitAt fl 0, peerReq := bitAt fl 1 }
        (s.modSec (fun c => ({ c with owners := c.owners ++ [o] } : Sec).touchM6), 0)

def execOwnerSet (chan : Bool) (s : State) : Res := .next (s.secServe chan 0x06 State.ownerSet)

/-- PEER_POLICY record: minimum svn [0], number of images [1], dbg flag [2], [3] 0, eight 64-byte digests, signature. -/
def State.peerPolicy (q : SecReq) (s : State) : State × Nat :=
  if !inGddr q.a0 2564 then (s, 1)
  else
    let b := s.secRead q.a0 2564
    let s := s.secSeen q.a0 2564
    let k := bfld b 1 1
    if decide (k > 8) || decide (bfld b 2 1 > 1) || bfld b 3 1 != 0 then (s, 1)
    else match s.sec.owner with
      | none => (s, 3)
      | some o =>
        if !Config.falconVerify o.key (digest64 (b.take 516)) (cut b 518 (min 2046 (bfld b 516 2))) then s.sigFail
        else
          let p : PeerPol := { minSvn := bfld b 0 1, images := (List.range k).map (fun i => cut b (4 + 64 * i) 64), noDbg := bitAt (bfld b 2 1) 0,
                               digest := digest64 (b.take 516) }
          (s.modSec (fun c => ({ c with policy := some p } : Sec).touchM6), 0)

def execPeerPolicy (chan : Bool) (s : State) : Res := .next (s.secServe chan 0x07 State.peerPolicy)

def State.extendReq (q : SecReq) (s : State) : State × Nat :=
  if !inGddr q.a0 64 then (s, 1) else ((s.secSeen q.a0 64).modSec (fun c => c.extendM 7 (s.secRead q.a0 64)), 0)

/-- EXTEND: M7 with 64 bytes that the host supplies. -/
def execExtendM7 (chan : Bool) (s : State) : Res := .next (s.secServe chan 0x08 State.extendReq)

/-- A counter never moves backward (R427); an advance extends M6. -/
def State.svnCommit (q : SecReq) (s : State) : State × Nat :=
  if q.ctx == 1 then
    (if s.sec.runS1 ≤ s.sec.svnS1 then (s, 0) else (s.modSec (fun c => ({ c with svnS1 := c.runS1 } : Sec).touchM6), 0))
  else if q.ctx == 2 then
    (if s.sec.runLd ≤ s.sec.svnLd then (s, 0) else (s.modSec (fun c => ({ c with svnLd := c.runLd } : Sec).touchM6), 0))
  else (s, 1)

def execSvnCommit (chan : Bool) (s : State) : Res := .next (s.secServe chan 0x09 State.svnCommit)

/-! ### LINK_ATTEST, CODE_MEASURE, ERASE (R356, R429, R441) -/

/-- LINK_ATTEST: the peer's report and chain at a0 are checked, the module's link report for the peer's nonce at a2 is
written at a1. -/
def State.linkAttest (q : SecReq) (s : State) : State × Nat :=
  if !inGddr q.a0 9324 || !inGddr q.a1 8192 || !inGddr q.a2 64 then (s, 1)
  else
    let b := s.secRead q.a0 9324
    let s := (s.secSeen q.a0 9324).secSeen q.a2 64
    let s := s.writeNow .security none q.a1 (s.signReport (s.reportBody 2 0 (s.secRead q.a2 64)))
    match chainKey (cut b 3072 6252) with
    | none => s.sigFail
    | some key =>
      if !reportSigned (b.take 3072) key then s.sigFail
      else if s.sec.peerOk true key (b.take 3072) s.sec.nonce then (s, 0) else (s, 4)

def execLinkAttest (chan : Bool) (s : State) : Res := .next (s.secServe chan 0x10 State.linkAttest)

def State.codeMeasure (q : SecReq) (s : State) : State × Nat :=
  if decide (q.ctx ≥ 16) || !inGddr q.a0 q.len then (s, 1) else ((s.secSeen q.a0 q.len).extendC q.ctx (digest64 (s.secRead q.a0 q.len)), 0)

def execCodeMeasure (chan : Bool) (s : State) : Res := .next (s.secServe chan 0x11 State.codeMeasure)

/-- Zeros in the beds of logical sites; parity over them is computed again. DEDUCED, assumption 66. -/
def State.zeroBeds (s : State) (ls : List Nat) : State :=
  let s := ls.foldl (fun s l => match s.physOf l with
    | some p => s.modSite p (fun t => { t with
        bed := (t.bed.clear 0 bedSize), bedPoison := [], writes := [], deltas := [] })
    | none => s) s
  if s.sb.en && s.sb.state != 1 then s.parityAll else s

/-- Zeros in the memories of a core. -/
def Core.zeroMems (c : Core) : Core :=
  { c with
    sp := Mem.zero, spPoison := [],
    me := { c.me with tiles := [], accPoison := [] },
    cc := { c.cc with imemA := Mem.zero, imemB := Mem.zero, imemBusy := [], dmem := Mem.zero, dmemPoison := [] },
    ve := { c.ve with tables := [] } }

/-- Clear the key slot, the content key and every region of a context, and zero its beds and core memories. DEDUCED, assumption 66. -/
def State.eraseCtx (s : State) (n : Nat) : State :=
  let s := { s with gddr := { s.gddr with
    slots := sset (fun _ => 0) s.gddr.slots (n + 1) 0,
    regions := s.gddr.regions.filter (fun r => match r.2 with
      | some g => g.slot.toNat != n + 1
      | none => true) } }
  let s := s.eachCore (s.ctxCores n) Core.zeroMems
  let s := s.zeroBeds (s.ctxSites n)
  s.setSeal n { SealSt.init with meas := (s.seal n).meas }

def State.eraseReq (q : SecReq) (s : State) : State × Nat :=
  if q.ctx ≥ 16 then (s, 1) else if !(s.ctx q.ctx).desc.sealedCtx then (s, 3) else (s.eraseCtx q.ctx, 0)

def execErase (chan : Bool) (s : State) : Res := .next (s.secServe chan 0x12 State.eraseReq)

/-! ### Faults of the block (R423, R443) -/

/-- ENTROPY_FAIL: the health test failed; key draws wait. DEDUCED, assumption 66. -/
def execEntropyFail (s : State) : Res := .next ((s.modSec (fun c => { c with entropyBad := true })).raiseSec 6 0 0)

/-- KEY_UE: the slot is cleared. DEDUCED, assumption 66. -/
def execKeyUe (slot : BitVec 5) (s : State) : Res :=
  .next (if slot.toNat > 16 then s
    else ({ s with gddr := { s.gddr with slots := sset (fun _ => 0) s.gddr.slots slot.toNat 0 } } : State).raiseSec 5 0 0)

end Sys2Proof.Machine
end

