-- ==== Sys2Proof/Machine/Fabric.lean ====
section
/-! DEFINITION. The Bluern fabric (11): ports, flits, resend, lanes, routing, sends, receive windows, registers. -/

namespace Sys2Proof.Machine

/-! ## CRC (R330, 13 R394) -/

/-- One byte of a bit-reflected 32-bit CRC. -/
def crcByte (poly crc : Word) (b : Byte) : Word :=
  (List.range 8).foldl (fun c _ => if c.getLsbD 0 then (c >>> 1) ^^^ poly else c >>> 1) (crc ^^^ b.setWidth 32)

def crcRun (poly : Word) (bs : List Byte) : Word := ~~~(bs.foldl (crcByte poly) 0xFFFFFFFF)

/-- The CRC-32 of IEEE 802.3 (R330). PRESUMED, assumption 11. -/
def crc32 (bs : List Byte) : Word := crcRun 0xEDB88320 bs

/-- CRC-32C (13 R394). PRESUMED, assumption 11. -/
def crc32c (bs : List Byte) : Word := crcRun 0x82F63B78 bs

/-! ## Ports -/

/-- The die of a port (R358). -/
def portDie (p : Nat) : Nat := p / 4

/-- A direction runs on four lanes (R332, R333). -/
def Port.slow (p : Port) : Bool := p.tx.four || p.rx.four || p.pruned

/-- Both ends switch lanes at the flit that a control flit named (R332). -/
def Lanes.reach (l : Lanes) (seq : Half) : Lanes :=
  match l.switch with
  | some (q, f) => if q == seq then { l with four := f, switch := none } else l
  | none => l

/-- A port goes down until a cold reset (R333): port_down. -/
def State.portDown (s : State) (p : Nat) : State :=
  let a := (s.port p).peer.toNat
  (s.modPort p (fun q => { q with state := 5, rxFrame := [], rxPacket := [], txQueue := [], replay := [] })).raiseFab (portDie p) 4 p a 0

/-- Class and virtual channel as a key. -/
def cvKey (cls : BitVec 2) (vc : Bool) : Nat := 2 * cls.toNat + bit vc

def Port.credit (p : Port) (cls : BitVec 2) (vc : Bool) : Nat := sget (fun _ => 0) p.credits (cvKey cls vc)

/-! ## Flits out (R330, R335, R357) -/

/-- Header bytes [11:0] of a flit. -/
def flitHead (type : Nat) (cls : BitVec 2) (vc frameEnd phase : Bool) (fill : Nat) (seq ack : Half) (credit : Nat) (cnt : Nat) : List Byte :=
  leBytes 1 (pack [(type, 0), (cls.toNat, 2), (bit vc, 4), (bit frameEnd, 5), (bit phase, 6)]) ++ leBytes 1 fill ++ leBytes 2 seq.toNat
    ++ leBytes 2 ack.toNat ++ leBytes 1 credit ++ leBytes 1 cnt ++ List.replicate 4 0

/-- A flit with its CRC. -/
def flitOf (head payload : List Byte) : List Byte :=
  let pl := padTo 496 payload
  head ++ leBytes 4 (crc32 (head ++ pl)).toNat ++ pl

/-- Key and salt of a direction (R356): `up` from the higher-addressed module to the lower. DEDUCED, assumption 53. -/
def linkKey (keys : List Byte) (fromHigh : Bool) : List Byte × List Byte :=
  if fromHigh then (cut keys 0 32, cut keys 32 4) else (cut keys 36 32, cut keys 68 4)

/-- Payload bytes that a flit of the port carries: an encrypted frame of one flit keeps 16 for its tag. -/
def Port.room (p : Port) : Nat := if p.enc then 480 else 496

/-- Build and send one data or control flit: it waits in the replay buffer until it is acknowledged (R331). A data flit
takes a credit. DEDUCED, assumption 53. -/
def State.sendFlit (s : State) (p : Nat) (t : TxFlit) : State :=
  let q := s.port p
  let head := flitHead (bit t.ctl) t.cls t.vc q.enc q.keyPhase ((t.data.length + 15) / 16) q.txSeq (q.rxSeq - 1) 0 0
  let pl :=
    if q.enc then
      let k := linkKey q.keys (decide (s.fab.addr.toNat > q.peer.toNat))
      let e := gcmSeal k.1 (k.2 ++ leBytes 8 q.txFrames.toNat) head (padTo 480 t.data)
      padTo 480 e.1 ++ padTo 16 e.2
    else padTo 496 t.data
  let f := flitOf head pl
  let c := q.credit t.cls t.vc - 1
  let s := s.modPort p (fun q => { q with
    tx := q.tx.reach (q.txSeq + 1), txSeq := q.txSeq + 1, txFrames := if q.enc then q.txFrames + 1 else q.txFrames,
    lastAck := if q.replay.isEmpty then s.tick else q.lastAck, replay := q.replay ++ [(q.txSeq, f)],
    credits := if t.ctl then q.credits else sset (fun _ => 0) q.credits (cvKey t.cls t.vc) c,
    zeroSince := if c == 0 && !t.ctl then sset (fun _ => 0) q.zeroSince (cvKey t.cls t.vc) s.tick else q.zeroSince })
  let s := if q.enc && (q.txFrames + 1).toNat % 2 ^ 32 == 0 then s.emit (.rekey (BitVec.ofNat 4 p)) else s
  s.emit (.flit (BitVec.ofNat 4 p) f)

/-- The first waiting piece of a class that has a credit, with its position. -/
def Port.readyOf (p : Port) (cls : Nat) : Option TxFlit :=
  p.txQueue.find? (fun t => !t.ctl && t.cls.toNat == cls && decide (p.credit t.cls t.vc > 0)
    && (p.txQueue.find? (fun u => !u.ctl && u.cls == t.cls && u.vc == t.vc) == some t))

/-- What the next flit carries (R335): link control, which needs no credit, then urgent, then Trellis and bulk 3 : 1. DEDUCED, assumption 51. -/
def Port.nextTx (p : Port) : Option TxFlit :=
  match p.txQueue.find? TxFlit.ctl with
  | some t => some t
  | none =>
    match p.readyOf 0 with
    | some t => some t
    | none =>
      let a := if p.wrr % 4 < 3 then 1 else 2
      match p.readyOf a with
      | some t => some t
      | none => p.readyOf (3 - a)

def dropTx (t : TxFlit) : List TxFlit → List TxFlit
  | [] => []
  | u :: r => if u == t then r else u :: dropTx t r

/-- Send what credit and the 512 flits of the replay buffer allow. -/
def State.pump : Nat → Nat → State → State
  | 0, _, s => s
  | f + 1, p, s =>
    let q := s.port p
    if !q.up || decide (q.replay.length ≥ 512) then s
    else match q.nextTx with
      | none => s
      | some t =>
        let s := s.modPort p (fun q => { q with txQueue := dropTx t q.txQueue, wrr := if t.ctl || t.cls == 0 then q.wrr else q.wrr + 1 })
        State.pump f p (s.sendFlit p t)

/-- Cut a packet into pieces of at most n bytes. -/
def pieces (n : Nat) : Nat → List Byte → List (List Byte)
  | 0, _ => []
  | f + 1, l => if l.isEmpty then [] else l.take n :: pieces n f (l.drop n)

/-- Put a packet on a port. -/
def State.putPacket (s : State) (p : Nat) (cls : BitVec 2) (vc : Bool) (bs : List Byte) : State :=
  let ts := (pieces (s.port p).room bs.length bs).map (fun d => ({ ctl := false, cls := cls, vc := vc, data := d } : TxFlit))
  let s := s.modPort p (fun q => { q with txQueue := q.txQueue ++ ts })
  State.pump (s.port p).txQueue.length p s

/-- Send a control flit that says `o` (R331, R332); the spec gives its payload no layout: free bytes. DESIGN CHOICE, assumption 3. -/
def State.sendControl (s : State) (p : Nat) (o : Out) : State :=
  let (f, s) := (s.emit o).fresh 16
  let t : TxFlit := { ctl := true, cls := 0, vc := false, data := (List.range 16).map (fun i => Config.freeWord 8 (f + i)) }
  let s := s.modPort p (fun q => { q with txQueue := q.txQueue ++ [t] })
  State.pump (s.port p).txQueue.length p s

/-! ## Routing (R336–R338) -/

/-- Group and remaining route of the next hop; none when no segment has hops left. -/
def routeNext (route : Nat) : Option (Nat × Nat) :=
  match (List.range 6).find? (fun i => fld route (10 * i + 4) 6 != 0) with
  | some i => some (fld route (10 * i) 4, route - 2 ^ (10 * i + 4))
  | none => none

/-- A route up to the first segment of no hops, which ends it (R337). -/
def routeCut (route : Nat) : Nat :=
  match (List.range 6).find? (fun i => fld route (10 * i + 4) 6 == 0) with
  | some i => route % 2 ^ (10 * i)
  | none => route % 2 ^ 60

/-- The port of a flow in a group of a die: (source + destination) mod u among its up ports. -/
def State.groupPort (s : State) (x g src dst : Nat) : Option Nat :=
  let m := sget (fun _ => (0 : Half)) (s.xd x).fab.groups g
  let ups := (onesOf 16 m.toNat).filter (fun p => (s.port p).up)
  if ups.isEmpty then none else ups[(src + dst) % ups.length]?

/-- The bytes of a packet with another route. -/
def setRoute (bs : List Byte) (route : Nat) : List Byte := bs.take 4 ++ leBytes 8 route ++ bs.drop 12

/-- The virtual channel of the next link: 1 across a dateline, 0 again at the start of a segment. A packet in its first
segment begins none; in a later one the header does not tell the first hop from the next: a free value of the packet
decides. DESIGN CHOICE, assumption 52. -/
def nextVc (bs : List Byte) (vc dateline : Bool) : Bool :=
  dateline || (vc && (fld (bfld bs 4 8) 4 6 != 0 || !Config.newSegment (leNat (bs.take 32))))

/-- Whether the flow's old port still has flits to be acknowledged. -/
def State.flowBusy (s : State) (flow p : Nat) : Bool :=
  let old := sget (fun _ => 16) s.fab.flows flow
  old != 16 && old != p && (s.port old).up && !((s.port old).replay.isEmpty && (s.port old).txQueue.isEmpty)

/-- A packet whose body is as long as its kind and subkind require (R342). -/
def packetOk (bs : List Byte) : Bool :=
  let len := 16 * (bfld bs 14 1 + 1)
  let sub := bfld bs 32 1
  let items := bfld bs 76 2 + bfld bs 78 2 + bfld bs 80 2
  match bfld bs 12 1 with
  | 0 => true
  | 1 => true
  | 2 => sub ≤ 3 && decide (len ≥ if sub == 1 then 64 else if sub == 2 then 64 + 4 * items else 34)
  | 3 => sub ≤ 5 && decide (len ≥ if sub == 0 then 32 else if sub == 5 then 24 else if sub == 4 then 12 else 14)
  | 4 => sub ≤ 2 && decide (len ≥ if sub == 0 then 36 else if sub == 1 then 24 else 40)
  | 5 => sub ≤ 5 && decide (len ≥ if sub == 1 then 64 else if sub == 2 then 10 else if sub == 4 then 5 else if sub == 5 then 11 else 12)
  | 6 => sub == 0 && decide (len ≥ 24)
  | _ => false

/-- A packet with no hops left, which came in on a port (16: from this module): delivered here, or discarded with
route_fault (R336, R342). -/
def State.deliver (s : State) (x p : Nat) (cls : BitVec 2) (bs : List Byte) : State :=
  if bfld bs 0 2 == s.fab.addr.toNat && packetOk bs then
    ({ s with fab := { s.fab with inbox := s.fab.inbox ++ [(p, cls, bs)] } } : State).emit (.delivered bs)
  else s.raiseFab x 11 0 (bfld bs 0 2) 0

/-- A packet of the same class, source and destination waits on the die: what comes after it waits too (R338). -/
def State.flowWaits (s : State) (x : Nat) (cls : BitVec 2) (bs : List Byte) : Bool :=
  s.fab.waiting.any (fun w => w.xd == x && w.cls == cls && w.bytes.take 4 == bs.take 4)

/-- Forward a packet or deliver it; one that finds no up port, or whose flow moves or waits, waits (R338), since `since`. -/
def State.routeFrom (s : State) (x p : Nat) (since : DWord) (cls : BitVec 2) (vc : Bool) (bs : List Byte) : State :=
  match routeNext (bfld bs 4 8 % 2 ^ 60) with
  | none => s.deliver x p cls bs
  | some (g, r) =>
    let src := bfld bs 2 2
    let dst := bfld bs 0 2
    let flow := 8192 * src + dst
    let wait := { s with fab := { s.fab with waiting := s.fab.waiting ++ [{ xd := x, cls := cls, vc := vc, bytes := bs, since := since }] } }
    match s.groupPort x g src dst with
    | none => wait
    | some q =>
      if s.flowBusy flow q || s.flowWaits x cls bs then wait
      else
        let s := { s with fab := { s.fab with flows := sset (fun _ => 16) s.fab.flows flow q } }
        s.putPacket q cls (nextVc bs vc (bitAt (s.xd (portDie q)).fab.dateline.toNat (q % 4))) (setRoute bs r)

def State.route (s : State) (x p : Nat) (cls : BitVec 2) (vc : Bool) (bs : List Byte) : State := s.routeFrom x p s.tick cls vc bs

/-- Try again the packets that wait. -/
def State.retryPackets (s : State) : State :=
  let ws := s.fab.waiting
  let s := { s with fab := { s.fab with waiting := [] } }
  ws.foldl (fun s w => s.routeFrom w.xd 16 w.since w.cls w.vc w.bytes) s

/-! ## Flits in (R330, R331, R357) -/

def flitCrcOk (f : List Byte) : Bool := bfld f 12 4 == (crc32 (f.take 12 ++ f.drop 16)).toNat

/-- The peer has received every flit up to `ack`. -/
def State.ackUpTo (s : State) (p : Nat) (ack : Half) : State :=
  let keep := (s.port p).replay.filter (fun r => decide ((r.1 - ack - 1).toNat < 2 ^ 15))
  if keep.length == (s.port p).replay.length then s
  else s.modPort p (fun q => { q with replay := keep, resent := 0, lastAck := s.tick })

/-- Credits returned in a header, at most 64 in all. DEDUCED, assumption 51. -/
def State.takeCredit (s : State) (p : Nat) (f : List Byte) : State :=
  let c := bfld f 6 1
  if !bitAt c 3 then s
  else
    let k := cvKey (BitVec.ofNat 2 (c % 4)) (bitAt c 2)
    s.modPort p (fun q => { q with credits := sset (fun _ => 0) q.credits k (min 64 (sget (fun _ => 0) q.credits k + bfld f 7 1)) })

/-- The receiver discards what follows and asks for the expected flit, once. -/
def State.askResend (s : State) (p : Nat) : State :=
  let q := s.port p
  let s := s.raiseFab (portDie p) 0 p q.peer.toNat 0
  if q.discarding then s else (s.modPort p (fun q => { q with discarding := true })).sendControl p (.resendReq (BitVec.ofNat 4 p) q.rxSeq)

/-- Take whole packets off the front of what a channel has received. -/
def State.takePackets : Nat → Nat → BitVec 2 → Bool → State → State
  | 0, _, _, _, s => s
  | f + 1, p, cls, vc, s =>
    let buf := sget (fun _ => []) (s.port p).rxPacket (cvKey cls vc)
    let n := 32 + 16 * (bfld buf 14 1 + 1)
    if buf.length < 32 || buf.length < n then s
    else
      let s := s.modPort p (fun q => { q with rxPacket := sset (fun _ => []) q.rxPacket (cvKey cls vc) (buf.drop n) })
      State.takePackets f p cls vc (s.route (portDie p) p cls vc (buf.take n))

/-- Payload of a data flit: the channel's packet grows, a credit goes back in an idle flit. -/
def State.payload (s : State) (p : Nat) (f data : List Byte) : State :=
  let b0 := bfld f 0 1
  if b0 % 4 != 0 then s
  else
    let cls := BitVec.ofNat 2 (fld b0 2 2)
    let vc := bitAt b0 4
    let k := cvKey cls vc
    let s := s.modPort p (fun q => { q with rxPacket := sset (fun _ => []) q.rxPacket k (sget (fun _ => []) q.rxPacket k ++ data.take (16 * fld (bfld f 1 1) 0 5)) })
    let q := s.port p
    let idle := flitOf (flitHead 2 0 false false q.keyPhase 0 0 (q.rxSeq - 1) (cls.toNat + 4 * bit vc + 8) 1) []
    State.takePackets 16 p cls vc (s.emit (.flit (BitVec.ofNat 4 p) idle))

/-- An encrypted frame is whole: released when its tag verifies, else the port goes down with link_auth (R357). DEDUCED, assumption 53. -/
def State.frame (s : State) (p : Nat) : State :=
  let q := s.port p
  let fs := q.rxFrame
  let pls := fs.map (fun f => f.drop 16)
  let all := pls.flatten
  let k := linkKey q.rxKeys (decide (q.peer.toNat > s.fab.addr.toNat))
  let nonce := k.2 ++ leBytes 8 q.rxFrames.toNat
  match gcmOpen k.1 nonce ((fs.map (fun f => f.take 12)).flatten) (all.take (all.length - 16)) (all.drop (all.length - 16)) with
  | some pt =>
    let s := s.modPort p (fun q => { q with rxFrame := [], rxFrames := q.rxFrames + 1 })
    (fs.zip (List.range fs.length)).foldl (fun s x => s.payload p x.1 (cut pt (496 * x.2) 496)) s
  | none => (s.portDown p).raiseFab (portDie p) 5 p q.peer.toNat 0

/-- The peer's new keys begin at the flit where its key_phase toggles, the counter at 0 (R357). -/
def Port.rephase (q : Port) (phase : Bool) : Port :=
  match q.rxNext with
  | some k => if phase != q.rxPhase then { q with rxKeys := k, rxPhase := phase, rxNext := none, rxFrames := 0 } else q
  | none => q

/-- A data or control flit in order. A frame has at most 8 flits (R357). DEDUCED, assumption 53. -/
def State.accept (s : State) (p : Nat) (f : List Byte) : State :=
  let s := s.modPort p (fun q => { q with rx := q.rx.reach (q.rxSeq + 1), rxSeq := q.rxSeq + 1, discarding := false })
  if (s.port p).enc then
    let s := s.modPort p (fun q =>
      let q := q.rephase (bitAt (bfld f 0 1) 6)
      { q with rxFrame := q.rxFrame ++ [f] })
    if bitAt (bfld f 0 1) 5 then s.frame p
    else if (s.port p).rxFrame.length ≥ 8 then (s.portDown p).raiseFab (portDie p) 5 p (s.port p).peer.toNat 0
    else s
  else s.payload p f (f.drop 16)

/-- FLIT_RECEIVE. Nothing of a flit that is discarded is used (R331). DEDUCED, assumption 51. -/
def State.flitIn (s : State) (p : Nat) (f : List Byte) : State :=
  let type := bfld f 0 1 % 4
  if !(s.port p).up || f.length != 512 || type == 3 then s
  else if !flitCrcOk f then (if type == 2 then s else s.askResend p)
  else if type != 2 && bfld f 2 2 != (s.port p).rxSeq.toNat then s.askResend p
  else
    let s := (s.ackUpTo p (BitVec.ofNat 16 (bfld f 4 2))).takeCredit p f
    let s := if type == 2 then s else s.accept p f
    (State.pump (s.port p).txQueue.length p s).retryPackets

def execFlitReceive (port : BitVec 4) (flit : List Byte) (s : State) : Res := .next (s.flitIn port.toNat flit)

/-! ## Resend (R331) -/

/-- Send again the flits from a position of the replay buffer on. A flit already resent eight times without an
acknowledgement takes the port down (R331, R333). DEDUCED, assumption 51. -/
def State.resendFrom (s : State) (p i : Nat) : State :=
  let q := s.port p
  let fs := q.replay.drop i
  if fs.isEmpty then s
  else if q.resent ≥ 8 then s.portDown p
  else
    let s := s.modPort p (fun q => { q with resent := q.resent + 1, lastAck := s.tick })
    let s := s.modFab (portDie p) (fun d => { d with resendCnt := d.resendCnt + BitVec.ofNat 64 fs.length })
    fs.foldl (fun s r => s.emit (.flit (BitVec.ofNat 4 p) r.2)) s

/-- RESEND_REQUEST: replay from the named seq. -/
def execResendRequest (port : BitVec 4) (seq : Half) (s : State) : Res :=
  let q := s.port port.toNat
  .next (if q.up && q.replay.any (fun r => r.1 == seq) then s.resendFrom port.toNat (q.replay.findIdx (fun r => r.1 == seq)) else s)

/-- ACK_TIMEOUT: no acknowledgement within FAB_ACK_TIMEOUT. -/
def execAckTimeout (port : BitVec 4) (s : State) : Res :=
  let q := s.port port.toNat
  .next (if q.up && !q.replay.isEmpty && decide (s.tick.toNat ≥ q.lastAck.toNat + (s.xd (portDie port.toNat)).fab.ackTimeout.toNat) then
    s.resendFrom port.toNat 0 else s)

/-- FAB_STALL (R335, R338): a class without credit, or packets with no up port, past the limit. -/
def execFabStall (port : BitVec 4) (cls : BitVec 2) (vc : Bool) (s : State) : Res :=
  let p := port.toNat
  let q := s.port p
  let lim := (s.xd (portDie p)).fab.stallLimit.toNat
  let dry := q.up && q.credit cls vc == 0 && decide (s.tick.toNat ≥ (sget (fun _ => 0) q.zeroSince (cvKey cls vc)).toNat + lim)
  let held := s.fab.waiting.any (fun w => decide (s.tick.toNat ≥ w.since.toNat + lim))
  .next (if dry || held then s.raiseFab (portDie p) 10 p q.peer.toNat 0 else s)

/-! ## Lanes (R332, R333) -/

def Lanes.healthy (l : Lanes) : Nat := 9 - (onesOf 9 l.failed.toNat).length

def Port.lanes (p : Port) (tx : Bool) : Lanes := if tx then p.tx else p.rx
def Port.setLanes (p : Port) (tx : Bool) (l : Lanes) : Port := if tx then { p with tx := l } else { p with rx := l }

/-- The flit number that a direction has come to. -/
def Port.seqOf (p : Port) (tx : Bool) : Half := if tx then p.txSeq else p.rxSeq

/-- Both ends are to switch a direction at a flit, to four lanes or back; at once when it has come to that flit. -/
def Lanes.plan (l : Lanes) (seq now : Half) (four : Bool) : Lanes := ({ l with switch := some (seq, four) } : Lanes).reach now

/-- A direction narrows for good, or is down with fewer than four healthy lanes. -/
def State.narrow (s : State) (p : Nat) (tx : Bool) (seq : Half) : State :=
  let q := s.port p
  let l := q.lanes tx
  if l.healthy < 4 then (s.modPort p (fun q => q.setLanes tx { l with down := true, grafting := false })).portDown p
  else if l.narrow then s
  else
    let l := if l.four then { l with switch := none } else l.plan seq (q.seqOf tx) true
    (s.modPort p (fun q => (q.setLanes tx { l with narrow := true, grafting := false }).settle)).raiseFab (portDie p) 3 p q.peer.toNat 0

/-- A lane of an up port fails: the receiver reports it and names the flit where both ends switch to four lanes; the spare
is grafted in, or the direction narrows. DEDUCED, assumption 51. -/
def State.laneFail (s : State) (p : Nat) (tx : Bool) (lane : Nat) (seq : Half) : State :=
  let q := s.port p
  let l := q.lanes tx
  if !q.up || decide (lane > 8) || bitAt l.failed.toNat lane then s
  else
    let l := { l with failed := setBit l.failed lane true }
    let s := s.modPort p (fun q => q.setLanes tx l)
    let s := if tx then s else
      (s.raiseFab (portDie p) 1 p q.peer.toNat 0).sendControl p (.laneReport (BitVec.ofNat 4 p) (BitVec.ofNat 4 lane) seq)
    if l.narrow || l.spareUsed || l.spareBad || l.grafting then s.narrow p tx seq
    else if lane == 8 then s.modPort p (fun q => q.setLanes tx { l with spareBad := true })
    else s.modPort p (fun q => q.setLanes tx { l.plan seq (q.seqOf tx) true with grafting := true })

/-- LANE_FAIL of the receiving side, or as the peer reports it for the sending side. -/
def execLaneFail (port : BitVec 4) (tx : Bool) (lane : LaneAt) (s : State) : Res :=
  .next (s.laneFail port.toNat tx lane.lane.toNat lane.seq)

/-- SPARE_LANE_CHECK_DONE: the spare takes the place of the failed lane from a named flit on, or is marked failed. -/
def execSpareLaneCheckDone (port : BitVec 4) (tx : Bool) (good : LaneVerdict) (s : State) : Res :=
  let p := port.toNat
  let q := s.port p
  let l := q.lanes tx
  .next (if !q.up || !l.grafting then s
    else if good.good then
      let s := if tx then s else s.sendControl p (.laneSwitch port good.seq)
      (s.modPort p (fun q => (q.setLanes tx { (q.lanes tx).plan good.seq (q.seqOf tx) false with grafting := false, spareUsed := true }).settle)).raiseFab
        (portDie p) 2 p q.peer.toNat 0
    else (s.modPort p (fun q => q.setLanes tx { l with grafting := false, spareBad := true, failed := setBit l.failed 8 true })).narrow p tx good.seq)

/-! ## Link-up (R329, R356) -/

/-- The first half of the exchange of R356: this module's link report for the peer's nonce goes out, and from the
higher-addressed module a fresh encapsulation key. DEDUCED, assumption 53. -/
def State.attestBegin (s : State) (p : Nat) (i : LinkUpInfo) : State :=
  let body := s.reportBody 2 0 i.nonce
  let s := (s.modSec (fun c => { c with nonce := i.sent })).emit (.linkReport (BitVec.ofNat 4 p) (s.signReport body))
  let s := s.modPort p (fun q => { q with own := digest64 body, peer := i.peer })
  if s.fab.addr.toNat > i.peer.toNat then
    let (f, s) := s.fresh 1
    let k := Config.kemKeygen f
    (s.modPort p (fun q => { q with dk := k.2 })).emit (.kem (BitVec.ofNat 4 p) k.1)
  else s

/-- The 72 key bytes (R356): the shared secret, by decapsulation at the higher-addressed module and by encapsulation at
the lower, and the digests of both report bodies, the higher-addressed module's first. -/
def State.agreeKeys (s : State) (p : Nat) (i : LinkUpInfo) : List Byte × State :=
  let q := s.port p
  let theirs := digest64 (i.report.take 1024)
  if s.fab.addr.toNat > i.peer.toNat then (shake256 (Config.kemDecaps q.dk i.kem ++ q.own ++ theirs) 72, s)
  else
    let (f, s) := s.fresh 1
    let k := Config.kemEncaps i.kem f
    (shake256 (k.1 ++ theirs ++ q.own) 72, s.emit (.kem (BitVec.ofNat 4 p) k.2))

/-- The peer's report passes, or attest_fail is set (R356, R431). -/
def State.attestFail (s : State) (p : Nat) (i : LinkUpInfo) : State :=
  let s := if i.chainOk && reportSigned i.report i.peerKey then s else s.raiseSec 2 0 0
  s.raiseFab (portDie p) 6 p i.peer.toNat 0

/-- A port enters state up with 64 credits for each class and virtual channel (R329, R335). -/
def State.portUp (s : State) (p : Nat) (i : LinkUpInfo) (enc : Bool) (keys : List Byte) : State :=
  let full := (List.range 6).foldl (fun m k => sset (fun _ => (0 : Nat)) m k 64) []
  (s.modPort p (fun q => ({ q with
    state := 3, peer := i.peer, cascade := i.cascade, enc := enc, keys := keys, rxKeys := keys, rxPhase := q.keyPhase, rxNext := none,
    txFrames := 0, rxFrames := 0, credits := full, lastAck := s.tick, delayAsked := false } : Port).settle)).retryPackets

/-- LINK_UP (R329, R356): training (state 1), with encryption the exchange of reports and keys (state 2), then up. -/
def State.linkUp (s : State) (p : Nat) (i : LinkUpInfo) : State :=
  let x := portDie p
  let d := (s.xd x).fab
  let enc := d.encReq || i.peerEncReq
  let st := (s.port p).state
  if decide (st.toNat > 2) || !d.en || !bitAt d.portEn.toNat (p % 4) || !s.fab.valid || (i.trained && enc && s.sec.entropyBad) then s
  else if !i.trained then s.modPort p (fun q => { q with state := 1 })
  else if !enc then s.portUp p i false []
  else if st != 2 || !i.attested then (s.modPort p (fun q => { q with state := 2 })).attestBegin p i
  else if !s.sec.peerOk i.chainOk i.peerKey i.report i.sent then (s.modPort p (fun q => { q with state := 0 })).attestFail p i
  else
    let (keys, s) := s.agreeKeys p i
    s.portUp p i true keys

def execLinkUp (port : BitVec 4) (info : LinkUpInfo) (s : State) : Res := .next (s.linkUp port.toNat info)

/-- KEY_REPLACEMENT (R356, R357): a fresh exchange on an up port; once it is over the key_phase of what is sent toggles
with the new keys, and what is received takes them where the peer's phase toggles. DEDUCED, assumption 53. -/
def execKeyReplacement (port : BitVec 4) (info : LinkUpInfo) (s : State) : Res :=
  let p := port.toNat
  .next (if !(s.port p).up || !(s.port p).enc || s.sec.entropyBad then s
    else if !info.attested then s.attestBegin p { info with peer := (s.port p).peer }
    else if !s.sec.peerOk info.chainOk info.peerKey info.report info.sent then s.attestFail p { info with peer := (s.port p).peer }
    else
      let (keys, s) := s.agreeKeys p { info with peer := (s.port p).peer }
      s.modPort p (fun q => { q with keys := keys, txFrames := 0, keyPhase := !q.keyPhase, rxNext := some keys }))

/-! ## Sends (R340, R341) -/

/-- DEDUCED, assumption 18. -/
def isOrrery : Requester → Bool
  | .orrery _ => true
  | _ => false

/-- Send request fields. -/
structure SendReq where
  dst : Nat
  win : Nat
  cls : Nat
  src : Nat
  len : Nat
  off : Nat
  inline : Bool
  notify : Bool
deriving DecidableEq, Repr

/-- A well-formed request of this requester; none makes bad_send. -/
def State.sendReq (s : State) (req : Requester) (b : List Byte) : Option SendReq :=
  let fl := bfld b 20 1
  let r : SendReq := { dst := bfld b 0 2, win := bfld b 2 1, cls := bfld b 3 1, src := bfld b 4 6, len := bfld b 10 4, off := bfld b 14 6,
                       inline := bitAt fl 0, notify := bitAt fl 1 }
  let bad := [b.length != (if r.inline then 128 else 64), decide (r.dst ≥ 8192), decide (r.win > 15), decide (r.cls > 2), decide (fl ≥ 4),
    (b.drop 21).take 43 != List.replicate 43 0, r.len % 64 != 0, decide (r.len < 64), decide (r.len > 16 * mib), r.off % 64 != 0,
    r.inline && r.len != 64, r.cls == 0 && !r.inline, r.win == 15 && !isOrrery req,
    !r.inline && (r.src % 64 != 0 || (s.regionOf r.src r.len).isNone)].any id
  if bad then none else some r

/-- The packets of a request: headers of R341, at most 4 KiB of data each; the last of a notifying request is of kind 1. DEDUCED, assumption 54. -/
def packets (own : Nat) (r : SendReq) (route : Nat) : Nat → Nat → List Byte → List (List Byte)
  | 0, _, _ => []
  | f + 1, off, data =>
    let d := data.take 4096
    let rest := data.drop 4096
    let head := leBytes 2 r.dst ++ leBytes 2 own ++ leBytes 8 route ++ leBytes 1 (bit (r.notify && rest.isEmpty)) ++ leBytes 1 r.win
      ++ leBytes 1 (d.length / 16 - 1) ++ [0] ++ leBytes 6 off ++ List.replicate 10 0
    if data.isEmpty then [] else (head ++ d) :: packets own r route f (off + 4096) rest

/-- FAB_SEND: a request written to the window of die `x`. DEDUCED, assumption 54. -/
def State.fabSend (s : State) (req : Requester) (x : Nat) (b : List Byte) : State :=
  match s.sendReq req b with
  | none => s.raiseFab x 9 0 (bfld b 0 2) (bfld b 2 1)
  | some r =>
    let e := sget (fun _ => (0 : DWord)) (s.xd x).fab.routes r.dst
    if !bitAt e.toNat 63 then s.raiseFab x 11 0 r.dst r.win
    else
      let rd := if r.inline then ({ bytes := cut b 64 64, poison := false, ev := [] } : Rd)
        else { bytes := (List.range r.len).flatMap (fun i => (s.readAs req (s.ctxOf req) (r.src + i) 1).bytes), poison := false,
               ev := s.spanEv req (s.ctxOf req) r.src r.len }
      let s := s.met r.src rd.ev
      let ps := packets s.fab.addr.toNat r (routeCut e.toNat) (r.len / 4096 + 1) r.off rd.bytes
      let s := s.modFab x (fun d => { d with sends := d.sends ++ [{ dst := BitVec.ofNat 13 r.dst, win := BitVec.ofNat 4 r.win, bytes := r.len }] })
      ps.foldl (fun s p => s.route x 16 (BitVec.ofNat 2 r.cls) false p) s

/-- DEDUCED, assumption 48. -/
def execFabSend (req : Requester) (xd : BitVec 2) (request : List Byte) (s : State) : Res := .next (s.fabSend req xd.toNat request)

/-- SEND_COMPLETE: the destination has acknowledged every byte of the oldest send as landed. -/
def execSendComplete (xd : BitVec 2) (s : State) : Res :=
  .next (match (s.xd xd.toNat).fab.sends with
    | [] => s
    | _ :: r => s.modFab xd.toNat (fun d => { d with sends := r, sentCnt := d.sentCnt + 1 }))

/-! ## Receive windows (R343) -/

/-- Why a write packet is refused: 1 window disabled, 2 class, 3 encryption, 4 bytes outside. DEDUCED, assumption 54. -/
def RxWin.refuses (w : RxWin) (p : WritePacket) (encrypted : Bool) : Option Nat :=
  if !w.en then some 1
  else if (p.cls == 1 && !w.trellis) || (p.cls == 2 && !w.bulk) || p.cls == 3 then some 2
  else if w.encReq && !encrypted then some 3
  else if p.off.toNat + p.data.length > 4096 * w.size.toNat then some 4
  else none

/-- A write packet of window `p.win` arrives on a port; `notify` for kind 1. DEDUCED, assumption 54. -/
def State.rxWrite (s : State) (port : Nat) (p : WritePacket) (notify : Bool) : State :=
  let w := s.rxwin p.win.toNat
  let x := portDie port
  match w.refuses p (s.port port).enc with
  | some reason => (s.raiseFab x 7 port p.src.toNat p.win.toNat).emit (.refuse p.src p.win (BitVec.ofNat 8 reason) p.off.toNat s.tick)
  | none =>
    let req := if p.win == 15 then s.orrReq else .fabric
    let s := s.writeNow req (some w.ctx.toNat) (w.base.toNat + p.off.toNat) p.data
    if !notify || !p.last || !w.notifyEn then s
    else
      let n := w.notices + 1
      let s := s.setRxwin p.win.toNat { s.rxwin p.win.toNat with notices := n }
      let bs := leBytes 4 n.toNat ++ leBytes 2 p.src.toNat ++ [0, 0] ++ leBytes 8 s.tick.toNat
      s.writeNow .fabric (some w.ctx.toNat) (coreBase + w.nsite.toNat * 2 ^ 28 + w.ncore.toNat * 2 ^ 23 + 0x640000 + w.ndmem.toNat) bs

def execWritePacket (port : BitVec 4) (p : WritePacket) (s : State) : Res := .next (s.rxWrite port.toNat p false)
def execWriteWithNotice (port : BitVec 4) (p : WritePacket) (s : State) : Res := .next (s.rxWrite port.toNat p true)

/-- DEDUCED, assumption 54. -/
def dropSend (dst : BitVec 13) (win : Nat) : List Send → List Send
  | [] => []
  | a :: r => if a.dst == dst && a.win.toNat == win then r else a :: dropSend dst win r

/-- REFUSAL: send_refused, and the refused send never completes. -/
def State.refusalAt (s : State) (port : BitVec 4) (src : BitVec 13) (win : Byte) (_reason : Byte) (_off _tick : DWord) : State :=
  let x := portDie port.toNat
  (s.raiseFab x 8 port.toNat src.toNat win.toNat).modFab x (fun d => { d with sends := dropSend src win.toNat d.sends })

/-- The command of the row: the message arrives (`State.refusalAt`). -/
def execRefusal (port : BitVec 4) (src : BitVec 13) (win : Byte) (reason : Byte) (off tick : DWord) (s : State) : Res := .next (s.refusalAt port src win reason off tick)

/-! ## Register writes (R358–R361) -/

def sealedAny_ (s : State) : Bool := (List.range 16).any (fun n => (s.ctx n).st != .free && (s.ctx n).desc.sealedCtx)

/-- Write a fabric register of one die; the Boolean tells that the driver configures it. None for a read-only or absent
register. -/
def fabReg (s : State) (off : Nat) (v : DWord) (d : FabDie) : Option FabDie :=
  let n := v.toNat
  if off == 0x000 then some { d with en := bitAt n 0, encReq := bitAt n 1 || sealedAny_ s, portEn := BitVec.ofNat 4 (fld n 4 4) }
  else if off == 0x018 then some { d with causeMask := BitVec.ofNat 14 n }
  else if off == 0x028 then some { d with ackTimeout := BitVec.ofNat 32 (max 470 (n % 2 ^ 32)) }
  else if off == 0x030 then some { d with stallLimit := BitVec.ofNat 40 n }
  else if 0x120 ≤ off ∧ off < 0x140 ∧ off % 8 = 0 then some { d with dateline := setBit d.dateline ((off - 0x120) / 8) (bitAt n 0) }
  else if 0x200 ≤ off ∧ off < 0x280 ∧ off % 8 = 0 then some { d with groups := sset (fun _ => 0) d.groups ((off - 0x200) / 8) (BitVec.ofNat 16 n) }
  else if 0x20000 ≤ off ∧ off < 0x30000 ∧ off % 8 = 0 then
    some { d with routes := sset (fun _ => 0) d.routes ((off - 0x20000) / 8) (BitVec.ofNat 64 (n % 2 ^ 60 + bit (bitAt n 63) * 2 ^ 63)) }
  else none

/-- Set the address (R336, R361): ignored while any port is up. A module that gets an address knows no lower one yet. -/
def State.setAddr (s : State) (n : Nat) : State :=
  if s.anyUp then s
  else
    let a := BitVec.ofNat 13 n
    let v := bitAt n 32
    { s with fab := { s.fab with
        addr := a, cascade := BitVec.ofNat 16 (fld n 16 16), valid := v, lodestar := if v then a else s.fab.lodestar } }

/-- A window's CFG word. -/
def RxWin.setCfg (w : RxWin) (n : Nat) : RxWin :=
  { w with
    en := bitAt n 0, encReq := bitAt n 1, trellis := bitAt n 2, bulk := bitAt n 3, ctx := BitVec.ofNat 4 (fld n 4 4),
    size := BitVec.ofNat 24 (fld n 8 24), nsite := BitVec.ofNat 6 (fld n 32 6), ncore := BitVec.ofNat 5 (fld n 38 5),
    ndmem := BitVec.ofNat 16 (fld n 43 16 / 16 * 16), notifyEn := bitAt n 59 }

/-- Write a module-wide fabric register; none for a read-only or absent one. -/
def fabSysReg (s : State) (off : Nat) (v : DWord) : Option State :=
  let n := v.toNat
  if off == 0x000 then some (s.setAddr n)
  else if off == 0x010 then some { s with fab := { s.fab with src := bitAt n 0, syncOutEn := bitAt n 1, ptpEn := bitAt n 2 } }
  else if off == 0x020 then some { s with fab := { s.fab with syncDly := BitVec.ofNat 16 n } }
  else if 0x100 ≤ off ∧ off < 0x200 ∧ off % 16 = 0 then
    let w := (off - 0x100) / 16
    some (s.setRxwin w { s.rxwin w with base := BitVec.ofNat 48 (n / 4096 * 4096) })
  else if 0x100 ≤ off ∧ off < 0x200 ∧ off % 16 = 8 then
    let w := (off - 0x100) / 16
    some (s.setRxwin w ((s.rxwin w).setCfg n))
  else none

/-- A window's configuration the orrery accepts (R343, 14 R435). DEDUCED, assumption 19. -/
def State.winOk (s : State) (i : Nat) : Bool :=
  let w := s.rxwin i
  let c := s.ctx w.ctx.toNat
  !w.en || ((s.regionOf w.base.toNat (4096 * w.size.toNat)).isSome && !(c.st != .free && c.desc.sealedCtx && !w.encReq))

/-- Window 15 belongs to the orrery (R343): it opens it over its own working memory when its firmware starts. DESIGN CHOICE, assumption 31. -/
def listBase : Nat := 0x2FFF200000
/-- DESIGN CHOICE, assumption 31. -/
def State.openWin15 (s : State) : State :=
  s.setRxwin 15 { s.rxwin 15 with base := BitVec.ofNat 48 listBase, en := true, trellis := true, bulk := true, size := 40 }

end Sys2Proof.Machine
end

