-- ==== Sys2Proof/Machine/Time.lean ====
section
/-! DEFINITION. Cascades and sidereal time (11 R347–R353): election, time messages, SYNC, PTP, epoch control. -/

namespace Sys2Proof.Machine

def State.modFabSys (s : State) (f : Fab → Fab) : State := { s with fab := f s.fab }

/-! ## Election (R348, R349) -/

/-- ELECTION_SEND, every 9,400 ticks on each up port. -/
def execElectionSend (s : State) : Res :=
  .next (if !s.fab.valid || decide (s.tick.toNat < s.fab.lastElect.toNat + 9400) then s
    else
      let ups := (List.range 16).filter (fun p => (s.port p).up)
      ups.foldl (fun s p => s.emit (.election (BitVec.ofNat 4 p) s.fab.lodestar s.fab.generation))
        (s.modFabSys (fun f => { f with lastElect := s.tick })))

/-- The neighbour at a port is of another cascade (R347): its time and election packets are discarded. -/
def State.foreign (s : State) (port : BitVec 4) : Bool := (s.port port.toNat).up && (s.port port.toNat).cascade != s.fab.cascade

/-- ELECTION: a later generation begins anew, and the lowest healthy address heard is adopted. -/
def State.elect (s : State) (port : BitVec 4) (lowest : BitVec 13) (generation : Word) : State :=
  let f := s.fab
  if !f.valid || s.foreign port || decide (generation.toNat < f.generation.toNat) || f.failedPeers.contains lowest then s
  else
    let later := decide (generation.toNat > f.generation.toNat)
    let known := if later then f.addr else f.lodestar
    let low := if decide (lowest.toNat < known.toNat) then lowest else known
    s.modFabSys (fun f => { f with
      generation := generation, lodestar := low, provisional := f.provisional || (later && f.locked),
      electTick := if later then s.tick else f.electTick })

def execElection (port : BitVec 4) (lowest : BitVec 13) (generation : Word) (s : State) : Res := .next (s.elect port lowest generation)

/-! ## Time messages (R351) -/

/-- TIME_MESSAGE_SEND: the lodestar, every 4,700 ticks. -/
def execTimeMessageSend (s : State) : Res :=
  .next (if !s.isLodestar || decide (s.tick.toNat < s.fab.lastSend.toNat + 4700) then s
    else (s.modFabSys (fun f => { f with lastSend := s.tick })).emit (.time
      { lodestar := s.fab.addr, hops := 0, generation := s.fab.generation, count := s.tick, ptpOffset := s.fab.ptpOffset, ptpRate := s.fab.ptpRate }))

/-- Hold the counter for one tick or advance it by two, at most once per 1,024 ticks. -/
def State.steer (s : State) (target : Int) : State :=
  let diff := target - (s.tick.toNat : Int)
  if diff == 0 || decide (s.tick.toNat < s.fab.lastAdjust.toNat + 1024) then s
  else
    let a : Int := if diff < 0 then -1 else 1
    s.modFabSys (fun f => { f with adjust := a, lastAdjust := s.tick, lastCorr := BitVec.ofInt 8 a })

/-- SYNC_IN gives the alignment (R352). DEDUCED, assumption 55. -/
def Fab.bySync (f : Fab) : Bool := f.src && f.syncMissed < 2

/-- The message comes over the branch of the time tree: fewer hops first, then the lower-numbered port. -/
def Fab.onBranch (f : Fab) (port : BitVec 4) (m : TimeMsg) : Bool :=
  !f.locked || f.holdover || port == f.timePort || decide (m.hops.toNat < f.timeHops.toNat)
    || (m.hops == f.timeHops && decide (port.toNat < f.timePort.toNat))

/-- TIME_MESSAGE: the first one sets the count and locks; later ones steer it. -/
def State.timeMessage (s : State) (port : BitVec 4) (m : TimeMsg) : State :=
  let f := s.fab
  if !f.valid || s.isLodestar || s.foreign port || decide (m.generation.toNat < f.generation.toNat) || !f.onBranch port m then s
  else
    let target := m.count + (s.port port.toNat).delay
    let s := if f.locked then (if f.bySync then s else s.steer target.toNat)
      else ({ s with tick := target } : State).modFabSys (fun f => { f with locked := true })
    let s := s.modFabSys (fun f => { f with
      lastTime := s.tick, holdover := false, timePort := port, timeHops := m.hops, ptpOffset := m.ptpOffset, ptpRate := m.ptpRate })
    s.emit (.time { m with hops := m.hops + 1, count := s.tick })

def execTimeMessage (port : BitVec 4) (m : TimeMsg) (s : State) : Res := .next (s.timeMessage port m)

/-- Each link measures its delay continuously (R351): an up port with no request out sends one. -/
def State.askDelays (s : State) : State :=
  ((List.range 16).filter (fun p => (s.port p).up && !(s.port p).delayAsked)).foldl (fun s p =>
    (s.modPort p (fun q => { q with delayAsked := true })).emit (.delayReq (BitVec.ofNat 4 p) s.tick)) s

/-- DELAY_REQUEST: answered with the stamps of its receipt and of the answer. -/
def State.delayAsked (s : State) (port : BitVec 4) (t1 : DWord) : State :=
  if (s.port port.toNat).up then s.emit (.delayResp port t1 s.tick s.tick) else s

/-- The command of the row: the message arrives (`State.delayAsked`). -/
def execDelayRequest (port : BitVec 4) (t1 : DWord) (s : State) : Res := .next (s.delayAsked port t1)

/-- DELAY_RESPONSE: ((t4 − t1) − (t3 − t2)) / 2. -/
def State.delayAnswered (s : State) (port : BitVec 4) (t1 t2 t3 : DWord) : State :=
  if (s.port port.toNat).up then
  s.modPort port.toNat (fun p => { p with delayAsked := false, delay := BitVec.ofNat 64 (((s.tick - t1) - (t3 - t2)).toNat / 2) }) else s

/-- The command of the row: the message arrives (`State.delayAnswered`). -/
def execDelayResponse (port : BitVec 4) (t1 t2 t3 : DWord) (s : State) : Res := .next (s.delayAnswered port t1 t2 t3)

/-- TIME_LOST: no time message for 47,000 ticks (R360); the lodestar counts as lost (R349). DEDUCED, assumption 55. -/
def execTimeLost (s : State) : Res :=
  .next (if !s.fab.valid || s.isLodestar || s.fab.holdover || !s.fab.locked || decide (s.tick.toNat < s.fab.lastTime.toNat + 47000) then s
    else
      let a := s.fab.lodestar
      ((s.loseLodestar.modFabSys (fun f => { f with holdover := true, failedPeers := s.fab.failedPeers })).raiseFab 0 13 0 a.toNat 0))

/-! ## SYNC (R352) -/

/-- The multiple of 65,536 plus the chain delay that lies nearest to the count. -/
def syncTarget (tick dly : Nat) : Int := (((tick : Int) - dly + 32768) / 65536) * 65536 + dly

/-- SYNC_IN: a rising edge. -/
def execSyncIn (s : State) : Res :=
  .next (if !s.fab.src then s
    else
      let s := if s.fab.locked then s.steer (syncTarget s.tick.toNat s.fab.syncDly.toNat) else s
      s.modFabSys (fun f => { f with syncMissed := 0, lastSync := s.tick, holdover := false }))

/-- SYNC_LOST: two expected pulses missed; the module falls back to time messages. -/
def execSyncLost (s : State) : Res :=
  .next (if !s.fab.bySync || decide (s.tick.toNat < s.fab.lastSync.toNat + 131072) then s
    else (s.modFabSys (fun f => { f with syncMissed := 2 })).raiseFab 0 12 0 0 0)

/-- SYNC_OUT: the pulse starts at every multiple of 65,536; the tick ends it after 8 ticks. -/
def execSyncOut (s : State) : Res :=
  .next (if s.fab.syncOutEn && s.tick.toNat % 65536 == 0 then
    ({ s with pins := { s.pins with syncOut := true } } : State).emit (.syncPulse s.tick) else s)

/-- PTP_MESSAGE (R353): site time as the lodestar's PTP slave measures it. -/
def execPtpMessage (offset : DWord) (rate : Word) (s : State) : Res :=
  .next (if s.fab.ptpEn && s.isLodestar then s.modFabSys (fun f => { f with ptpOffset := offset, ptpRate := rate }) else s)

/-! ## Epoch control (R350, 13 R408) -/

/-- Epoch in force for what a proposal must exceed. -/
def State.epochInForce (s : State) : Word := ((s.membership.map Membership.epoch).getD 0)

/-- EPOCH_PROPOSAL: the copy in window 15 is checked against the digest and R300; a list that breaks R300 sets bad_cfg
(10 R326). One that does not come from the lodestar is of another cascade (R347). DEDUCED, assumption 55. -/
def State.proposal (s : State) (src : BitVec 13) (epoch : Word) (digest : List Byte) : State :=
  let a := (s.rxwin 15).base.toNat
  if src != s.fab.lodestar then s else
  let s := s.oseen a (s.listLen a)
  if shake256 (s.oread a (s.listLen a)) 32 != digest then s.emit (.answer epoch false 1)
  else match s.listAt a s.epochInForce with
    | some m =>
      if m.epoch == epoch then (s.modFabSys (fun f => { f with proposal := some m, answers := [], committed := false })).emit (.answer epoch true 0)
      else s.emit (.answer epoch false 2)
    | none => s.raiseCfg.emit (.answer epoch false 2)

def execEpochProposal (epoch : EpochFrom) (digest : List Byte) (s : State) : Res := .next (s.proposal epoch.src epoch.epoch digest)

/-- PROPOSAL_ANSWER at the lodestar: a refusal cancels the change, and a list without the members lost is proposed. -/
def State.proposalAnswer (s : State) (src : BitVec 13) (epoch : Word) (accept : Bool) : State :=
  match s.fab.proposal with
  | some m =>
    if !s.isLodestar || m.epoch != epoch then s
    else if accept then
      (s.modFabSys (fun f => { f with answers := f.answers.filter (fun x => x.1 != src) ++ [(src, true)] })).commitEpoch
    else s.propose (s.fab.failedPeers.foldl Membership.without m)
  | none => s

def execProposalAnswer (src : BitVec 13) (epoch : Word) (accept : Bool) (_reason : Byte) (s : State) : Res :=
  .next (s.proposalAnswer src epoch accept)

/-- EPOCH_COMMIT from the lodestar: the accepted list is installed at the step boundary, before the FWD of its first
step. DEDUCED, assumption 55. -/
def State.epochCommitAt (s : State) (src : BitVec 13) (epoch firstStep : Word) : State :=
  match s.fab.proposal with
  | some m => if m.epoch == epoch && src == s.fab.lodestar then
      (s.modFabSys (fun f => { f with committed := true, firstStep := firstStep })).installDue else s
  | none => s

/-- The command of the row: the message arrives (`State.epochCommitAt`). -/
def execEpochCommit (epoch : EpochFrom) (firstStep : Word) (s : State) : Res := .next (s.epochCommitAt epoch.src epoch.epoch firstStep)

/-- HELD_NOTICE: the module is held, or released; the lodestar passes the notice on. -/
def State.heldAt (s : State) (src : BitVec 13) (held : Bool) : State :=
  let was := s.fab.held.contains src
  let s' := s.modFabSys (fun f => { f with held := if held then (if was then f.held else f.held ++ [src]) else f.held.filter (· != src) })
  if s.isLodestar && was != held then s'.emit (.held src held) else s'

/-- The command of the row: the message arrives (`State.heldAt`). -/
def execHeldNotice (src : BitVec 13) (held : Bool) (s : State) : Res := .next (s.heldAt src held)

end Sys2Proof.Machine
end

