-- ==== Sys2Proof/Machine/Firmware.lean ====
section
/-! DEFINITION. Orrery firmware (13 R388–R395, R413–R418): load blocks, image checks, start, confirmation, fallback; the
boot flash's records. -/

namespace Sys2Proof.Machine

/-! ## Blocks (R394) -/

/-- First byte of a load slot (R392). -/
def loadSlotBase (slot : Bool) : Nat := 0x2FFD000000 + bit slot * 0x1000000

def Orr.loadMap (o : Orr) (slot : Bool) : BitVec 256 := if slot then o.loadMap1 else o.loadMap0

/-- ORR_LOAD_BLK: index, length, slot, CRC-32C. A length out of range is no notice. -/
def State.loadBlk (s : State) (v : DWord) : State :=
  let i := fld v.toNat 0 8
  let len := fld v.toNat 8 17
  let slot := bitAt v.toNat 25
  if len % 64 != 0 || decide (len < 64) || decide (len > 65536) then s
  else
    let ok := (crc32c (s.oread (loadSlotBase slot + 65536 * i) len)).toNat == fld v.toNat 32 32
    let s := s.oseen (loadSlotBase slot + 65536 * i) len
    let s := s.modOrr (fun o => { o with
      loadSlot := slot,
      loadMap0 := if slot then o.loadMap0 else setBit o.loadMap0 i ok,
      loadMap1 := if slot then setBit o.loadMap1 i ok else o.loadMap1 })
    if ok then s else s.raise .orr 7

def execOrrLoadBlk (value : DWord) (s : State) : Res := .next (s.loadBlk value)

/-! ## Images (R393, R395, 14 R425) -/

/-- Component entry `i` of an image: type, offset, length. -/
def imgComp (b : List Byte) (i : Nat) : Nat × Nat × Nat := (bfld b (128 + 32 * i) 1, bfld b (132 + 32 * i) 4, bfld b (136 + 32 * i) 4)

/-- Largest length of a component type. -/
def compMax (t : Nat) : Nat := if t == 1 then 2 * mib else if t == 2 then 65536 else if t == 3 then 262144 else 0

/-- Bytes [lo, hi) are 0. -/
def zeroIn (b : List Byte) (lo hi : Nat) : Bool := ((b.drop lo).take (hi - lo)).all (· == 0)

/-- The header is well formed (R393). -/
def imgHeaderOk (b : List Byte) : Bool :=
  let len := bfld b 8 4
  let cs := (List.range 3).map (imgComp b)
  [bfld b 0 4 == 0x4C59524F, bfld b 4 2 == 1, bfld b 6 2 == 3, decide (8256 ≤ len), decide (len ≤ 16 * mib), len % 64 == 0,
   zeroIn b 22 24, zeroIn b 28 64, zeroIn b 224 4096,
   [1, 2, 3].all (fun t => (cs.filter (fun c => c.1 == t)).length == 1),
   cs.all (fun c => decide (c.2.2 ≤ compMax c.1) && decide (8192 ≤ c.2.1) && decide (c.2.1 + c.2.2 ≤ len)),
   (List.range 3).all (fun i => zeroIn b (129 + 32 * i) (132 + 32 * i) && zeroIn b (144 + 32 * i) (160 + 32 * i)),
   decide (bfld b 4096 2 ≤ 2046), decide (bfld b 6144 2 ≤ 2046)].all id

/-- The digest over an image's bytes. -/
def imgDigest (b : List Byte) : List Byte := digest64 (b.take 64 ++ (b.drop 128).take 3968 ++ (b.drop 8192).take (bfld b 8 4 - 8192))

/-- Signatures and svn (14 R425). -/
def State.imgSigned (s : State) (b : List Byte) : Bool :=
  let d := cut b 64 64
  let svn := bfld b 24 4
  let own := match s.sec.owner with
    | some o => !o.cosign || Config.falconVerify o.key d (cut b 6146 (bfld b 6144 2))
    | none => true
  Config.falconVerify Config.rootKey d (cut b 4098 (bfld b 4096 2)) && own && decide (svn ≤ 63) && decide (svn ≥ s.sec.svnOrr)

/-- The first check of R395 from 2 on that an image fails; 0 when it passes. -/
def State.imgFails (s : State) (b : List Byte) : Nat :=
  if !imgHeaderOk b then 2
  else if imgDigest b != cut b 64 64 then 3
  else if !s.imgSigned b then 4
  else 0

def readImage (b : List Byte) : Image :=
  { version := BitVec.ofNat 32 (bfld b 12 4), handMin := bfld b 16 2, handMax := bfld b 18 2, handOut := bfld b 20 2, svn := bfld b 24 4,
    digest := cut b 64 64, bytes := b }

/-- Bytes of a component type. -/
def imgPart (b : List Byte) (t : Nat) : List Byte :=
  match ((List.range 3).map (imgComp b)).find? (fun c => c.1 == t) with
  | some c => cut b c.2.1 c.2.2
  | none => []

/-- Check the image of a load slot in the order of R395: the failed check, or the image. -/
def State.slotImage (s : State) (slot : Bool) : Nat × Image :=
  let a := loadSlotBase slot
  let len := s.onat (a + 8) 4
  let blocks := (len + 65535) / 65536
  if blocks > 256 || !(List.range blocks).all (fun i => bitAt (s.orr.loadMap slot).toNat i) then (1, readImage [])
  else
    let b := s.oread a len
    (s.imgFails b, readImage b)

/-- The orrery has read the image of a load slot. -/
def State.slotSeen (s : State) (slot : Bool) : State :=
  (s.oseen (loadSlotBase slot + 8) 4).oseen (loadSlotBase slot) (min (s.onat (loadSlotBase slot + 8) 4) 0x1000000)

/-- An image is refused: load_fail, the step in ORR_LOAD_STAT.result; a failed signature sets sig_fail. -/
def State.loadFail (s : State) (step : Nat) : State :=
  let s := s.modOrr (fun o => { o with loadResult := BitVec.ofNat 4 (step + 1) })
  let s := if step == 4 then s.raiseSec 2 0 0 else s
  s.raise .orr 8

/-- The orrery component of an image goes into [0, 2 MiB), and the firmware begins with working memory of its own
(R395, R397). -/
def State.sramLoad (s : State) (b : List Byte) : State :=
  (s.modOrr (fun o => { o with sram := o.sram.setBytes 0 (imgPart b 1) })).sramWritten (3 * mib) (4 * mib)

/-- Start an image (R395, R416): measurements M3–M5, a confirm window, every orrery core afresh. -/
def State.startImage (s : State) (img : Image) (fallback : Bool) : State :=
  let s := s.modSec (fun c => ((c.extendM 3 img.digest).extendM 4 (digest64 (imgPart img.bytes 2))).extendM 5 (digest64 (imgPart img.bytes 3)))
  let s := s.modOrr (fun o => { o with
    image := some img, imgVersion := img.version, fwState := if fallback then 5 else 3, confirmed := false,
    confirmEnd := some (s.tick + 28200000000), hbChanged := false })
  let s := (List.range 20).foldl (fun s c => s.setOc c { s.oc c with restarted := s.tick, ticked := false, takeover := none }) s
  ((s.sramLoad img.bytes).rewriteRoutes.openWin15).almFw 1 img.version

/-! ## FW_LOAD and FW_UPDATE (R395, R414, R415) -/

/-- Accept an image from a slot. -/
def State.acceptSlot (s : State) (slot : Bool) (img : Image) : State :=
  let s := s.modOrr (fun o => { o with loadResult := 1, imgSlot := slot })
  s.startImage img false

/-- FW_LOAD: the load at the start of the firmware; completion status. DEDUCED, assumption 45. -/
def State.fwLoad (s : State) (slot : Bool) : State × Nat :=
  if s.orr.fwState != 0 then (s, 3)
  else
    let r := s.slotImage slot
    let s := s.slotSeen slot
    if r.1 != 0 then (s.loadFail r.1, 3) else (s.acceptSlot slot r.2, 0)

/-- The handoff record (R413): its version and length, then contents whose layout the manual does not give. DEDUCED, assumption 45. -/
def State.writeHandoff (s : State) (out : Nat) : State :=
  let (n, s) := s.fresh 1
  let s := s.gddrFill 0x2FFF000000 0x2FFF100000 [{ event := n, shift := 0 }]
  (s.owrite 0x2FFF000000 (leBytes 4 out ++ leBytes 4 mib)).modOrr (fun o => { o with handoff := out })

/-- FW_UPDATE: a live update. -/
def State.fwUpdate (s : State) (slot : Bool) : State × Nat :=
  match s.orr.image with
  | none => (s, 3)
  | some old =>
    if !s.fwRuns then (s, 3)
    else
      let r := s.slotImage slot
      let s := s.slotSeen slot
      if r.1 != 0 then (s.loadFail r.1, 3)
      else if old.handOut < r.2.handMin ∨ r.2.handMax < old.handOut then
        ((s.modOrr (fun o => { o with loadResult := 6 })).raise .orr 8, 3)
      else ((s.writeHandoff old.handOut).acceptSlot slot r.2, 0)

/-! ## Confirmation (R416, R417, 14 R427) -/

/-- The last-known-good image. -/
def Flash.lkg (f : Flash) : Option Image := if f.lkgB then f.orrB else f.orrA

/-- Write the image as last-known-good into the other slot; the orrery rollback counter advances to its svn. -/
def State.writeLkg (s : State) (img : Image) : State :=
  if !s.pins.flashWpN then s.raise .orr 10
  else
    let f := s.flash
    let f := if f.lkgB then { f with orrA := some img, lkgB := false } else { f with orrB := some img, lkgB := true }
    let s := ({ s with flash := f } : State).modOrr (fun o => { o with lkgVersion := img.version })
    let s := if img.svn > s.sec.svnOrr then s.modSec (fun c => ({ c with svnOrr := img.svn } : Sec).touchM6) else s
    s.almFw 4 img.version

/-- What firmware waits for before it confirms (R416): every in-service core has completed a tick, and so scheduled its
contexts once, and a driver heartbeat change has been seen. DEDUCED, assumption 45. -/
def State.confirmReady (s : State) : Bool :=
  s.orr.confirmEnd.isSome && s.orr.hbChanged &&
    (List.range 20).all (fun c => (s.oc c).role != 0 || (s.oc c).ticked)

/-- ORR_HEALTH_CONFIRM: only an orrery core's write counts. -/
def State.confirm (s : State) (req : Requester) : State :=
  match s.orr.image with
  | none => s
  | some img =>
    if !isOrrery req || !s.confirmReady then s
    else
      let s := s.modOrr (fun o => { o with confirmed := true, opened := true, confirmEnd := none, fwState := if o.fwState == 3 then 2 else o.fwState })
      let s := s.almFw 2 img.version
      if (s.flash.lkg.map Image.digest) == some img.digest then s else s.writeLkg img

/-- DEDUCED, assumption 18. -/
def execOrrHealthConfirm (req : Requester) (s : State) : Res := .next (s.confirm req)

/-! ## Fallback (R418) -/

/-- End the work of a context for the fallback: a step not DONE aborts, every other claimed entry ends with status 4. -/
def State.fallbackCtx (s : State) (n : Nat) : State :=
  if (s.ctx n).st == .free then s
  else
    let r := s.srec n
    let s := if r.started && !r.atEnd then
        let s := s.eachCore (s.ctxCores n) Core.stopStep
        let s := if s.bound n then s.trAbort r.step else s
        ((s.modSrec n (fun r => { r with outcome := 3, decisionTick := s.tick, commit := some false })).setPhase n 6).finishStep n r.entry 2
      else s
    s.modCtx n (fun c => { c with
      st := if c.st == .stopped then .stopped else .held, upd := none,
      entries := c.entries.map (fun e => if e.finished then e else { e with finished := true, status := 4 }) })

/-- CONFIRM_WINDOW_EXPIRY: the orrery complex is reset and the last-known-good image is loaded; a failed fallback leaves
the ROM loader. DEDUCED, assumption 45. -/
def State.confirmExpire (s : State) : State :=
  match s.orr.confirmEnd with
  | none => s
  | some t =>
    if s.tick.toNat < t.toNat then s
    else
      let wasFallback := s.orr.fwState == 5
      let s := s.raise .orr 9
      let s := s.modOrr (fun o => { o with image := none, confirmEnd := none, confirmed := false, fwState := 0, attached := false, draining := false })
      let s := (List.range 16).foldl State.fallbackCtx s
      let s := s.almFw 3 ((s.flash.lkg.map Image.version).getD 0)
      let s := s.enterHold
      match s.flash.lkg with
      | none => s
      | some img => if wasFallback || s.imgFails img.bytes != 0 then s else s.startImage img true

def execConfirmWindowExpiry (s : State) : Res := .next s.confirmExpire

/-! ## Boot flash (R388) -/

/-- The areas of the boot flash by offset and size in MiB: stage-1 A and B, OS loader A and B, orrery image A and B,
configuration, retirement and repair records, customer OS. -/
def flashMap : List (Nat × Nat) :=
  [(0x00, 16), (0x10, 16), (0x20, 32), (0x40, 32), (0x60, 16), (0x70, 16), (0x80, 1), (0x81, 1), (0x82, 126)]

/-- Write a retirement or repair record. When the flash fails the write, and the three retries, the orrery stops every
context at its next step boundary and enters hold. DEDUCED, assumption 43. -/
def State.flashRecord (s : State) (ok : Bool) (f : Flash → Flash) : State :=
  if ok then { s with flash := f s.flash }
  else (s.almFw 5 0).modOrr (fun o => { o with stopping := true })

/-- ROW_REPAIR of row `row` of bank `bank` of one MD of a physical site (12 R363), with its repair record. -/
def State.rowRepairRec (s : State) (p row : Nat) (ok : Bool) : State :=
  let t := s.rowRepair p row
  if (t.site p).repaired.length > (s.site p).repaired.length then
    t.flashRecord ok (fun f => { f with rowRecord := f.rowRecord ++ [(p, row)] })
  else t

def execRowRepair (site : SiteNo) (md : Bool) (bank : BitVec 6) (row : Nat) (recOk : Bool) (s : State) : Res :=
  .next (s.rowRepairRec site.toNat ((row * 64 + bank.toNat) * 2 + bit md) recOk)

end Sys2Proof.Machine
end

