-- ==== Sys2Proof/Machine/Admin.lean ====
section
/-! DEFINITION. The admin ring (13 R406): contexts created, destroyed, held and resumed, stash, fabric configuration,
multicast groups, Ethernet rings, firmware, detach and reattach; attach and driver loss (R407–R409). -/

namespace Sys2Proof.Machine

/-! ## The ring (R403, R406) -/

/-- First byte of the admin area. -/
def Orr.adminAddr (o : Orr) : Nat := o.adminBase.toNat * 4096

/-- First byte of the admin completion ring. -/
def Orr.adminCpl (o : Orr) : Nat := o.adminAddr + 0x8000

def adminCodes : List Nat := [0x01, 0x02, 0x03, 0x04, 0x10, 0x11, 0x12, 0x13, 0x20, 0x21, 0x22, 0x23]

/-- The lead serves the ring: a driver is attached to a good area and the module does not drain for hold. DEDUCED, assumption 42. -/
def State.adminOpen (s : State) : Bool := s.orr.attached && s.orr.adminOk && !s.orr.draining && (s.oc s.orr.lead.toNat).role == 0

/-- The indices of the two rings break R403. -/
def State.adminIdxBad (s : State) : Bool :=
  let p := s.onat s.orr.adminAddr 8
  let cc := s.onat (s.orr.adminCpl + 64) 8
  decide (p < s.orr.adminCons) || decide (p > s.orr.adminCons + 256) || decide (cc > s.orr.adminProd) || decide (s.orr.adminProd > cc + 256)

/-- The next admin entry to serve, when there is one and the completion ring has room. -/
def State.adminFront (s : State) : Option (List Byte) :=
  let p := s.onat s.orr.adminAddr 8
  let cc := s.onat (s.orr.adminCpl + 64) 8
  if p > s.orr.adminCons && s.orr.adminProd < cc + 256 then some (s.oread (ringAt s.orr.adminAddr 64 256 s.orr.adminCons) 64) else none

/-- Complete an admin entry: consumer index, record, producer index, PLIC source 17. -/
def State.adminDone (s : State) (b : List Byte) (status : Nat) : State :=
  let o := s.orr
  let s := s.owrite (o.adminAddr + 64) (leBytes 8 (o.adminCons + 1))
  let s := s.owrite (ringAt o.adminCpl 32 256 o.adminProd) (completion (BitVec.ofNat 32 (bfld b 4 4)) (BitVec.ofNat 8 status) 0 0 s.tick 0)
  let s := s.owrite o.adminCpl (leBytes 8 (o.adminProd + 1))
  (s.modOrr (fun o => { o with adminCons := o.adminCons + 1, adminProd := o.adminProd + 1 })).plic 17

/-- The orrery has read the indices, and the entry in front if there is one to serve. -/
def State.adminSeen (s : State) : State :=
  let e := if s.adminFront.isSome then [(ringAt s.orr.adminAddr 64 256 s.orr.adminCons, 64)] else []
  s.seenRuns s.orrReq ((s.orr.adminAddr, 8) :: (s.orr.adminCpl + 64, 8) :: e)

/-- A refused entry: malformed, or not servable in the ROM loader. -/
def State.adminRefuse (s : State) (b : List Byte) (bad : Bool) : State := (if bad then s.raise .orr 12 else s).adminDone b 3

/-- Serve the next admin entry if it is of this code. `resv` tells that its reserved bytes are 0; `f` answers the new
state and, once the command is done, its status. An entry of no known code is refused by whichever command serves it. DEDUCED, assumption 42. -/
def State.adminServe (s : State) (code : Nat) (resv : List Byte → Bool) (f : List Byte → State → State × Option Nat) : State :=
  if !s.adminOpen then s
  else if s.adminIdxBad then s.adminSeen.raise .orr 12
  else match s.adminFront with
    | none => s.adminSeen
    | some b =>
      let s := s.adminSeen
      let c := bfld b 0 1
      if !adminCodes.contains c then s.adminRefuse b true
      else if c != code then s
      else if bfld b 1 3 != 0 || !resv b then s.adminRefuse b true
      else if s.orr.fwState == 0 && code != 0x20 then s.adminRefuse b false
      else
        let r := f b s
        match r.2 with
        | some st => r.1.adminDone b st
        | none => r.1

/-- Every byte outside [0, 8) and the listed ranges is 0. -/
def zeroBut (l : List (Nat × Nat)) (b : List Byte) : Bool :=
  (List.range 64).all (fun i => decide (i < 8) || l.any (fun r => decide (r.1 ≤ i ∧ i < r.2)) || bfld b i 1 == 0)

/-! ## CTX_CREATE (R399, 14 R435) -/

def readDesc (b : List Byte) : CtxDesc :=
  let fl := bfld b 1 1
  { sealedCtx := bitAt fl 0, paced := bitAt fl 1, training := bitAt fl 2, lean := bitAt fl 3, saveBed := bitAt fl 4, prio := bfld b 2 1,
    quantum := BitVec.ofNat 32 (bfld b 4 4), sites := BitVec.ofNat 64 (bfld b 8 8), ctxKey := BitVec.ofNat 64 (bfld b 16 8), subAddr := bfld b 24 6,
    subN := bfld b 30 2, cplAddr := bfld b 32 6, cplN := bfld b 38 2, policyAddr := bfld b 40 6, trellisAddr := bfld b 46 6, saveAddr := bfld b 52 6,
    t0 := BitVec.ofNat 64 (bfld b 64 8), lp := BitVec.ofNat 32 (bfld b 72 4) }

/-- A ring size of R399. -/
def ringSize (n : Nat) : Bool := [16, 32, 64, 128, 256, 512, 1024, 2048, 4096].contains n

/-- The save area holds one image per core it serves, with no pinned tiles (R399, R402). -/
def State.saveOk (s : State) (d : CtxDesc) : Bool :=
  let per := 32 * imageSize d.lean 0
  if d.saveBed then decide (d.saveAddr + per ≤ parityBase) && (!s.sb.en || decide (chunkSize * s.prot ≤ d.saveAddr))
  else decide (d.saveAddr + per * (onesOf 64 d.sites.toNat).length ≤ fwBase)

/-- A descriptor that R399 refuses. -/
def State.descBad (s : State) (b : List Byte) (d : CtxDesc) : Bool :=
  [decide (bfld b 0 1 > 15), decide (bfld b 1 1 ≥ 32), decide (d.prio > 7), bfld b 3 1 != 0, d.quantum != 0 && decide (d.quantum.toNat < 9400),
   !(onesOf 64 d.sites.toNat).all (fun l => (s.physOf l).isSome), !ringSize d.subN, !ringSize d.cplN, !areaOk d.subAddr (128 + 64 * d.subN),
   !areaOk d.cplAddr (128 + 32 * d.cplN), !areaOk d.policyAddr 128, d.trellisAddr != 0 && !areaOk d.trellisAddr 64, !s.saveOk d,
   d.paced && decide (d.lp.toNat < 9400), bfld b 58 6 != 0, (b.drop 76).any (· != 0)].any id

/-- What refuses a sealed context: shared sites, a port up without encryption. -/
def State.sealBad (s : State) (d : CtxDesc) : Bool :=
  d.sealedCtx && ((List.range 16).any (fun m => (s.ctx m).st != .free && ((s.ctx m).desc.sites &&& d.sites) != 0)
    || (List.range 16).any (fun p => (s.port p).up && !(s.port p).enc))

/-- Create context `n`. -/
def State.createCtx (s : State) (n : Nat) (d : CtxDesc) : State :=
  let oc := (s.lightest s.inService).getD s.orr.lead.toNat
  let s := s.setCtx n { Ctx.init with st := .ready, desc := d, oc := BitVec.ofNat 5 oc }
  let s := s.setSeal n SealSt.init
  let s := if d.sealedCtx then (List.range 4).foldl (fun s x => s.modFab x (fun f => { f with encReq := true })) s else s
  (s.almCtx n 1).preempt

def State.ctxCreate (b : List Byte) (s : State) : State × Option Nat :=
  let a := bfld b 8 6
  if !areaOk a 128 then (s, some 3)
  else
    let db := s.oread a 128
    let s := s.oseen a 128
    let d := readDesc db
    let n := bfld db 0 1
    if s.descBad db d || (s.ctx n).st != .free || s.sealBad d then (s, some 3) else (s.createCtx n d, some 0)

def execCtxCreate (s : State) : Res := .next (s.adminServe 0x01 (zeroBut [(8, 14)]) State.ctxCreate)

/-! ## CTX_DESTROY (R406, 14 R441) -/

/-- Cores that hold the context. -/
def State.heldCores (s : State) (n : Nat) : List (Nat × Nat × Nat) :=
  (s.ctxCores n).filter (fun x => (s.core x.2.2).ctx == some (BitVec.ofNat 4 n))

/-- Report what is claimed and not yet reported, with status 4. DEDUCED, assumption 42. -/
def State.reportClaimed (s : State) (n : Nat) : State :=
  (s.ctx n).entries.foldl (fun s e => s.complete n e.irq (s.entryRecord (if e.finished then e else { e with status := 4 }))) s

/-- Take the Trellis blocks from a context. -/
def State.unbind (s : State) (n : Nat) : State :=
  if !s.bound n then s
  else
    let s := (List.range 4).foldl (fun s x => s.modTr x (fun d => { d with en := false, cfgValid := false, totals := [], pendingTags := [], running := [] })) s
    { s with trellis := { s.trellis with cfg := none, heads := [], staging := [], folds := [], foldData := [], closes := [], owed := [],
                                         retained := [], complete := [], status := [], handed := [], watch := [], failed := [] } }

/-- The end of a context: entries reported, cores and save area cleared, the context free. -/
def State.freeCtx (s : State) (n : Nat) : State :=
  let s := s.reportClaimed n
  let s := s.eachCore (s.heldCores n) (fun c => { c.wipe with ctx := none })
  let s := s.fillSave n (fun _ => [])
  let s := (s.unbind n).setCtx n Ctx.init
  (s.setSeal n SealSt.init).almCtx n 2

/-- One go at destroying a context: work stops at command boundaries, a sealed context is erased, and once all is idle
it is freed. The Boolean tells that it is. -/
def State.destroyStep (s : State) (n : Nat) : State × Bool :=
  let s := if (s.ctx n).destroying then s
    else (s.eachCore (s.heldCores n) Core.stopStep).modCtx n (fun c => { c with destroying := true })
  if !(s.heldCores n).all (fun x => (s.core x.2.2).idle) then (s, false)
  else
    let st := (s.seal n).state
    if st == 3 then (s, false)
    else if st != 0 then
      (if s.sec.ch1.busy then (s, false) else ((s.secAsk 0x12 n 0 0).setSeal n { s.seal n with state := 3 }, false))
    else (s.freeCtx n, true)

def State.ctxDestroy (b : List Byte) (s : State) : State × Option Nat :=
  let n := bfld b 8 1
  if n ≥ 16 || (s.ctx n).st == .free then (s, some 3)
  else
    let r := s.destroyStep n
    (r.1, if r.2 then some 0 else none)

def execCtxDestroy (s : State) : Res := .next (s.adminServe 0x02 (zeroBut [(8, 9)]) State.ctxDestroy)

/-! ## CTX_HOLD and CTX_RESUME (R408) -/

/-- CTX_HOLD: no entry starts any more, what runs finishes, then the context is held. -/
def State.ctxHold (b : List Byte) (s : State) : State × Option Nat :=
  let n := bfld b 8 1
  let st := (s.ctx n).st
  if n ≥ 16 || !(st == .ready || st == .running || st == .saved) then (s, some 3)
  else if (s.ctx n).busy then (s.modCtx n (fun c => { c with held := true }), none)
  else ((s.modCtx n (fun c => { c with st := .held, held := false })).almCtx n 4, some 0)

def execCtxHold (s : State) : Res := .next (s.adminServe 0x03 (zeroBut [(8, 9)]) State.ctxHold)

/-- CTX_RESUME of a held context, or of one stopped by max_repeats whose sites are all present (09 R294). DEDUCED, assumption 43. -/
def State.ctxResume (b : List Byte) (s : State) : State × Option Nat :=
  let n := bfld b 8 1
  let c := s.ctx n
  if n ≥ 16 || s.orr.hold || !(c.st == .held || (c.st == .stopped && (s.ctxSites n).all (fun l => (s.physOf l).isSome))) then (s, some 3)
  else
    let s := s.modCtx n (fun c => { c with
      st := .ready, srec := if c.st == .stopped then { c.srec with repeats := 0 } else c.srec })
    ((s.almCtx n 5).preempt, some 0)

def execCtxResume (s : State) : Res := .next (s.adminServe 0x04 (zeroBut [(8, 9)]) State.ctxResume)

/-! ## STASH_SET (09 R279) -/

/-- The region overlaps another enabled one, lies outside what the orrery allows, or cuts a sealed range. DEDUCED, assumption 40. -/
def State.stashBad (s : State) (k : Nat) (r : Stash) : Bool :=
  let a := r.base.toNat * mib
  let n := r.sizeMib.toNat * mib
  r.elem == 3 || r.sizeMib == 0 || decide (r.sizeMib.toNat > 196608) || !areaOk a n
    || s.gddr.stash.any (fun x => x.1 != k && x.2.en && overlap a n (x.2.base.toNat * mib) (x.2.sizeMib.toNat * mib))
    || (List.range 16).any (fun c => s.sealedNow c && (s.seal c).ranges.any (fun q => overlap a n q.1 q.2 && !decide (q.1 ≤ a ∧ a + n ≤ q.1 + q.2)))

/-- DEDUCED, assumption 40. -/
def State.setStash (s : State) (k : Nat) (r : Stash) : State :=
  { s with gddr := { s.gddr with stash := sset (fun _ => Stash.init) s.gddr.stash k r } }

/-- Setting en marks every page as all-zero. DEDUCED, assumption 40. -/
def State.stashSet (b : List Byte) (s : State) : State × Option Nat :=
  let k := bfld b 8 1
  let v := bfld b 16 8
  let r : Stash := { en := bitAt v 0, elem := BitVec.ofNat 2 (fld v 1 2), base := BitVec.ofNat 28 (fld v 20 28), sizeMib := BitVec.ofNat 18 (bfld b 24 8) }
  let old := sget (fun _ => Stash.init) s.gddr.stash k
  if k > 3 then (s, some 3)
  else if old.en then (if r == { old with en := false } then (s.setStash k r, some 0) else (s, some 3))
  else if !r.en then (s.setStash k r, some 0)
  else if s.stashBad k r then (s, some 3)
  else
    let lo := r.base.toNat * mib
    ((s.gddrFill lo (lo + r.sizeMib.toNat * mib) []).setStash k r, some 0)

def execStashSet (s : State) : Res := .next (s.adminServe 0x10 (zeroBut [(8, 9), (16, 32)]) State.stashSet)

/-! ## FAB_CFG (R406, 11 R358, R361) -/

/-- Apply one item of a register image: XD registers go into all four XDs. None when the driver may not configure the
register. -/
def fabItem (s : State) (a : Nat) (v : DWord) : Option State :=
  match place a with
  | .xdReg _ off =>
    if off < 0x100000 then none
    else if (fabReg s (off - 0x100000) v FabDie.init).isNone then none
    else some ((List.range 4).foldl (fun s x => s.modFab x (fun d => (fabReg s (off - 0x100000) v d).getD d)) s)
  | .sys off => if 0x4000 ≤ off ∧ off < 0x41F0 then fabSysReg s (off - 0x4000) v else none
  | _ => none

/-- Apply items in order; none when one of them breaks the rule. -/
def fabItems : List (Nat × DWord) → State → Option State
  | [], s => some s
  | (a, v) :: r, s => (fabItem s a v).bind (fabItems r)

def State.fabCfg (b : List Byte) (s : State) : State × Option Nat :=
  let a := bfld b 8 6
  let n := bfld b 16 4
  if n == 0 || !areaOk a (16 * n) then (s, some 3)
  else
    let img := s.oread a (16 * n)
    let s := s.oseen a (16 * n)
    match fabItems ((List.range n).map (fun i => (bfld img (16 * i) 8, BitVec.ofNat 64 (bfld img (16 * i + 8) 8)))) s with
    | some t => if (List.range 15).all t.winOk then (t, some 0) else (s, some 3)
    | none => (s, some 3)

def execFabCfg (s : State) : Res := .next (s.adminServe 0x11 (zeroBut [(8, 14), (16, 20)]) State.fabCfg)

/-! ## MCAST_SET and ETH_RING (07 R204, R391) -/

def State.mcastSet (b : List Byte) (s : State) : State × Option Nat :=
  let g := bfld b 8 1
  if g > 63 then (s, some 3)
  else ({ s with grid := { s.grid with mcast := sset (fun _ => 0) s.grid.mcast g (BitVec.ofNat 64 (bfld b 16 8)) } }, some 0)

def execMcastSet (s : State) : Res := .next (s.adminServe 0x12 (zeroBut [(8, 9), (16, 24)]) State.mcastSet)

/-- Key of an Ethernet ring. -/
def ethKey (port : Nat) (rx : Bool) (ring : Nat) : Nat := 16 * port + 8 * bit rx + ring

def State.ethRing (b : List Byte) (s : State) : State × Option Nat :=
  let port := bfld b 8 1
  let r := bfld b 9 1
  let base := bfld b 16 8
  let n := bfld b 24 4
  if port > 2 || decide (r ≥ 16) || n == 0 || decide (n > 65536) || !areaOk base (16 * n) then (s, some 3)
  else
    let k := ethKey port (bitAt r 3) (r % 8)
    ({ s with host := { s.host with rings := sset (fun _ => none) s.host.rings k (some { base := base, count := n, cursor := 0, polled := none, moving := false }) } }, some 0)

def execEthRing (s : State) : Res := .next (s.adminServe 0x13 (zeroBut [(8, 10), (16, 28)]) State.ethRing)

/-! ## FW_LOAD and FW_UPDATE -/

def State.fwSlot (f : State → Bool → State × Nat) (b : List Byte) (s : State) : State × Option Nat :=
  let k := bfld b 8 1
  if k > 1 then (s, some 3)
  else
    let r := f s (k == 1)
    (r.1, some r.2)

def execFwLoad (s : State) : Res := .next (s.adminServe 0x20 (zeroBut [(8, 9)]) (State.fwSlot State.fwLoad))
def execFwUpdate (s : State) : Res := .next (s.adminServe 0x21 (zeroBut [(8, 9)]) (State.fwSlot State.fwUpdate))

/-! ## DETACH, REATTACH, ATTACH, loss (R407–R409) -/

/-- DEDUCED, assumption 43. -/
def State.detach (_ : List Byte) (s : State) : State × Option Nat :=
  ((s.modOrr (fun o => { o with draining := true, attached := false })).almDriver 2, some 0)

def execDetach (s : State) : Res := .next (s.adminServe 0x22 (zeroBut []) State.detach)

/-- Leave hold. -/
def State.leaveHold (s : State) : State :=
  if s.orr.hold then (s.modOrr (fun o => { o with hold := false })).holdNotice false else s

/-- Every held context returns to ready. -/
def State.resumeAll (s : State) : State :=
  (List.range 16).foldl (fun s n => if (s.ctx n).st == .held then
    s.modCtx n (fun c => { c with st := .ready }) else s) s

/-- Destroy one context after another; the Boolean tells that none is left. -/
def State.destroyAll (s : State) : State × Bool :=
  (List.range 16).foldl (fun (acc : State × Bool) n =>
    if !acc.2 || (acc.1.ctx n).st == .free then acc else acc.1.destroyStep n) (s, true)

def State.reattach (b : List Byte) (s : State) : State × Option Nat :=
  match bfld b 8 1 with
  | 0 => ((s.leaveHold.resumeAll.almDriver 5).preempt, some 0)
  | 1 =>
    let r := s.destroyAll
    if r.2 then (r.1.leaveHold.almDriver 5, some 0) else (r.1, none)
  | _ => (s, some 3)

def execReattach (s : State) : Res := .next (s.adminServe 0x23 (zeroBut [(8, 9)]) State.reattach)

/-- ORR_ADMIN_BASE_WRITE: accepted only while attached = 0; bits [11:0] are ignored. -/
def State.setAdminBase (s : State) (v : DWord) : State :=
  if s.orr.attached then s else s.modOrr (fun o => { o with adminBase := BitVec.ofNat 36 (fld v.toNat 12 36) })

def execOrrAdminBaseWrite (value : DWord) (s : State) : Res := .next (s.setAdminBase value)

/-- ATTACH: heartbeat checking restarts, the indices are read from memory; a bad area sets ring_fault. -/
def State.attach (s : State) : State :=
  if s.orr.attached then s
  else
    let ok := areaOk s.orr.adminAddr 41088
    let s := s.modOrr (fun o => { o with
      attached := true, adminOk := ok, drvHbTick := s.tick, drvHbSeen := o.drvHb,
      adminCons := if ok then s.onat (o.adminAddr + 64) 8 else o.adminCons,
      adminProd := if ok then s.onat o.adminCpl 8 else o.adminProd })
    let s := if ok then s.seenRuns s.orrReq [(s.orr.adminAddr + 64, 8), (s.orr.adminCpl, 8)] else s.raise .orr 12
    s.almDriver 1

def execAttach (s : State) : Res := .next s.attach

/-- DRIVER_HEARTBEAT_LOSS (R407). DEDUCED, assumption 43. -/
def State.driverLost (s : State) : State :=
  if !s.orr.attached || !s.fwRuns || s.orr.drvHb != s.orr.drvHbSeen || decide (s.tick.toNat ≤ s.orr.drvHbTick.toNat + s.orr.hbLimit.toNat) then s
  else ((s.modOrr (fun o => { o with draining := true, attached := false })).raise .orr 5).almDriver 3

def execDriverHeartbeatLoss (s : State) : Res := .next s.driverLost

end Sys2Proof.Machine
end

