-- ==== Sys2Proof/Machine/Ethernet.lean ====
section
/-! DEFINITION. Ethernet ports and their descriptor rings (13 R390, R391). -/

namespace Sys2Proof.Machine

def State.ethRingAt (s : State) (k : Nat) : Option Ring := sget (fun _ => none) s.host.rings k

def State.setEthRing (s : State) (k : Nat) (r : Ring) : State :=
  { s with host := { s.host with rings := sset (fun _ => none) s.host.rings k (some r) } }

/-- PLIC source of a port (R387). -/
def ethSource (port : Nat) : Nat := 19 + port

/-- Write back a descriptor: len, flags with own cleared, status; the cursor moves on; bit 2 of the flags raises the
port's interrupt. -/
def State.descDone (s : State) (port k : Nat) (r : Ring) (len flags status : Nat) : State :=
  let a := r.base + 16 * r.cursor
  let s := s.writeNow .ethernet none (a + 8) (leBytes 2 len ++ leBytes 1 (flags / 2 * 2) ++ leBytes 1 status)
  let s := s.setEthRing k { r with cursor := (r.cursor + 1) % r.count, moving := true }
  if bitAt flags 2 then s.plic (ethSource port) else s

/-- The oldest frame held for a ring goes into the buffer of the descriptor at its cursor. DEDUCED, assumption 67. -/
def State.rxPoll (s : State) (port k : Nat) (r : Ring) (d : List Byte) : State :=
  match s.host.rxHold.find? (fun x => x.1 == k) with
  | none => s
  | some (_, f, fcs) =>
    let size := bfld d 8 2
    let s := { s with host := { s.host with rxHold := s.host.rxHold.eraseIdx (s.host.rxHold.findIdx (fun x : Nat × List Byte × Bool => x.1 == k)) } }
    let s := s.writeNow .ethernet none (bfld d 0 6) (f.take size)
    s.descDone port k r f.length (bfld d 10 1 % 2 + bfld d 10 1 / 4 * 4 + 2) (bit fcs + 2 * bit (decide (f.length > size)))

/-- The buffer of the descriptor at the cursor joins the frame being sent; end of frame sends it. DEDUCED, assumption 67. -/
def State.txPoll (s : State) (port k : Nat) (r : Ring) (d : List Byte) : State :=
  let n := bfld d 8 2
  let a := bfld d 0 6
  let bs := s.readRun .ethernet a n
  let s := s.seenRun .ethernet none a n
  let f := sget (fun _ => []) s.host.txFrame k ++ bs
  let eof := bitAt (bfld d 10 1) 1
  let s := { s with host := { s.host with txFrame := sset (fun _ => []) s.host.txFrame k (if eof then [] else f) } }
  let s := if eof then s.emit (.frame (BitVec.ofNat 2 port) f) else s
  s.descDone port k r n (bfld d 10 1) 0

/-- The ring is due for a poll: it moves data, or its last poll is 940 ticks ago (R391). -/
def Ring.due (r : Ring) (now : DWord) : Bool :=
  r.moving || (match r.polled with
    | some t => decide (t.toNat + 940 ≤ now.toNat)
    | none => true)

/-- DESCRIPTOR_POLL: every 940 ticks while the ring is idle, at any time while it moves data; the port stops at a descriptor
whose own bit is 0. DEDUCED, assumption 67. -/
def State.ethPoll (s : State) (port : Nat) (rx : Bool) (ring : Nat) : State :=
  let k := ethKey port rx ring
  match s.ethRingAt k with
  | none => s
  | some r =>
    if port > 2 || !r.due s.tick then s
    else
      let r := { r with polled := some s.tick, moving := false }
      let d := s.readRun .ethernet (r.base + 16 * r.cursor) 16
      let s := (s.setEthRing k r).seenRun .ethernet none (r.base + 16 * r.cursor) 16
      if !bitAt (bfld d 10 1) 0 then s else if rx then s.rxPoll port k r d else s.txPoll port k r d

def execDescriptorPoll (port : BitVec 2) (rx : Bool) (ring : BitVec 3) (s : State) : Res := .next (s.ethPoll port.toNat rx ring.toNat)

/-- FRAME_RECEIVE: a frame of 64 to 9,216 bytes goes to the ring of its priority, ring 0 when untagged; it waits while
the port does not own the descriptor there. With no ring placed there it is lost. DEDUCED, assumption 67. -/
def State.frameIn (s : State) (port ring : Nat) (f : List Byte) (fcs : Bool) : State :=
  let k := ethKey port true ring
  if port > 2 || decide (f.length < 64) || decide (f.length > 9216) || (s.ethRingAt k).isNone then s
  else ({ s with host := { s.host with rxHold := s.host.rxHold ++ [(k, f, fcs)] } } : State).ethPoll port true ring

def execFrameReceive (port : BitVec 2) (prio : Option (BitVec 3)) (frame : List Byte) (fcsError : Bool) (s : State) : Res :=
  .next (s.frameIn port.toNat ((prio.map BitVec.toNat).getD 0) frame fcsError)

end Sys2Proof.Machine
end

