-- ==== Sys2Proof/Machine/Faults.lean ====
section
/-! DEFINITION. Faults (15): urgent events and what the orrery does with them, HALT, grafts, restarting a step, halves
of an XD, host harts. -/

namespace Sys2Proof.Machine

/-! ## Register addresses of leaf causes (13 R412 kind 0x02) -/

/-- The register space of a core or site, logical where the site serves an ID. -/
def State.siteSpace (s : State) (p : Nat) : Nat := siteRegBase + ((s.logicalOf p).getD p) * 2 ^ 24

def State.coreSpace (s : State) (k : Nat) : Nat := s.siteSpace (k / 64) + (s.whoIs k).2 * 0x40000

/-- DEDUCED, assumption 56. -/
def State.leafAddr (s : State) : Leaf → Nat
  | .cc k => s.coreSpace k + 0x10
  | .me k => s.coreSpace k + 0x10010
  | .ve k => s.coreSpace k + 0x20008
  | .se k => s.coreSpace k + 0x30010
  | .bed p => s.siteSpace p + 0x900010
  | .site p => s.siteSpace p + 0x901010
  | .mc x => xdRegBase + x * 2 ^ 24 + 0x200010
  | .fab x => xdRegBase + x * 2 ^ 24 + 0x100010
  | .tr x => xdRegBase + x * 2 ^ 24 + 0x400010
  | .xdl x => xdRegBase + x * 2 ^ 24 + 0x1010
  | .sb => sysBase + 0x6010
  | .orr => sysBase + 0x7008
  | .hc => sysBase + 0x7808
  | .sec => sysBase + 0x8008
  | .siteLost => sysBase + 0x9020
  | .pwr => sysBase + 0xA008
  | .clk => sysBase + 0xB008
  | .therm => sysBase + 0xB810

/-! ## HALT at a core (R449; 03 R94, 04 R138, 07 R221, 08 R258) -/

/-- A discarded command counts as started and done. -/
def EngCnt.discard (n : EngCnt) (q : QEntry) : EngCnt := { (n.complete q.num) with started := n.started + 1 }

/-- Every command still queued is discarded. -/
def Core.discardQueues (c : Core) : Core :=
  { c with
    cc := { c.cc with
      meCnt := c.me.queue.foldl EngCnt.discard c.cc.meCnt,
      veCnt := c.ve.queue.foldl EngCnt.discard c.cc.veCnt,
      seCnt := c.se.queue.foldl EngCnt.discard c.cc.seCnt },
    me := { c.me with queue := [] },
    ve := { c.ve with queue := [], popped := none },
    se := { c.se with queue := [], waits := [] } }

/-- HALT at the ME (03 R94): a store in progress completes; every other started command is interrupted, its tile
undefined and marked, and an interrupted self-test leaves its result undefined. -/
def State.haltMe (s : State) (k : Nat) : State :=
  let broken := (s.core k).me.jobs.filter (fun j => !j.work.isStore)
  let (n, s) := s.fresh (16 * 16384 + 1)
  let test := broken.any (fun j => j.work.isSelftest)
  let s := s.modMe k (fun m =>
    let m := { m with jobs := m.jobs.filter (fun j => j.work.isStore), finishing := false,
                      test := if test then Config.freeWord 130 (n + 16 * 16384) else m.test }
    broken.foldl (fun m j => { (m.setTile j.work.tile (Tile.undef (n + 16384 * j.work.tile))) with
      haltedT := setBit m.haltedT j.work.tile true }) m)
  broken.foldl (fun s j => s.finish k .me j.q) s

/-- Writes whose bytes are undefined. -/
def openWrites (n : Nat) (ws : List Wr) : List Wr := ws.map (fun w => { w with b := Config.freeByte n w.a })

/-- A load that HALT stops leaves its target bank undefined, its entry count too (04 R138). -/
def Ve.spoilBank (v : Ve) (n : Nat) (j : TloadJob) : Ve :=
  let t : VTable :=
    { n := (Config.freeWord 32 n).toNat % ((if j.table.toNat < 4 then 256 else 4096) + 1), scale := Config.freeWord 32 (n + 1),
      off := Config.freeWord 32 (n + 2), words := Tile.undef (n + 3) }
  { v with tables := sset (fun _ => VTable.init) v.tables (2 * j.table.toNat + bit j.bank) t }

/-- HALT at the VE (04 R138): what the chain has not written and the target bank of a load are undefined; the active
banks stay, and swaps not yet in effect are dropped. The sticky bits are those of the chains before. DESIGN CHOICE, assumption 78. -/
def State.haltVe (s : State) (k : Nat) : State :=
  let v := (s.core k).ve
  let (n, s) := s.fresh (1 + 3 + 16384)
  let s := s.land (openWrites n ((v.chain.map ChainJob.writes).getD []))
  let s := s.modVe k (fun v =>
    let v' := { v with chain := none, tloads := [], swaps := [], bankStat := v.bank, haltedV := v.haltedV || v.chain.isSome }
    v.tloads.foldl (fun v' j => v'.spoilBank (n + 1) j) v')
  let qs := (v.chain.map ChainJob.q).toList ++ v.tloads.map TloadJob.q ++ v.swaps.map Prod.fst
  qs.foldl (fun s q => s.finish k .ve q) s

/-- HALT at the SE (07 R221): every running context stops, the destinations of its unfinished transfers are
undefined, queue counters keep their values. -/
def State.haltSe (s : State) (k : Nat) : State :=
  let (n, s) := s.fresh 1
  let s := (List.range 8).foldl (fun s x =>
    let c := (s.core k).se.ctx x
    if !c.running then s
    else
      let s := s.land (openWrites n ((c.inflight.filter (fun t => !t.landed) ++ c.toIssue).flatMap Xfer.writes))
      (s.modSeCtx k x (fun c => { c with inflight := [], toIssue := [] })).endCtx k x) s
  let s := match (s.core k).se.fence with
    | some f => s.finish k .se f.1
    | none => s
  s.modSe k (fun e => { e with fence := none, waits := [], haltedS := true })

/-- HALT reaches a core (08 R258): the CC enters halted from any state and the engines stop. -/
def State.haltCore (s : State) (k : Nat) : State :=
  let s := (s.modCc k (fun c => { c with st := .halted })).raise (.cc k) 15
  (((s.modCore k Core.discardQueues).haltMe k).haltVe k).haltSe k

/-- HALT_ARRIVAL: the broadcast reaches a core, which acts when the context it runs is in the mask (R449). -/
def State.haltArrive (s : State) (k : Nat) : State :=
  if !s.gis.arrive.contains k then s
  else
    let s := s.modGis (fun g => { g with arrive := g.arrive.filter (· != k) })
    match (s.core k).ctx with
    | some n => if bitAt s.gis.inForce.toNat n.toNat then s.haltCore k else s
    | none => s

def execHaltArrival (l : SiteNo) (c : CoreNo) (s : State) : Res :=
  match s.key l c with
  | some k => .next (s.haltArrive k)
  | none => .next s

/-! ## HALT (R449, R450) -/

/-- The cores a HALT of a mask stops: those whose running context it names, on present sites that are on. -/
def State.haltKeys (s : State) (mask : Half) : List Nat :=
  (List.range 64).flatMap (fun p => if s.present p && !s.dark p then
    ((List.range 32).map (s.keyOf p)).filter (fun k => match (s.core k).ctx with
      | some n => bitAt mask.toNat n.toNat
      | none => false) else [])

/-- What a fault does to a context of the mask: a switch under way is abandoned, its step votes at once with
healthy = 0 and early_abort = 1 (R450); with a commit decision 09 R295 and R296 apply. Only a context on its cores has
its STARTs halted (R452). -/
def State.haltCtx (s : State) (n : Nat) : State :=
  let s := s.modCtx n (fun c => { (if c.saved.isEmpty then c.endStarts else c) with switching := false })
  let s := if (s.updRec n).phase == 4 then s.modUpd n (fun r => { r with faulted := true }) else s
  if (s.srec n).open_ then s.earlyVote n else s

/-- Start a HALT, or add to the one in force. -/
def State.haltGo (s : State) (mask : Half) (reason : Nat) : State :=
  let s := s.almanac 0x02 .urgent none (originOc s.orr.lead.toNat) (leBytes 1 reason ++ leBytes 2 mask.toNat)
  let keys := s.haltKeys mask
  let s := s.modGis (fun g => { g with
    halted := g.halted ||| mask, inForce := (if g.arrive.isEmpty then 0 else g.inForce) ||| mask, tick := s.tick,
    arrive := g.arrive ++ keys.filter (fun k => !g.arrive.contains k) })
  (onesOf 16 mask.toNat).foldl (fun s n => s.haltCtx n) s

/-- HALT: a write of SYS_HALT; those of other requesters are ignored. -/
def execHalt (req : Requester) (mask : BitVec 16) (reason : Byte) (s : State) : Res :=
  match req with
  | .orrery _ => .next (s.haltGo mask reason.toNat)
  | _ => .next s

/-! ## Grafts to run (R446, R460) -/

/-- The physical unit of a graft, which breaks ties of ticks. -/
def Graft.unit (g : Graft) : Nat := 64 * g.site + g.core

/-- The graft that `g` is part of already. DEDUCED, assumption 57. -/
def Graft.absorbs (h g : Graft) : Bool :=
  (h.kind == g.kind && h.site == g.site && (h.kind == 2 || h.core == g.core))
    || (h.kind == 2 && h.site == g.site && (g.kind != 4)) || (h.kind == 1 && (g.kind == 0 || g.kind == 5) && h.site == g.site && h.core == g.core)

/-- Insert by latch tick, then unit. DEDUCED, assumption 57. -/
def insertGraft (g : Graft) : List Graft → List Graft
  | [] => [g]
  | h :: r => if h.tick.toNat < g.tick.toNat ∨ (h.tick = g.tick ∧ h.unit ≤ g.unit) then h :: insertGraft g r else g :: h :: r

/-- Queue a graft; one on a unit already being grafted makes that graft larger (R460). -/
def State.queueGraft (s : State) (g : Graft) : State :=
  if s.gis.grafts.any (fun h => h.absorbs g) then
    s.modGis (fun x => { x with grafts := x.grafts.map (fun h => if h.absorbs g then { h with mask := h.mask ||| g.mask } else h) })
  else
    let eaten := s.gis.grafts.filter (fun h => g.absorbs h)
    let g := { g with mask := eaten.foldl (fun m h => m ||| h.mask) g.mask }
    s.modGis (fun x => { x with grafts := insertGraft g (x.grafts.filter (fun h => !g.absorbs h)) })

/-- Contexts whose site set contains the logical site of a physical one (R449). DEDUCED, assumption 25; DEDUCED, assumption 56. -/
def State.maskOf (s : State) (p : Nat) : Half :=
  match s.logicalOf p with
  | some l => BitVec.ofNat 16 (bitsOf 16 (fun n => (s.ctx n).st != .free && bitAt (s.ctx n).desc.sites.toNat l))
  | none => 0

def State.maskRunning (s : State) : Half := BitVec.ofNat 16 (bitsOf 16 (fun n => (s.ctx n).st == .running))

/-- The contexts that the HALT of a site fault names: those with the site, and every running one (R449). -/
def State.siteMask (s : State) (p : Nat) : Half := s.maskOf p ||| s.maskRunning

/-- HALT the contexts of a mask and queue a graft. DEDUCED, assumption 56. -/
def State.haltFor (s : State) (u : Urgent) (mask : Half) (kind p c : Nat) : State :=
  (s.haltGo mask u.bit).queueGraft { kind := kind, site := p, core := c, tick := u.tick, mask := mask }

/-- A core fault: its contexts are halted. The unit of a core is its presented core. -/
def State.coreFault (s : State) (u : Urgent) (k kind : Nat) : State := s.haltFor u (s.maskOf (k / 64)) kind (k / 64) (s.whoIs k).2

/-- A site or router fault: a site is grafted, a spare retired, with its contexts and every running one halted (R449, R512). -/
def State.siteFault (s : State) (u : Urgent) (p : Nat) : State :=
  match s.role p with
  | .active => s.haltFor u (s.siteMask p) 2 p 0
  | .spare => s.haltFor u (s.siteMask p) 4 p 0
  | _ => s

/-- A step loses data to a poisoned word: healthy = 0 in its vote (R447). -/
def State.faultCtxs (s : State) (ns : List Nat) : State := ns.foldl (fun s n => s.modSrec n (fun r => { r with faulted := true })) s

def State.ctxOfCore (s : State) (k : Nat) : List Nat := ((s.core k).ctx.map BitVec.toNat).toList

/-! ## Routes (01 R31, R457) -/

/-- A failed bridge edge leaves the route tables; a site whose second edge fails is grafted (R457). DEDUCED, assumption 58. -/
def State.edgeFault (s : State) (u : Urgent) (p : Nat) : State :=
  let ends := p :: (neighbour p u.arg).toList
  let s := (s.haltGo (ends.foldl (fun m q => m ||| s.siteMask q) 0) u.bit).rewriteRoutes
  (ends.filter (fun q => decide (s.edgesLost q ≥ 2))).foldl (fun s q => s.siteFault u q) s

/-! ## Urgent events (R446, R447) -/

/-- The orrery's answer to an urgent event. DEDUCED, assumption 56. -/
def State.answer (s : State) (u : Urgent) : State :=
  match u.leaf, u.bit with
  | .me k, 0 => s.coreFault u k 0
  | .me k, _ => s.faultCtxs (s.ctxOfCore k)
  | .cc k, 11 => s.coreFault u k (if (s.core k).cc.imemUes ≥ 2 then 1 else 5)
  | .cc k, _ => s.faultCtxs (s.ctxOfCore k)
  | .ve k, _ => s.faultCtxs (s.ctxOfCore k)
  | .se k, _ => s.faultCtxs (s.ctxOfCore k)
  | .site p, 0 => s.haltFor u (s.maskOf p) 1 p u.arg
  | .site p, 1 => s.edgeFault u p
  | .site p, _ => s.siteFault u p
  | .siteLost, p => s.siteFault u p
  | .bed p, _ => s.faultCtxs (onesOf 16 (s.maskOf p).toNat)
  | .mc _, 2 => s.faultCtxs (onesOf 16 s.maskRunning.toNat)
  | .tr _, 6 => s.faultCtxs ((s.trellis.cfg.map (fun c => c.ctx.toNat)).toList)
  | .tr _, 10 => s.faultCtxs ((s.trellis.cfg.map (fun c => c.ctx.toNat)).toList)
  | _, _ => s

/-- The two cores that an urgent event is delivered to: the lead, and the lowest-numbered in-service core on another
XD. -/
def State.urgentCores (s : State) : List Nat :=
  let lead := s.orr.lead.toNat
  let other := (List.range 20).find? (fun oc => (s.oc oc).role == 0 && ocDie oc != ocDie lead)
  (if (s.oc lead).role == 0 then [lead] else []) ++ other.toList

/-- URGENT_LATCH: core `oc` is the first to enter, and claims the oldest event. DEDUCED, assumption 56. -/
def State.claimUrgent (s : State) (oc : Nat) : State :=
  match s.gis.urgent with
  | [] => s
  | u :: r =>
    if !s.fwRuns || !s.urgentCores.contains oc then s
    else
      let s := s.modGis (fun g => { g with urgent := r })
      let s := s.almanac 0x02 .urgent none (originOc oc) (leBytes 8 (s.leafAddr u.leaf) ++ leBytes 8 (s.leaf u.leaf))
      s.answer u

/-- A hardware error sets its leaf cause. An uncorrectable one in a core's code or working memory is that core's crash
(13 R397, R398). DESIGN CHOICE, assumption 72. -/
def State.hwEvent (s : State) : HwEvent → State
  | .rtr p ue => if s.present p.toNat then s.raiseSite p.toNat (if ue then 3 else 2) 0 0 else s
  | .xdl x ue => s.raise (.xdl x.toNat) (if ue then 2 else 1)
  | .l2 ue => s.raise .hc (if ue then 2 else 1)
  | .sram false _ => s.raise .orr 3
  | .sram true none => s.raise .orr 4
  | .sram true (some oc) => (s.raise .orr 4).ocCrash oc.toNat

def execUrgentLatch (oc : BitVec 5) (ev : Option HwEvent) (s : State) : Res :=
  .next ((ev.elim s s.hwEvent).claimUrgent oc.toNat)

/-! ## Fault events (R457, R465, R467) -/

/-- SITE_HEARTBEAT_LOSS of a physical site. -/
def execSiteHeartbeatLoss (site : SiteNo) (s : State) : Res :=
  .next (if s.present site.toNat then s.raise .siteLost site.toNat else s)

/-- CORE_LOST: a presented core missed two polls. -/
def execCoreLost (l : SiteNo) (c : CoreNo) (s : State) : Res :=
  .next (match s.physOf l.toNat with
    | some p => if s.dark p then s else s.raiseSite p 0 c.toNat 0
    | none => s)

/-- EDGE_FAIL of a physical site: an edge joins two present sites, or a site at the rim and an I/O die (01 R30). -/
def State.edgeFail (s : State) (p e : Nat) : State :=
  if !s.edgeLive p e then s
  else ({ s with grid := { s.grid with edges := s.grid.edges ++ [edgePair p (farEnd p e)] } } : State).raiseSite p 1 0 e

def execEdgeFail (site : SiteNo) (edge : BitVec 2) (s : State) : Res := .next (s.edgeFail site.toNat edge.toNat)

/-! ## Running a graft (R453–R456, R460) -/

/-- A graft of this kind on this unit is the next to run: its HALT has arrived, and the input is not sagging (16
R479). DEDUCED, assumption 57. -/
def State.graftTurn (s : State) (kind p c : Nat) : Option Graft :=
  match s.gis.grafts.find? (fun g => g.kind != 5) with
  | some g => if g.kind == kind && g.site == p && g.core == c && s.gis.arrive.isEmpty && decide (s.pwr.level < 3) then some g else none
  | none => none

def State.dropGraft (s : State) (g : Graft) : State := s.modGis (fun x => { x with grafts := x.grafts.filter (· != g) })

/-- The ticks since a graft's event. -/
def State.since (s : State) (g : Graft) : Nat := (s.tick - g.tick).toNat

/-- COLUMN_GRAFT (R453): the self-test's result. With no new failed column the array stays; with an 11th the core is
grafted. It waits until the ME is idle with an empty queue (03 R71). DEDUCED, assumption 57. -/
def State.columnGraft (s : State) (p c : Nat) (fails : BitVec 130) (recOk : Bool) : State :=
  match s.graftTurn 0 p c with
  | none => s
  | some g =>
    let k := s.keyOf p c
    if !(s.core k).me.idle then s else
    let (n, s) := s.fresh 16384
    let new := (fails &&& ~~~(s.core k).me.colfail) != 0
    let s := s.modMe k (fun m => { (m.setTile 0 (Tile.undef n)) with test := fails })
    let s := if new then s.raise (.me k) meColFail else s
    let s := s.dropGraft g
    if decide ((onesOf 130 fails.toNat).length ≥ 11) then s.queueGraft { g with kind := 1 }
    else
      let s := s.modMe k (fun m => { m with bcastReq := false, bcastActive := false, colfail := if new then fails else m.colfail })
      let s := if new then s.flashRecord recOk (fun f => { f with colRecord := f.colRecord ++ [(k, fails)] }) else s
      s.almGraft 0 k k (s.since g)

def execColumnGraft (l : SiteNo) (c : CoreNo) (fails : BitVec 130) (recOk : Bool) (s : State) : Res :=
  match s.physOf l.toNat with
  | some p => .next (s.columnGraft p c.toNat fails recOk)
  | none => .next s

/-- The image that a replay writes: that of the source, or undefined bytes when the driver has changed it (R452). -/
def State.replayImg (s : State) (e : Entry) : State × List Byte :=
  let now := s.oread e.src e.len
  let s := s.oseen e.src e.len
  if now == e.img then (s, now)
  else
    let (n, s) := s.fresh 1
    (s, (List.range e.len).map (Config.freeByte n))

/-- Replay every LOAD that a context has executed on a presented core (R452). -/
def State.replay (s : State) (k l c : Nat) : State :=
  match (s.core k).ctx with
  | none => s
  | some n =>
    ((s.ctx n.toNat).loads.filter (fun e => bitAt e.sites.toNat l && bitAt e.cores.toNat c)).foldl (fun s e =>
      let r := s.replayImg e
      (r.1.loadCore k e r.2).1) s

/-- A core that takes another's place: its engines on, halted, its LOADs replayed. -/
def State.takeCore (s : State) (k l c : Nat) (ctx : Option (BitVec 4)) : State :=
  (s.modCore k (fun x => { x with ctx := ctx, cc := { x.cc with eng := 0b111, st := if ctx.isSome then .halted else x.cc.st } })).replay k l c

/-- Physical cores of a site that have not failed and serve no presented core, lowest first. -/
def State.spareCores (s : State) (p : Nat) : List Nat :=
  let t := s.site p
  (List.range 34).filter (fun n => !bitAt t.failed.toNat n && !((List.range 32).map t.physCore).contains n)

/-- CORE_GRAFT (R456): the lowest-numbered spare core serves the presented core; with none left the site is grafted. DEDUCED, assumption 57. -/
def State.coreGraft (s : State) (p c : Nat) (recOk : Bool) : State :=
  match s.graftTurn 1 p c with
  | none => s
  | some g =>
    let old := s.keyOf p c
    let s := s.modSite p (fun t => { t with failed := setBit t.failed (t.physCore c) true })
    let s := (s.dropGraft g).flashRecord recOk (fun f => { f with coreRecord := f.coreRecord ++ [(p, old % 64)] })
    match s.spareCores p with
    | [] => s.siteFault { leaf := .site p, bit := 0, tick := g.tick, arg := c } p
    | n :: _ =>
      let ctx := (s.core old).ctx
      let s := s.modCore old (fun x => { x with ctx := none })
      let s := s.modSite p (fun t => { t with coreMap := sset (fun n => n) t.coreMap c n })
      let s := s.takeCore (64 * p + n) ((s.logicalOf p).getD 0) c ctx
      (s.raiseSite p 5 c 0).almGraft 1 old (64 * p + n) (s.since g)

def execCoreGraft (l : SiteNo) (c : CoreNo) (recOk : Bool) (s : State) : Res :=
  match s.physOf l.toNat with
  | some p => .next (s.coreGraft p c.toNat recOk)
  | none => .next s

/-! ### Site grafts (R454, R455; 01 R26, R27; 12 R370, R371) -/

/-- Sites at 0, 1, 2, … hops through present sites from the last frontier. DEDUCED, assumption 58. -/
def State.hopLevels (s : State) : Nat → List Nat → List Nat → List (List Nat)
  | 0, _, _ => []
  | n + 1, seen, front =>
    let next := (front.flatMap (fun p => (List.range 4).filterMap (neighbour p))).eraseDups.filter (fun q => s.present q && !seen.contains q)
    front :: s.hopLevels n (seen ++ next) next

/-- The spare with the fewest hops, the lowest-numbered on a tie. DEDUCED, assumption 58. -/
def State.nearestSpare (s : State) (p : Nat) : Option Nat :=
  (s.hopLevels 64 [p] [p]).findSome? (fun l => (l.filter (fun q => decide (s.role q = .spare))).foldl (fun (m : Option Nat) q =>
    some (match m with
      | some x => min x q
      | none => q)) none)

/-- The identity map of the healthy cores of a site (R454 step 4). -/
def Site.healthyMap (t : Site) : Sparse Nat :=
  let ok := (List.range 34).filter (fun n => !bitAt t.failed.toNat n)
  (List.range 32).foldl (fun m c => sset (fun n => n) m c (ok[c]?.getD c)) []

/-- Both groups that a site's loss leaves without parity: its own, and the one whose parity its share holds. -/
def State.groupsOfSite (s : State) (l : Nat) : Nat :=
  let g := s.groupOf l
  if s.rankOf l < s.prot then 2 ^ g ||| 2 ^ (s.heldGroup g) else 2 ^ g

/-- The failure is of the group being rebuilt, or of the group that holds its parity (12 R371). -/
def State.related (s : State) (l : Nat) : Bool :=
  match s.logicalOf s.sb.rebuildSite.toNat with
  | some l0 => s.groupOf l == s.groupOf l0 || s.groupOf l == (s.groupOf l0 + 1) % s.groups
  | none => false

/-- The loss of logical site `l` cannot be rebuilt (12 R371): state 4, rebuild_fail; the groups without parity now are its
own, the one whose parity it held, and both of a rebuild that it ends. DEDUCED, assumption 38. -/
def State.rebuildFails (s : State) (l : Nat) : State :=
  let old := if s.sb.state == 3 then ((s.logicalOf s.sb.rebuildSite.toNat).map s.groupsOfSite).getD 0 else 0
  let s := s.setUnprot (s.groupsOfSite l ||| old)
  ({ s with sb := { s.sb with state := 4, progress := s.rebuilt } } : State).raise .sb 2

/-- Parity is kept and not being computed for the first time. -/
def State.sbActive (s : State) : Bool := s.sb.en && s.sb.protChunks != 0 && s.sb.state != 0 && s.sb.state != 1

/-- The loss of logical site `l`, served by `p`, cannot be rebuilt (12 R371): it comes during a rebuild of another site,
or its group has no valid parity. -/
def State.beyondRebuild (s : State) (p l : Nat) : Bool :=
  if s.sb.state == 3 then s.sb.rebuildSite.toNat != p && s.related l else bitAt s.sb.unprot.toNat (s.groupOf l)

/-- What the Seedbank does once spare `q` serves logical site `l` in place of `p`, which failed at tick `t0`. DEDUCED, assumption 38. -/
def State.graftSeedbank (s : State) (p q l : Nat) (t0 : DWord) : State :=
  if !s.sbActive then s
  else if s.beyondRebuild p l then s.rebuildFails l
  else { s with sb := { s.sb with state := 3, rebuildSite := BitVec.ofNat 6 q, progress := 0, started := t0, began := s.tick } }

/-- The deltas of a lost site that no holder has taken are lost with their writes (12 R366); deltas that it had not taken
as a holder count as acknowledged: no parity is left to keep. -/
def State.loseHolder (s : State) (p : Nat) : State :=
  let s := { s with sites := s.sites.map (fun x : Nat × Site =>
    (x.1, { x.2 with deltas := x.2.deltas.filter (fun d => d.src.toNat != p) })) }
  let ds := (s.site p).deltas
  let s := ds.foldl (fun s d => s.modSite d.src.toNat (fun t => { t with
    writes := updFirst (fun w => w.sent && !w.acked && w.off == d.srcOff) (fun w => { w with acked := true }) t.writes })) s
  s.modSite p (fun t => { t with deltas := [], writes := [] })

/-- Commit a map in which spare `q` serves logical `l`, or nothing does (01 R22, R27, R31). -/
def State.commitMap (s : State) (p l : Nat) (q : Option Nat) : State :=
  let g := s.grid
  let g := { g with roles := sset (fun _ => Role.active) g.roles p .retired, logical := sset (fun _ => 0) g.logical p 0,
                    map := sset (fun _ => none) g.map l q, commitTick := s.tick }
  let g := match q with
    | some q => { g with roles := sset (fun _ => Role.active) g.roles q .active, logical := sset (fun _ => 0) g.logical q l, gen := g.gen + 1 }
    | none => g
  ({ s with grid := g } : State).rewriteRoutes

/-- SITE_GRAFT onto spare `q`. The spare's bed below the parity share is undefined until the rebuild ends (12 R370). -/
def State.graftOnto (s : State) (p l q : Nat) (t0 : DWord) : State :=
  let ctxs := (List.range 32).map (fun c => (c, (s.core (s.keyOf p c)).ctx))
  let s := (s.loseHolder p).commitMap p l (some q)
  let s := { s with cores := s.cores.filter (fun x => x.1 / 64 != p && x.1 / 64 != q) }
  let (n, s) := s.fresh 1
  let s := s.modSite q (fun t => { t with bed := t.bed.spoil 0 parityBase n, bedPoison := [], coreMap := t.healthyMap })
  let s := s.graftSeedbank p q l t0
  ctxs.foldl (fun s x => s.takeCore (s.keyOf q x.1) l x.1 x.2) s

/-- No spare is left (R455): the logical ID is absent, its contexts stop, the module reports itself failed in each
membership and enters hold. -/
def State.retireSite (s : State) (p l : Nat) : State :=
  let hit := (List.range 16).filter (fun n => (s.ctx n).st != .free && bitAt (s.ctx n).desc.sites.toNat l)
  let beyond := s.beyondRebuild p l || (s.sb.state == 3 && s.sb.rebuildSite.toNat == p)
  let s := (s.loseHolder p).commitMap p l none
  let s := { s with cores := s.cores.filter (fun x => x.1 / 64 != p) }
  let s := if !s.sbActive then s
    else if beyond then s.rebuildFails l
    else s.setUnprot (s.groupsOfSite l)
  let s := hit.foldl (fun s n => s.stopCtx n) s
  let s := (List.range 16).foldl (fun s n => match (s.ctx n).membership with
    | some m => s.reportFailed s.fab.addr m.epoch (m.place s.fab.addr).2 3
    | none => s) s
  s.enterHold

/-- SITE_GRAFT of a physical site. During a rebuild of an unrelated group it waits for its end (R460). DEDUCED, assumption 57. -/
def State.siteGraft (s : State) (p : Nat) (recOk : Bool) : State :=
  match s.graftTurn 2 p 0, s.logicalOf p with
  | some g, some l =>
    if s.sb.state == 3 && s.sb.rebuildSite.toNat != p && !s.related l then s
    else
      let q := s.nearestSpare p
      let s := (s.dropGraft g).flashRecord recOk (fun f => { f with record := f.record ++
        [{ phys := BitVec.ofNat 6 p, logical := some (BitVec.ofNat 6 l), spare := q.map (BitVec.ofNat 6) }] })
      match q with
      | some q => (s.graftOnto p l q g.tick).almGraft 2 p q (s.since g)
      | none => (s.retireSite p l).almGraft 2 p p (s.since g)
  | _, _ => s

def execSiteGraft (site : SiteNo) (recOk : Bool) (s : State) : Res := .next (s.siteGraft site.toNat recOk)

/-- SPARE_SITE_RETIRE (R512): no ID moves and the generation stays. A spare that a graft has put into service since its
fault is grafted as a site (R454). DEDUCED, assumption 57. -/
def State.retireSpare (s : State) (p : Nat) (recOk : Bool) : State :=
  match s.graftTurn 4 p 0 with
  | none => s
  | some g =>
    match s.role p with
    | .spare =>
      let s := ({ s with grid := { s.grid with roles := sset (fun _ => Role.active) s.grid.roles p .retired } } : State).rewriteRoutes
      let s := (s.dropGraft g).flashRecord recOk (fun f => { f with record := f.record ++
        [{ phys := BitVec.ofNat 6 p, logical := none, spare := none }] })
      s.almGraft 4 p p (s.since g)
    | .active => (s.dropGraft g).queueGraft { g with kind := 2 }
    | _ => s.dropGraft g

def execSpareSiteRetire (site : SiteNo) (recOk : Bool) (s : State) : Res := .next (s.retireSpare site.toNat recOk)

/-! ## Restarting a step (R452) -/

/-- The bits of a context leave the masks of HALT and of P4. DEDUCED, assumption 25. -/
def State.released (s : State) (n : Nat) : State :=
  let off (m : Half) : Half := setBit m n false
  { s with gis := { s.gis with halted := off s.gis.halted, inForce := off s.gis.inForce },
           pwr := { s.pwr with redo := off s.pwr.redo } }

/-- Cores of a context that lost their IMEM get it back. DEDUCED, assumption 25. -/
def State.reload (s : State) (n : Nat) : State :=
  let gs := s.gis.grafts.filter (fun g => g.kind == 5 && bitAt g.mask.toNat n)
  gs.foldl (fun s g => ((s.replay (s.keyOf g.site g.core) ((s.logicalOf g.site).getD 0) g.core).dropGraft g).almGraft 5
    (s.keyOf g.site g.core) (s.keyOf g.site g.core) (s.since g)) s

/-- Whether a halted context can be restarted: every graft that its HALT waits for has run, the rebuild has ended, and
after P4 the module is at P1 or better (16 R478). -/
def State.restartReady (s : State) (n : Nat) : Bool :=
  (bitAt s.gis.halted.toNat n || (bitAt s.pwr.redo.toNat n && decide (s.pwr.level ≤ 1)))
    && !s.gis.grafts.any (fun g => g.kind != 5 && bitAt g.mask.toNat n) && s.gis.arrive.isEmpty && s.sb.state != 3

/-- STEP_RESTART of a context: an aborted step begins again with its number and σ; after a commit only its cores
start again (R450); a step whose decision is still out waits. The STEP entry of a stopped context ends with status 2. DEDUCED, assumption 25. -/
def State.stepRestart (s : State) (n : Nat) : State :=
  if !s.restartReady n then s
  else match (s.ctx n).entries.find? (fun e => e.kind == 3 && e.started && !e.finished && e.index == (s.srec n).entry), (s.ctx n).policy with
    | some e, some p =>
      if (s.ctx n).st != .running then (if (s.ctx n).st == .stopped then ((s.reload n).released n).finishStep n e.index 2 else s)
      else if (s.srec n).phase == 6 then ((s.reload n).beginStep n e p).released n
      else if (s.srec n).phase == 4 then
        let s := s.reload n
        ((s.writeHeaders (s.ctxCores n) p { s.srec n with sigma := (s.srec n).used }).startCores n e).released n
      else if (s.srec n).open_ then s
      else (s.reload n).released n
    | _, _ => (s.reload n).released n

def execStepRestart (ctx : BitVec 4) (s : State) : Res := .next (s.stepRestart ctx.toNat)

/-! ## Halves of an I/O die (R458) -/

/-- Buckets that move to a die: 64 run on it at once, the rest wait in front (10 R306). -/
def TrDie.takeBuckets (t : TrDie) (running : List Bucket) (waiting : List (BitVec 12)) : TrDie :=
  let all := t.running ++ running
  { t with running := all.take 64, pendingTags := (all.drop 64).map Bucket.tag ++ t.pendingTags ++ waiting }

/-- HALF_FAIL: the other half carries on; with both halves lost the die's buckets move to the next die that has a live
half. DEDUCED, assumption 59. -/
def State.halfFail (s : State) (x : Nat) (half : Bool) : State :=
  if bitAt (s.xd x).halves.toNat (bit half) then s
  else
    let s := (s.modXd x (fun d => { d with halves := setBit d.halves (bit half) true })).raise (.xdl x) 0
    if (s.xd x).halves != 3 then s
    else
      let y := s.dieOf x
      if y == x then s
      else
        let d := (s.xd x).tr
        let s := s.modTr x (fun t => { t with running := [], pendingTags := [] })
        let s := s.modTr y (fun t => t.takeBuckets d.running d.pendingTags)
        s.raise (.xdl x) 3

def execHalfFail (xd : BitVec 2) (half : Bool) (s : State) : Res := .next (s.halfFail xd.toNat half)

/-! ## Host harts (R459; 13 R385) -/

/-- The physical hart of a hart ID. -/
def HostCl.physOf (h : HostCl) (id : Nat) : Nat := sget (fun n => if n < 8 then n else n + 1) h.harts id

/-- The spare hart of a half: 8 or 17. -/
def spareHart (upper : Bool) : Nat := if upper then 17 else 8

def HostCl.spareFree (h : HostCl) (n : Nat) : Bool := !bitAt h.inService.toNat n && !bitAt h.failedHarts.toNat n

/-- The spare that takes a failed hart's place. DEDUCED, assumption 59. -/
def HostCl.spareFor (h : HostCl) (n : Nat) : Option Nat :=
  let up := decide (n ≥ 9)
  [spareHart up, spareHart (!up)].find? h.spareFree

/-- HART_GRAFT of a physical hart: its spare takes its hart ID, and starts at the boot record's restart vector with a0 the hart
ID. DEDUCED, assumption 59. -/
def State.hartGraft (s : State) (n : Nat) : State :=
  let h := s.host
  if !bitAt h.inService.toNat n then s
  else
    let sp := h.spareFor n
    let id := (List.range 16).find? (fun i => h.physOf i == n)
    let h := { h with inService := setBit h.inService n false, failedHarts := setBit h.failedHarts n true }
    let h := match sp, id with
      | some q, some i => { h with
          inService := setBit h.inService q true, harts := sset (fun n => if n < 8 then n else n + 1) h.harts i q,
          starts := sset (fun _ => none) h.starts i (some ((h.boot.map BootRec.restart).getD 0, i)) }
      | _, _ => h
    ({ s with host := h } : State).raise .hc 0

def execHartGraft (hart : BitVec 5) (s : State) : Res := .next (s.hartGraft hart.toNat)

end Sys2Proof.Machine
end

