-- ==== Sys2Proof/Machine/Power.lean ====
section
/-! DEFINITION. Power, clocks, temperature, reset and start-up (16). -/

namespace Sys2Proof.Machine

/-! ## Off (R480, R485, R486) -/

/-- A GDDR7 controller at reset with the failures of its devices, which return to service only with a new module (12 R375). -/
def Mc.failedOnly (m : Mc) : Mc := { Mc.init with devFailed := m.devFailed, doubleFault := m.doubleFault }

/-- The module with its domains off, at the reset values it will start from: what outlasts a loss of power are the
part, its fuses, the boot flash and failed GDDR7 devices; the input pins and V_in are the baseboard's. SYNC_OUT is low
and THERM_N released (17 R495), but for THERM_N after crit (R481). DEDUCED, assumption 62. -/
def State.powerOff (s : State) : State :=
  let c := State.coldFrom s.part s.flash s.freeCtr
  let old := s
  let s := (List.range 4).foldl (fun (t : State) x => t.modMc x (fun _ => (old.xd x).mc.failedOnly)) c
  { s with
    sec := { c.sec with owners := old.sec.owners, svnS1 := old.sec.svnS1, svnLd := old.sec.svnLd, svnOrr := old.sec.svnOrr },
    pwr := { c.pwr with off := true, vin := old.pwr.vin },
    clk := { c.clk with locked := false, refclk := old.clk.refclk },
    therm := { c.therm with thermN := !old.therm.critical, critical := old.therm.critical },
    pins := { old.pins with syncOut := false }, outbox := old.outbox, pending := old.pending }

/-- The orderly off of P5 begins: its Almanac entry is written (R480). DEDUCED, assumption 60. -/
def State.goOff (s : State) : State :=
  if s.pwr.off || s.pwr.level == 5 then s
  else
    let s := s.modPwr (fun p => { p with level := 5 })
    s.almanac 0x02 .urgent none (originOc s.orr.lead.toNat) (leBytes 8 (s.leafAddr .pwr) ++ leBytes 8 s.pwr.cause.toNat)

/-- ORDERLY_OFF: every domain is off. DEDUCED, assumption 60. -/
def execOrderlyOff (s : State) : Res := .next (if s.pwr.level == 5 then s.powerOff else s)

/-! ## The pruning order (R476–R479) -/

/-- Entry thresholds of P1–P5 and leave values of P1–P4, in units of 10 mV. -/
def enterAt : List Nat := [4450, 4200, 4000, 3800, 3600]
def leaveAt : List Nat := [4550, 4300, 4100, 3900]

/-- P4: the step of every running context is aborted by fault and a running START ends; the sites go to retain and the
state of their cores is lost (R478). -/
def State.enterP4 (s : State) : State :=
  let mask := s.maskRunning
  let s := s.modPwr (fun p => { p with redo := p.redo ||| mask })
  let s := (onesOf 16 mask.toNat).foldl (fun s n => s.haltCtx n) s
  let s := s.modGis (fun g => { g with arrive := [] })
  { s with cores := s.cores.map (fun x : Nat × Core => (x.1, { Core.init with
      ctx := x.2.ctx, me := { Me.init with colfail := x.2.me.colfail, test := x.2.me.test } })) }

/-- Enter the next level, whose actions are added to those of the levels below. -/
def State.enterLevel (s : State) : State :=
  let n := s.pwr.level.toNat + 1
  if n ≥ 5 then (s.raise .pwr 0).goOff
  else
    let s := s.modPwr (fun p => { p with level := BitVec.ofNat 3 n, levelCnt := p.levelCnt + 1 })
    let s := match n with
      | 2 => s.emit (.held s.fab.addr true)
      | 3 => ({ s with cores := s.cores.map (fun x : Nat × Core => (x.1, { x.2 with me := { x.2.me with finishing := x.2.me.ready } })), fab := { s.fab with widen := false } } : State).prunePorts true
      | 4 => s.enterP4
      | _ => s
    s.raise .pwr 0

/-- Enter every level whose threshold two consecutive samples are below, each in turn. -/
def State.enterLevels (s : State) (v : Nat) : Nat → State
  | 0 => s
  | f + 1 =>
    match enterAt[s.pwr.level.toNat]? with
    | some t => if v < t then s.enterLevel.enterLevels v f else s
    | none => s

/-- The pruning order applies from the release of hart 0, and through a warm reset. DEDUCED, assumption 60. -/
def State.powered (s : State) : Bool := !s.pwr.off && (s.host.hart0 || s.warm = .resetting)

/-- Start-up is under way: a cold start that has not released hart 0. It goes on only while V_in is 46.0 V or more and
REFCLK is present; else every domain is switched off (R470). DEDUCED, assumption 60. -/
def State.starting (s : State) : Bool := !s.pwr.off && !s.host.hart0 && s.warm != .resetting

/-- A periodic measurement falls due: none was made, or the last is a period ago. -/
def sampleDue (last : Option DWord) (period : Nat) (now : DWord) : Bool :=
  match last with
  | some t => decide (t.toNat + period ≤ now.toNat)
  | none => true

/-- VIN_SAMPLE, every 94 ticks: a sample in units of 10 mV. DEDUCED, assumption 60. -/
def State.vinSample (s : State) (v : Half) : State :=
  if !sampleDue s.pwr.vinAt 94 s.tick then s else
  let worst := max v.toNat s.pwr.vin.toNat
  let keep (old : Option DWord) (b : Bool) : Option DWord := if b then some (old.getD s.tick) else none
  let s := s.modPwr (fun p => { p with
    vin := v, vinAt := some s.tick, overSince := keep p.overSince (decide (v.toNat > 5900)),
    aboveSince := List.zipWith (fun (t : Nat) (old : Option DWord) => keep old (decide (v.toNat ≥ t))) leaveAt p.aboveSince })
  if s.powered then s.enterLevels worst 5 else if s.starting && decide (v.toNat < 4600) then s.powerOff else s

def execVinSample (v : Half) (s : State) : Res := .next (s.vinSample v)

/-- OVERVOLTAGE: V_in has been above 59 V for 940 ticks (R469). -/
def State.overvoltage (s : State) : State :=
  match s.pwr.overSince with
  | some t => if !s.pwr.off && decide (s.tick.toNat ≥ t.toNat + 940) then (s.raise .pwr 2).goOff else s
  | none => s

def execOvervoltage (s : State) : Res := .next s.overvoltage

/-! ## Warm reset (R487) -/

/-- A port after a warm reset: one that is down, or narrowed for good, stays so until a cold reset (11 R333). -/
def Port.afterWarm (q : Port) : Port :=
  let keep (l : Lanes) : Lanes := if l.narrow || l.down then l else Lanes.init
  { Port.init with state := if q.state == 5 then 5 else 0, tx := keep q.tx, rx := keep q.rx }

/-- Steps 1–4: HALT and abort, erasure, retain and self-refresh, reset of the orrery and the host cluster. DEDUCED, assumption 62. -/
def State.warmGo (s : State) : State :=
  let s := s.haltGo s.maskRunning 0
  let s := ((List.range 16).filter s.sealedNow).foldl (fun s n => s.eraseCtx n) s
  let init := State.coldFrom s.part s.flash s.freeCtr
  { s with
    ctxs := [], notices := [], trellis := Trellis.init, fab := Fab.init, orr := Orr.init, warmLast := true, warm := .resetting,
    cores := s.cores.map (fun x : Nat × Core => (x.1, { Core.init with me := { Me.init with colfail := x.2.me.colfail, test := x.2.me.test } })),
    ports := (s.ports.map (fun x : Nat × Port => (x.1, x.2.afterWarm))).filter (fun x => x.2 != Port.init),
    xds := (List.range 4).foldl (fun m x => sset (fun _ => Xd.init) m x
      { s.xd x with tr := TrDie.init, fab := FabDie.init, mc := { (s.xd x).mc with selfRefresh := true } }) s.xds,
    gddr := { s.gddr with slots := s.gddr.slots.filter (fun x => x.1 == 0), regions := [] },
    host := { HostCl.init with inService := s.host.inService, harts := s.host.harts, failedHarts := s.host.failedHarts },
    sec := { s.sec with seals := [], ch0 := SecChan.init, ch1 := SecChan.init, importPos := 0 },
    gis := { s.gis with halted := 0, inForce := 0, arrive := [] },
    pwr := { s.pwr with redo := 0 },
    pins := { s.pins with syncOut := init.pins.syncOut } }

/-- SYS_RST (R487): only a host hart, with the key; at P3 or worse the reset waits for P2. DEDUCED, assumption 62. -/
def State.sysRst (s : State) (req : Requester) (v : DWord) : State :=
  if fld v.toNat 0 8 != 0xA5 || !bitAt v.toNat 8 || s.warm != .idle then s
  else match req with
    | .host => if s.pwr.level ≥ 3 then { s with warm := .waiting } else s.warmGo
    | _ => s

def execSysRst (req : Requester) (value : DWord) (s : State) : Res := .next (s.sysRst req value)

/-! ## Leaving a level -/

/-- Undo what a level did. -/
def State.undoLevel (s : State) (n : Nat) : State :=
  match n with
  | 2 => if s.orr.hold then s else s.emit (.held s.fab.addr false)
  | 3 =>
    let s := ({ s with cores := s.cores.map (fun x : Nat × Core => (x.1, { x.2 with me := { x.2.me with finishing := false } })), fab := { s.fab with widen := true } } : State)
    let s := if (List.range 16).all (fun n => (s.ctx n).atEnd) then s.stepBoundary else s
    if s.warm = .waiting then s.warmGo else s
  | 4 => (onesOf 16 s.pwr.redo.toNat).foldl (fun s n =>
      (((s.ctxCores n).filter (fun x => (s.core x.2.2).ctx == some (BitVec.ofNat 4 n)))).foldl (fun s x => s.replay x.2.2 x.1 x.2.1) s) s
  | _ => s

/-- PRUNE_LEVEL_EXIT: in the level, V_in has stayed at or above its leave value for 94,000 ticks; the timers start anew
at each exit, so that one level is left at a time. DEDUCED, assumption 60. -/
def State.leaveLevel (s : State) : State :=
  let n := s.pwr.level.toNat
  match (s.pwr.aboveSince[n - 1]?).join with
  | some t =>
    if n == 0 || n ≥ 5 || !s.powered || decide (s.tick.toNat < t.toNat + 94000) then s
    else
      ((s.modPwr (fun p => { p with
        level := BitVec.ofNat 3 (n - 1), aboveSince := p.aboveSince.map (Option.map (fun _ => s.tick)) })).undoLevel n).raise .pwr 1
  | none => s

def execPruneLevelExit (s : State) : Res := .next s.leaveLevel

/-- GDDR7_IDLE_SELF_REFRESH: in P4 no request has been pending for 94 ticks (R478). -/
def execGddr7IdleSelfRefresh (xd : BitVec 2) (s : State) : Res :=
  .next (if s.pwr.level == 4 then s.modMc xd.toNat (fun m => { m with selfRefresh := true }) else s)

/-! ## The governor (R474) -/

/-- The 10 µs average of up to ten 1 µs samples. DEDUCED, assumption 61. -/
def avg10 (h : List Nat) : Nat := h.sum / 10

/-- GOVERNOR_TICK, every 940 ticks: the input power of the last 940 ticks. DEDUCED, assumption 61. -/
def State.governorTick (s : State) (watts : Half) : State :=
  if !sampleDue s.pwr.govAt 940 s.tick then s else
  let p := s.pwr
  let cap := p.cap.toNat
  let hist := (watts.toNat :: p.hist).take 10
  let avg := avg10 hist
  let again := decide (avg10 p.hist ≤ cap) || decide (s.tick.toNat ≥ p.govLow.toNat + 1880)
  let s := s.modPwr (fun p => { p with p1 := watts, govAt := some s.tick, hist := hist, belowCap := if avg + 1000 < cap then p.belowCap + 1 else 0 })
  if avg > cap then
    if again && decide (p.govCap.toNat > 1) then (s.modPwr (fun p => { p with govCap := p.govCap - 1, govLow := s.tick })).raise .pwr 5 else s
  else if s.pwr.belowCap ≥ 10 && decide (p.govCap.toNat < 8) then s.modPwr (fun p => { p with govCap := p.govCap + 1, belowCap := 0 })
  else s

def execGovernorTick (watts : Half) (s : State) : Res := .next (s.governorTick watts)

/-! ## Phases (R473) -/

/-- PHASE_RETIRE of a power domain. -/
def State.phaseRetire (s : State) (d : Nat) : State :=
  if d ≥ 80 || s.pd d = .off then s
  else
    let n := sget (fun _ => 0) s.pwr.phases d + 1
    let s := s.modPwr (fun p => { p with
      phases := sset (fun _ => 0) p.phases d n, phaseCnt := p.phaseCnt + 1, phaseDom := BitVec.ofNat 7 d })
    let s := s.raise .pwr 3
    if n != 2 then s
    else if d < 64 then s.raiseSite d 4 0 0
    else (s.raise .pwr 4).goOff

def execPhaseRetire (domain : BitVec 7) (s : State) : Res := .next (s.phaseRetire domain.toNat)

/-! ## Temperature (R481) -/

def Therm.temp (t : Therm) (n : Nat) : Byte := sget (fun _ => 0) t.temps n

/-- THERMAL_SAMPLE, every 9,400 ticks a sensor: sensors 0–63 of the sites, 64–67 of the I/O dies. -/
def State.thermalSample (s : State) (n : Nat) (c : Byte) : State :=
  if n ≥ 68 || s.pwr.off || !sampleDue (sget (fun _ => none) s.therm.sampled n) 9400 s.tick then s
  else
    let s := { s with therm := { s.therm with
      temps := sset (fun _ => 0) s.therm.temps n c, sampled := sset (fun _ => none) s.therm.sampled n (some s.tick) } }
    let s := if s.therm.warnC ≤ c then s.raise .therm 0 else s
    let s := if s.therm.throttleC ≤ c then
      ({ s with therm := { s.therm with thermN := false } } : State).raise .therm 1 else s
    if 110 ≤ c then
      (({ s with therm := { s.therm with thermN := false, critical := true } } : State).raise .therm 2).goOff
    else s

def execThermalSample (sensor : BitVec 7) (celsius : Byte) (s : State) : Res := .next (s.thermalSample sensor.toNat celsius)

/-- THROTTLE_STEP: every 94,000 ticks the thermal cap falls while a sensor is at throttle, and rises once all are 5 °C
below it; THERM_N is then released, but never after crit. DEDUCED, assumption 61. -/
def State.throttleStep (s : State) : State :=
  if s.tick.toNat < s.therm.lastStep.toNat + 94000 then s
  else
    let t := s.therm
    let hot := (List.range 68).any (fun n => t.throttleC ≤ t.temp n)
    let cool := (List.range 68).all (fun n => decide ((t.temp n).toNat + 5 ≤ t.throttleC.toNat))
    let s := { s with therm := { t with lastStep := s.tick } }
    if hot then s.modPwr (fun p => { p with thermCap := if p.thermCap == 0 then 0 else p.thermCap - 1 })
    else if cool then
      let s := s.modPwr (fun p => { p with thermCap := if p.thermCap.toNat < 8 then p.thermCap + 1 else p.thermCap })
      { s with therm := { s.therm with thermN := !s.therm.critical } }
    else s

def execThrottleStep (s : State) : Res := .next s.throttleStep

/-! ## Clocks (R483) -/

/-- 10 ms of holdover. -/
def holdoverMax : Nat := 9400000

/-- REFCLK_LOSS: the PLLs enter holdover; before the release of hart 0 start-up is given up (R470). -/
def State.refclkLoss (s : State) : State :=
  if !s.clk.refclk then s
  else if s.pwr.off then { s with clk := { s.clk with refclk := false } }
  else if s.starting then ({ s with clk := { s.clk with refclk := false } } : State).powerOff
  else ({ s with clk := { s.clk with refclk := false, holdover := true, holdStart := s.tick, holdTicks := 0 } } : State).raise .clk 0

def execRefclkLoss (s : State) : Res := .next s.refclkLoss

/-- CLK_STAT.holdover_ticks. -/
def State.holdTicks (s : State) : Word := if s.clk.holdover then (s.tick - s.clk.holdStart).setWidth 32 else s.clk.holdTicks

/-- REFCLK_RETURN within 10 ms: the PLLs relock and no unit stops. -/
def State.refclkReturn (s : State) : State :=
  if s.clk.refclk then s
  else if s.pwr.off then { s with clk := { s.clk with refclk := true } }
  else if !s.clk.holdover || decide (s.tick.toNat ≥ s.clk.holdStart.toNat + holdoverMax) then s
  else ({ s with clk := { s.clk with refclk := true, holdover := false, holdTicks := s.holdTicks } } : State).raise .clk 1

def execRefclkReturn (s : State) : Res := .next s.refclkReturn

/-- HOLDOVER_EXPIRY: REFCLK has been absent for 10 ms. -/
def execHoldoverExpiry (s : State) : Res :=
  .next (if s.clk.holdover && decide (s.tick.toNat ≥ s.clk.holdStart.toNat + holdoverMax) then s.goOff else s)

/-- PLL_UNLOCK: the root PLL loses lock. -/
def execPllUnlock (s : State) : Res :=
  .next (if s.pwr.off then s else (({ s with clk := { s.clk with locked := false } } : State).raise .clk 2).goOff)

/-- SERDES_PLL: the port of the PLL is down (11 R333). -/
def execSerdesPll (port : BitVec 4) (s : State) : Res :=
  .next (if s.pwr.off then s else (s.raise .clk 3).portDown port.toNat)

/-! ## Cold reset and loss of power good (R470, R486, 17 R498) -/

/-- RST_N low for some ticks: 9,400 or more make a cold reset, fewer than 940 nothing; between the two which of the two
is not determined (R486). DESIGN CHOICE, assumption 63. -/
def State.rstN (s : State) (low : Nat) : State :=
  if low < 940 then s
  else
    let (n, s) := s.fresh 1
    if low ≥ 9400 || Config.freeWord 1 n == 1 then
      let s := s.powerOff
      { s with pins := { s.pins with rstN := false } }
    else s

def execRstN (lowTicks : Nat) (s : State) : Res := .next (s.rstN lowTicks)

/-- PWRGD_FALL for at least 1 µs: after the release of hart 0 the orderly off, before it start-up is given up (R470). A
warm reset is no start after a cold reset. DEDUCED, assumption 60. -/
def State.pwrgdFall (s : State) : State :=
  let s := { s with pins := { s.pins with pwrgd := false } }
  if s.host.hart0 || s.warm = .resetting then s.goOff else s.powerOff

def execPwrgdFall (s : State) : Res := .next s.pwrgdFall

/-! ## Start-up (R470, R488, R489) -/

/-- A stage-1 image (fmt 2, component 4) or OS loader (fmt 3, component 5) is well formed (14 R425). -/
def bootHeaderOk (fmt comp : Nat) (b : List Byte) : Bool :=
  let len := bfld b 8 4
  let c := imgComp b 0
  [bfld b 0 4 == 0x4C59524F, bfld b 4 2 == fmt, bfld b 6 2 == 1, decide (8256 ≤ len), decide (len ≤ 16 * mib), len % 64 == 0,
   zeroIn b 16 24, zeroIn b 28 64, zeroIn b 160 4096, c.1 == comp, zeroIn b 129 132, zeroIn b 144 160,
   decide (8192 ≤ c.2.1), decide (c.2.1 + c.2.2 ≤ len), decide (bfld b 4096 2 ≤ 2046), decide (bfld b 6144 2 ≤ 2046)].all id

/-- The signatures and svn of 14 R425. -/
def State.bootSigned (s : State) (loader : Bool) (b : List Byte) : Bool :=
  let d := cut b 64 64
  let svn := bfld b 24 4
  let root := Config.falconVerify Config.rootKey d (cut b 4098 (bfld b 4096 2))
  let own (o : Owner) : Bool := Config.falconVerify o.key d (cut b 6146 (bfld b 6144 2))
  let byOwner := (s.sec.owner.map own).getD false
  let cosign := (s.sec.owner.map Owner.cosign).getD false
  (root || (loader && byOwner)) && (!cosign || byOwner) && decide (svn ≤ 63) && decide ((if loader then s.sec.svnLd else s.sec.svnS1) ≤ svn)

/-- A boot slot can be run. -/
def State.bootOk (s : State) (loader : Bool) (i : Option Image) : Bool :=
  match i with
  | some m => bootHeaderOk (if loader then 3 else 2) (if loader then 5 else 4) m.bytes && imgDigest m.bytes == cut m.bytes 64 64
      && s.bootSigned loader m.bytes
  | none => false

/-- The slot to run: the selected one, else the other (14 R426). A slot whose signature does not verify sets
sig_fail. -/
def State.bootSlot (s : State) (loader sel : Bool) (a b : Option Image) : Option (Bool × Image) :=
  let get (x : Bool) : Option Image := if x then b else a
  if s.bootOk loader (get sel) then (get sel).map (fun m => (sel, m))
  else if s.bootOk loader (get (!sel)) then (get (!sel)).map (fun m => (!sel, m))
  else none

/-- No slot can be run: boot stops in the ROM loader (14 R426), with an Almanac entry (R489). -/
def State.bootFail (s : State) : State :=
  let s := (s.raiseSec 2 0 0).raiseSec 4 0 0
  s.almanac 0x02 .urgent none (originOc s.orr.lead.toNat) (leBytes 8 (s.leafAddr .sec) ++ leBytes 8 s.sec.cause.toNat)

/-- Row 3: stage-1. -/
def State.bootStage1 (s : State) : Option State :=
  (s.bootSlot false s.flash.s1Sel s.flash.s1A s.flash.s1B).map (fun x =>
    let s := if x.1 != s.flash.s1Sel then s.raiseSec 2 0 0 else s
    s.modSec (fun c => { (c.extendM 1 (cut x.2.bytes 64 64)) with bootS1 := x.1, runS1 := bfld x.2.bytes 24 4 }))

/-- What stage-1 hands to hart 0 (13 R389), the loader standing at `at_`: its entry point is an offset into the component.
The restart vector it names is open. DEDUCED, assumption 64. -/
def State.bootRec (s : State) (img : List Byte) (at_ a1 : Nat) (restart : DWord) : BootRec :=
  { entry := at_ + bfld img 140 4, a0 := 0, a1 := a1, partId := s.part.id.toNat, gen := s.grid.gen.toNat, map := s.grid.map,
    hostBase := s.flash.hostBase, hostGib := s.flash.hostGib, restart := restart }

/-- Rows 7 and 8: the loader is measured and copied to the host memory region, the boot record placed there, both at
offsets that the manual does not give, and hart 0 is released. The record's layout is not given either: a page that is
undefined. DEDUCED, assumption 64. -/
def State.bootLoader (s : State) : Option State :=
  (s.bootSlot true s.flash.ldSel s.flash.ldA s.flash.ldB).map (fun x =>
    let s := if x.1 != s.flash.ldSel then s.raiseSec 2 0 0 else s
    let s := s.modSec (fun c => { (c.extendM 2 (cut x.2.bytes 64 64)) with bootLd := x.1, runLd := bfld x.2.bytes 24 4 })
    let c := imgComp x.2.bytes 0
    let (n, s) := s.fresh 1
    let room := s.flash.hostGib * 2 ^ 30 - c.2.2
    let at_ := s.flash.hostBase + (Config.freeWord 36 n).toNat % room
    let (m, s) := s.fresh 3
    let a1 := s.flash.hostBase + (Config.freeWord 36 m).toNat % (s.flash.hostGib * 2 ^ 18) * 4096
    let s := s.gddrFill a1 (a1 + 4096) [{ event := m + 1, shift := 0 }]
    let s := s.writeNow .security none at_ (cut x.2.bytes c.2.1 c.2.2)
    let s := (s.almFw 6 (BitVec.ofNat 32 s.sec.runS1)).almFw 7 (BitVec.ofNat 32 s.sec.runLd)
    { s with host := { s.host with hart0 := true, boot := some (s.bootRec x.2.bytes at_ a1 (Config.freeWord 64 (m + 2))) } })

/-- Every device of a controller is trained at a tick, at the rate of MC_CTL (12 R376, R384). -/
def Mc.trained (m : Mc) (now : DWord) : Mc :=
  { m with
    rateActive := m.rate, selfRefresh := false,
    devs := (List.range 13).foldl (fun l c => sset (fun _ => Device.init) l c
      { sget (fun _ => Device.init) l c with lastTrain := now, hot := none }) m.devs }

/-- Row 4: every device is trained at the rate of MC_CTL; those that fail are declared failed, at no module address, so that
of MC_ERR_INFO is open (assumption 21). -/
def State.trainAll (s : State) (bad : List (Nat × Nat)) : State :=
  let s := (List.range 4).foldl (fun s x => s.modMc x (fun m => m.trained s.tick)) s
  let (n, s) := s.fresh 1
  (bad.filter (fun d => decide (d.1 < 4 ∧ d.2 < 13))).foldl (fun s d => s.devFail d.1 d.2 (Config.freeWord 40 n).toNat) s

/-- Two devices of one die have failed: start-up stops (R489). -/
def State.trainStops (s : State) : Bool := (List.range 4).any (fun x => (s.xd x).mc.doubleFault)

/-- Row 5: a site that fails its power-on check is retired, and the spare that 01 R26 chooses takes its ID. DEDUCED, assumption 64. -/
def State.bootRetire (recOk : Bool) (s : State) (p : Nat) : State :=
  let r : Option Retired := match s.role p with
    | .active => (s.logicalOf p).map (fun l =>
        { phys := BitVec.ofNat 6 p, logical := some (BitVec.ofNat 6 l), spare := (s.nearestSpare p).map (BitVec.ofNat 6) })
    | .spare => some { phys := BitVec.ofNat 6 p, logical := none, spare := none }
    | _ => none
  match r with
  | some r =>
    let s := ({ s with grid := s.grid.applyRetired r } : State).flashRecord recOk (fun f => { f with record := f.record ++ [r] })
    s.almGraft (if r.logical.isSome then 2 else 4) p ((r.spare.map BitVec.toNat).getD p) 0
  | none => s

/-- The columns of a core that have failed by the record or by the self-test of row 6. -/
def State.bootCols (s : State) (cols : List (Nat × BitVec 130)) (k : Nat) : BitVec 130 :=
  (s.core k).me.colfail ||| ((cols.find? (fun x => x.1 == k)).map Prod.snd).getD 0

/-- The physical cores of a site that the self-test adds to the failed ones: 11 failed columns (03 R70). -/
def State.bootBadCores (s : State) (cols : List (Nat × BitVec 130)) (p : Nat) : List Nat :=
  (List.range 34).filter (fun c => !bitAt (s.site p).failed.toNat c && decide ((onesOf 130 (s.bootCols cols (64 * p + c)).toNat).length ≥ 11))

/-- The site has fewer than 32 cores left: it goes as a site (15 R456). -/
def State.bootWeak (s : State) (cols : List (Nat × BitVec 130)) (p : Nat) : Bool :=
  decide (s.role p = .active) && decide ((onesOf 34 (s.site p).failed.toNat).length + (s.bootBadCores cols p).length > 2)

/-- Retire site after site while one is left with too few cores: at most one round a site. -/
def State.bootWeakSites (s : State) (cols : List (Nat × BitVec 130)) (recOk : Bool) : Nat → State
  | 0 => s
  | f + 1 => match (List.range 64).find? (s.bootWeak cols) with
    | some p => (State.bootRetire recOk s p).bootWeakSites cols recOk f
    | none => s

/-- Row 6: the self-test of every core of the active sites, in broadcast mode, whose failed columns join the recorded
ones; a core with 11 failed columns is retired, and a site left with fewer than 32 cores too; boot flash records them
(03 R70, 13 R388, 15 R456). DEDUCED, assumption 64. -/
def State.bootSelftest (s : State) (cols : List (Nat × BitVec 130)) (recOk : Bool) : State :=
  let s := s.bootWeakSites cols recOk 64
  let ps := (List.range 64).filter (fun p => decide (s.role p = .active))
  let bad := ps.flatMap (fun p => (s.bootBadCores cols p).map (fun c => (p, c)))
  let new := ps.flatMap (fun p => ((List.range 34).map (fun c => 64 * p + c)).filterMap (fun k =>
    if s.bootCols cols k != (s.core k).me.colfail then some (k, s.bootCols cols k) else none))
  let s := if bad.isEmpty && new.isEmpty then s
    else s.flashRecord recOk (fun f => { f with coreRecord := f.coreRecord ++ bad, colRecord := f.colRecord ++ new })
  let s := bad.foldl (fun s x => s.modSite x.1 (fun t => t.failCore x.2)) s
  { s with cores := ps.flatMap (fun p => (List.range 34).map (fun c =>
      let k := 64 * p + c
      let x := s.core k
      let all := s.bootCols cols k
      (k, { x with me := { x.me with
        test := ((cols.find? (fun x => x.1 == k)).map Prod.snd).getD 0, colfail := all, bcastReq := false, bcastActive := false,
        cause := if (all &&& ~~~x.me.colfail) != 0 then setBit x.me.cause meColFail true else x.me.cause } }))) }

/-- Rows 6 to 8. DEDUCED, assumption 64. -/
def State.bootEnd (s : State) (cols : List (Nat × BitVec 130)) (recOk : Bool) : State :=
  let s := s.bootSelftest cols recOk
  match s.bootLoader with
  | some t => t
  | none => s.bootFail

/-- The rows of a cold start, from the reset values of everything. DEDUCED, assumption 62. -/
def State.bootCold (s : State) (badSites : List Nat) (badDevs : List (Nat × Nat)) (cols : List (Nat × BitVec 130)) (recOk : Bool) : State :=
  let v := s.pwr.vin
  let s := s.powerOff
  let s := { s with
    pwr := { s.pwr with off := false, vin := v }, clk := { s.clk with locked := true },
    therm := { s.therm with thermN := true, critical := false }, pins := { s.pins with rstN := true, pwrgd := true },
    sec := (s.sec.extendM 0 Config.romDigest).touchM6 }
  match s.bootStage1 with
  | none => s.bootFail
  | some s =>
    let s := s.trainAll badDevs
    if s.trainStops then s else ((badSites.filter (fun p => decide (p < 64))).foldl (State.bootRetire recOk) s).bootEnd cols recOk

/-- The end of a warm reset (R487 steps 5 and 6): GDDR7 retrained, the sites on. DEDUCED, assumption 62. -/
def State.bootWarm (s : State) (badDevs : List (Nat × Nat)) (cols : List (Nat × BitVec 130)) (recOk : Bool) : State :=
  let s := { s with warm := .idle }
  let s := s.trainAll badDevs
  if s.trainStops then s else s.bootEnd cols recOk

/-- COLD_START: with V_in at 46.0 V or more and REFCLK present, PWRGD and RST_N high being what the row stands for, the
module starts; after a SYS_RST it runs the warm form. DESIGN CHOICE, assumption 1. -/
def execColdStart (badSites : List Nat) (badDevs : List (Nat × Nat)) (cols : List (Nat × BitVec 130)) (recOk : Bool) (s : State) : Res :=
  .next (if s.warm = .resetting && !s.pwr.off then s.bootWarm badDevs cols recOk
    else if s.host.hart0 || decide (s.pwr.vin.toNat < 4600) || !s.clk.refclk then s
    else s.bootCold badSites badDevs cols recOk)

end Sys2Proof.Machine
end

