-- ==== Sys2Proof/Machine/Regs.lean ====
section
/-! DEFINITION. What a read of each register returns, by its address (00 R12, R13; the register tables of 00–16). -/

namespace Sys2Proof.Machine

/-! ## Reads: per-core registers -/

/-- A register of the ME block (03 R96–R100). -/
def State.meRead (s : State) (k off : Nat) : Nat :=
  let m := (s.core k).me
  match off with
  | 0x000 => pack [(bit m.bcastReq, 0), (bit m.chkEn, 1), (m.tolExp.toNat, 4)]
  | 0x008 => pack [(m.width, 0), (bit m.chkActive, 8), (bit m.bcastActive, 9), (bit m.idle, 10), (m.level.toNat, 12), (s.meCap k, 16),
      (m.queue.length, 20), (m.pinned.toNat, 32), (m.sealedT.toNat, 48)]
  | 0x010 => m.cause.toNat
  | 0x018 => m.causeMask.toNat
  | 0x020 => m.chkInfo.toNat
  | 0x028 => fld m.colfail.toNat 0 64
  | 0x030 => fld m.colfail.toNat 64 64
  | 0x038 => fld m.colfail.toNat 128 2
  | 0x040 => fld m.test.toNat 0 64
  | 0x048 => fld m.test.toNat 64 64
  | 0x050 => fld m.test.toNat 128 2
  | 0x058 => m.haltedT.toNat
  | 0x060 => m.busyCnt.toNat
  | 0x068 => m.waitCnt.toNat
  | 0x070 => fld m.rmask.toNat 0 64
  | 0x078 => fld m.rmask.toNat 64 64
  | _ => 0

/-- A register of the VE block (04 R140–R143). -/
def State.veRead (s : State) (k off : Nat) : Nat :=
  let v := (s.core k).ve
  match off with
  | 0x000 => pack [(bit v.permOor, 0), (bit v.rowEmptySeen, 1), (bit v.haltedV, 2), (bit v.idle, 3), (v.level.toNat, 4), (s.veCap, 8),
      (v.queue.length, 12), (v.bankStat.toNat, 24), (bitsOf 6 v.swapPending, 32)]
  | 0x008 => v.cause.toNat
  | 0x010 => v.causeMask.toNat
  | 0x018 => v.errInfo.toNat
  | 0x020 => v.busyCnt.toNat
  | 0x028 => v.waitCnt.toNat
  | _ => 0

/-- SE_CTX_STATn (07 R227); the queue fields are 0 while the context waits on no queue. -/
def SeCtx.stat (c : SeCtx) : Nat :=
  let onQueue (v : Nat) : Nat := if 1 ≤ c.waitKind.toNat ∧ c.waitKind.toNat ≤ 4 then v else 0
  pack [(bit c.running, 0), (bit c.err, 1), (bit (c.waitKind != 0), 2), (c.waitKind.toNat, 3), (onQueue c.waitHq.toNat, 6),
    (onQueue c.waitSite.toNat, 11), (onQueue c.waitCore.toNat, 17), (c.pc % 16, 22), (c.tag.toNat, 32)]

/-- SE_HQ_STATq (07 R227). -/
def Hq.stat (h : Hq) : Nat :=
  pack [(h.count - h.used, 0), (h.ready, 7), (h.pAcq % 64, 14), (h.pPop % 64, 20), (bit h.cfg.isSome, 26),
    (bit ((h.cfg.map HqCfg.paced).getD false), 27), (h.misses.toNat, 32)]

/-- A register of the SE block, the descriptor unit among them (07 R223–R227, 06 R185–R187). -/
def State.seRead (s : State) (k off : Nat) : Nat :=
  let e := (s.core k).se
  let on (acq : Bool) (q : Nat) : Bool := e.waits.any (fun w => w.acq == acq && w.hq.toNat == q)
  match off with
  | 0x000 => pack [(bit e.pause, 0), (e.slotReserve.toNat, 8)]
  | 0x008 => pack [(bit e.idle, 0), (bit e.paused, 1), (bit e.haltedS, 2), (bitsOf 8 (fun x => (e.ctx x).running), 3), (e.queue.length, 11),
      (((List.range 8).map (fun x => (e.ctx x).inflight.length)).sum, 18), (e.fenceCnt.toNat, 32)]
  | 0x010 => e.cause.toNat
  | 0x018 => e.causeMask.toNat
  | 0x020 => e.errInfo.toNat
  | 0x028 => e.waitLimit.toNat
  | 0x030 => pack [(bitsOf 32 (on false), 0), (bitsOf 32 (on true), 32)]
  | 0x038 => e.hqStallReg.toNat
  | 0x040 => e.paceMiss.toNat
  | 0x048 => e.xferCnt.toNat
  | 0x050 => e.waitCnt.toNat
  | 0x800 => e.tdInfo.toNat
  | 0x808 => e.tdStat.toNat
  | _ =>
    if 0x100 ≤ off ∧ off < 0x140 ∧ off % 8 = 0 then (e.ctx ((off - 0x100) / 8)).stat
    else if 0x200 ≤ off ∧ off < 0x300 ∧ off % 8 = 0 then (e.hq ((off - 0x200) / 8)).stat
    else if 0x810 ≤ off ∧ off < 0x850 ∧ off % 8 = 0 then bitsOf 64 (fun b => (e.desc ((off - 0x810) * 8 + b)).isSome)
    else 0

/-- A register of a core: the blocks of the CC, ME, VE and SE. -/
def State.coreRead (s : State) (k off : Nat) : Nat :=
  match off / 0x10000 with
  | 0 => s.ccRead k off
  | 1 => s.meRead k (off % 0x10000)
  | 2 => s.veRead k (off % 0x10000)
  | _ => s.seRead k (off % 0x10000)

/-! ## Reads: a site -/

/-- Physical cores of a site that are neither failed nor in use. -/
def Site.sparesLeft (t : Site) : Nat := 34 - (onesOf 34 t.failed.toNat).length - 32

/-- The bed controller block (12 R380, R381): 32 spare rows a bank (12 R362, R363). DESIGN CHOICE, assumption 20; DEDUCED, assumption 39. -/
def Site.bedRead (t : Site) (p off : Nat) : Nat :=
  match off with
  | 0x000 => pack [(bit t.scrubEn, 0), (t.repairThr.toNat, 4)]
  | 0x008 => pack [(128 * 32 - (t.sparesUsed.map Prod.snd).sum, 0), ((Config.spareCols p).toNat % 129, 16), (bit t.repairBusy, 24)]
  | 0x010 => t.bedCause.toNat
  | 0x018 => t.bedMask.toNat
  | 0x020 => t.bedErr.toNat
  | 0x028 => t.bedCe.toNat
  | 0x030 => t.bedFix.toNat
  | _ => 0

/-- The site fault block (15 R467). -/
def State.siteFaultRead (s : State) (p off : Nat) : Nat :=
  let t := s.site p
  match off with
  | 0x000 => s.siteSum p
  | 0x008 => t.sumMask.toNat
  | 0x010 => t.cause.toNat
  | 0x018 => t.causeMask.toNat
  | 0x020 => t.errInfo.toNat
  | 0x060 => pack [(t.failed.toNat, 0), (t.sparesLeft, 36)]
  | _ =>
    if 0x040 ≤ off ∧ off < 0x060 ∧ off % 8 = 0 then pack ((List.range 8).map (fun n => (t.physCore (off - 0x40 + n), 8 * n)))
    else 0

/-- A register of a physical site; per-core registers of a dark site read 0 (16 R487). DEDUCED, assumption 17. -/
def State.siteRead (s : State) (p off : Nat) : Nat :=
  if off < 0x800000 then (if s.dark p then 0 else s.coreRead (s.keyOf p (off / 0x40000)) (off % 0x40000))
  else if 0x900000 ≤ off ∧ off < 0x901000 then (s.site p).bedRead p (off - 0x900000)
  else if 0x901000 ≤ off ∧ off < 0x902000 then s.siteFaultRead p (off - 0x901000)
  else 0

/-! ## Reads: an I/O die -/

/-- FAB_PORT_STATn (11 R359). -/
def Port.stat (p : Port) : Nat := pack [(p.state.toNat, 0), (p.tx.failed.toNat, 3), (p.rx.failed.toNat, 12), (p.peer.toNat, 32)]

/-- The fabric block of a die (11 R358–R360). -/
def State.fabRead (s : State) (x off : Nat) : Nat :=
  let f := (s.xd x).fab
  let port (i : Nat) : Port := s.port (4 * x + i)
  match off with
  | 0x000 => pack [(bit f.en, 0), (bit f.encReq, 1), (f.portEn.toNat, 4)]
  | 0x008 => pack [(bitsOf 4 (fun i => (port i).up), 0), (bitsOf 4 (fun i => (port i).slow), 4),
      (bitsOf 4 (fun i => (port i).up && (port i).enc), 8), (bitsOf 4 (fun i => (port i).tx.grafting || (port i).rx.grafting), 12)]
  | 0x010 => f.cause.toNat
  | 0x018 => f.causeMask.toNat
  | 0x020 => f.errInfo.toNat
  | 0x028 => f.ackTimeout.toNat
  | 0x030 => f.stallLimit.toNat
  | 0x038 => f.sentCnt.toNat
  | 0x040 => f.resendCnt.toNat
  | _ =>
    if 0x100 ≤ off ∧ off < 0x120 ∧ off % 8 = 0 then (port ((off - 0x100) / 8)).stat
    else if 0x120 ≤ off ∧ off < 0x140 ∧ off % 8 = 0 then bit (f.dateline.getLsbD ((off - 0x120) / 8))
    else if 0x200 ≤ off ∧ off < 0x280 ∧ off % 8 = 0 then (sget (fun _ => (0 : Half)) f.groups ((off - 0x200) / 8)).toNat
    else if 0x20000 ≤ off ∧ off < 0x30000 ∧ off % 8 = 0 then (sget (fun _ => (0 : DWord)) f.routes ((off - 0x20000) / 8)).toNat
    else 0

/-- The GDDR7 controller block of a die (12 R383, R384). -/
def State.mcRead (s : State) (x off : Nat) : Nat :=
  let m := (s.xd x).mc
  match off with
  | 0x000 => pack [(m.rate.toNat, 0), (bit m.retrainEn, 2)]
  | 0x008 => pack [(m.devFailed.toNat, 0), (bit (m.devFailed != 0), 13), (bit m.doubleFault, 14), (m.rateActive.toNat, 16), (1, 18),
      (bit m.selfRefresh, 19)]
  | 0x010 => m.cause.toNat
  | 0x018 => m.causeMask.toNat
  | 0x020 => m.errInfo.toNat
  | 0x028 => m.crcCnt.toNat
  | 0x030 => m.retryCnt.toNat
  | 0x038 => m.reconCnt.toNat
  | _ =>
    if 0x100 ≤ off ∧ off < 0x500 ∧ off % 8 = 0 then
      match sget (fun _ => none) s.gddr.regions ((off - 0x100) / 16) with
      | some g => if off % 16 = 0 then g.base else pack [(g.limit, 0), (g.slot.toNat, 48), (1, 63)]
      | none => 0
    else 0

/-- The Trellis block of a die (10 R324–R327). -/
def TrDie.read (t : TrDie) (busy : Bool) (off : Nat) : Nat :=
  match off with
  | 0x000 => pack [(bit t.en, 0), (t.ctx.toNat, 1)]
  | 0x008 => pack [(t.running.length, 0), (bit (t.running.isEmpty && t.pendingTags.isEmpty && !busy), 7), (bit t.cfgValid, 8),
      (t.pendingTags.length, 16), (t.step.toNat, 32)]
  | 0x010 => t.cause.toNat
  | 0x018 => t.causeMask.toNat
  | 0x020 => t.errInfo.toNat
  | 0x028 => t.grace.toNat
  | 0x030 => t.fold.toNat
  | 0x038 => pack [(t.hbPeriod.toNat, 0), (t.hbLimit.toNat, 32)]
  | 0x040 => t.recAddr.toNat
  | 0x048 => t.epoch.toNat
  | 0x050 => t.doneCnt.toNat
  | 0x058 => t.bytesOut.toNat
  | 0x060 => t.bytesIn.toNat
  | 0x068 => t.lenientCnt.toNat
  | 0x070 => t.foldCnt.toNat
  | 0x078 => t.ringLost.toNat
  | _ => 0

/-- The XD fault block (15 R468). -/
def State.xdFaultRead (s : State) (x off : Nat) : Nat :=
  let d := s.xd x
  match off with
  | 0x000 => s.xdSum x
  | 0x008 => d.sumMask.toNat
  | 0x010 => d.xdlCause.toNat
  | 0x018 => d.xdlMask.toNat
  | 0x020 => d.halves.toNat
  | _ => 0

/-- A register of an I/O die. -/
def State.xdRead (s : State) (x off : Nat) : Nat :=
  if 0x1000 ≤ off ∧ off < 0x2000 then s.xdFaultRead x (off - 0x1000)
  else if 0x100000 ≤ off ∧ off < 0x200000 then s.fabRead x (off - 0x100000)
  else if 0x200000 ≤ off ∧ off < 0x300000 then s.mcRead x (off - 0x200000)
  else if 0x400000 ≤ off ∧ off < 0x500000 then
    (s.xd x).tr.read (s.trellis.closes.any (fun c => s.dieOf c.tag.toNat == x)) (off - 0x400000)
  else 0

/-! ## Reads: the system block -/

/-- The grid registers (00 R7, 01 R23–R25). -/
def State.gridRead (s : State) (off : Nat) : Nat :=
  let g := s.grid
  if off = 0x1000 then s.part.id.toNat
  else if 0x2000 ≤ off ∧ off < 0x2100 ∧ off % 4 = 0 then
    (match s.physOf ((off - 0x2000) / 4) with
     | some p => pack [(p, 0), (1, 31)]
     | none => 0)
  else if 0x2100 ≤ off ∧ off < 0x2200 ∧ off % 4 = 0 then
    (let p := (off - 0x2100) / 4
     match s.role p with
     | .active => pack [((s.logicalOf p).getD 0, 8)]
     | .spare => 1
     | .fusedOff => 2
     | .retired => 3)
  else if off = 0x2200 then pack [(g.gen.toNat, 0), (((List.range 64).filter (fun p => s.role p = .spare)).length, 16)]
  else if off = 0x2208 then g.commitTick.toNat
  else 0

/-- The stash registers (09 R279). -/
def State.stashRead (s : State) (off : Nat) : Nat :=
  if off < 0x40 ∧ off % 8 = 0 then
    (let r := sget (fun _ => Stash.init) s.gddr.stash (off / 16)
     if off % 16 = 0 then pack [(bit r.en, 0), (r.elem.toNat, 1), (r.base.toNat, 20)] else r.sizeMib.toNat)
  else if off = 0x40 then s.gddr.logical.toNat
  else if off = 0x48 then s.gddr.stored.toNat
  else 0

/-- The module-wide fabric and time registers (11 R361). -/
def State.fabSysRead (s : State) (off : Nat) : Nat :=
  let f := s.fab
  match off with
  | 0x000 => pack [(f.addr.toNat, 0), (f.cascade.toNat, 16), (bit f.valid, 32)]
  | 0x008 => pack [(f.lodestar.toNat, 0), (bit s.isLodestar, 13), (bit f.provisional, 14), (f.generation.toNat, 32)]
  | 0x010 => pack [(bit f.src, 0), (bit f.syncOutEn, 1), (bit f.ptpEn, 2)]
  | 0x018 => pack [(bit f.locked, 0), (bit f.holdover, 1), (f.lastCorr.toNat, 8)]
  | 0x020 => f.syncDly.toNat
  | 0x028 => f.ptpOffset.toNat
  | 0x030 => f.ptpRate.toNat
  | _ =>
    if 0x100 ≤ off ∧ off < 0x200 ∧ off % 8 = 0 then
      let w := s.rxwin ((off - 0x100) / 16)
      if off % 16 = 0 then w.base.toNat
      else pack [(bit w.en, 0), (bit w.encReq, 1), (bit w.trellis, 2), (bit w.bulk, 3), (w.ctx.toNat, 4), (w.size.toNat, 8), (w.nsite.toNat, 32),
        (w.ncore.toNat, 38), (w.ndmem.toNat, 43), (bit w.notifyEn, 59)]
    else 0

/-- The Seedbank block (12 R382). -/
def State.sbRead (s : State) (off : Nat) : Nat :=
  let b := s.sb
  match off with
  | 0x000 => pack [(bit b.en, 0), (b.protChunks.toNat, 1)]
  | 0x008 => pack [(b.state.toNat, 0), (s.groups, 4), (b.unprot.toNat, 8), (b.rebuildSite.toNat, 16), (s.rebuilt.toNat, 24)]
  | 0x010 => b.cause.toNat
  | 0x018 => b.causeMask.toNat
  | 0x020 => b.ticks.toNat
  | _ => 0

/-- ORR_STAT.fw_state: 4 while a running image holds (13 R420). DEDUCED, assumption 45. -/
def Orr.fwCode (o : Orr) : Nat := if o.hold && (o.fwState == 2 || o.fwState == 3) then 4 else o.fwState.toNat

/-- ORR_CTX_STAT codes. -/
def CtxSt.code : CtxSt → Nat
  | .free => 0
  | .ready => 1
  | .running => 2
  | .saved => 3
  | .held => 4
  | .stopped => 5

/-- The code of a context in ORR_CTX_STAT (13 R400): running while an entry of it runs on its cores, ready while it has
its cores but no entry runs. DEDUCED, assumption 71. -/
def Ctx.statCode (c : Ctx) : Nat :=
  if c.st == .running && !c.entries.any (fun e => e.started && !e.finished) then CtxSt.ready.code else c.st.code

/-- The 64-bit word at byte `o` of the Almanac's on-die copy: the last 4,096 entries. -/
def State.almWord (s : State) (o : Nat) : Nat := bfld ((sget (fun _ => Alm.init) s.alms (o / 64)).bytes) (o % 64) 8

/-- The orrery block (13 R419–R421). -/
def State.orrRead (s : State) (off : Nat) : Nat :=
  let o := s.orr
  match off with
  | 0x000 => pack [(bitsOf 20 (fun n => (s.oc n).role == 0), 0), (bitsOf 20 (fun n => (s.oc n).role == 1), 20), (o.lead.toNat, 40), (o.fwCode, 45)]
  | 0x008 => o.cause.toNat
  | 0x010 => o.causeMask.toNat
  | 0x018 => pack [(o.imgVersion.toNat, 0), (o.lkgVersion.toNat, 32)]
  | 0x020 => o.drvHb.toNat
  | 0x028 => bit o.attached
  | 0x030 => o.hbLimit.toNat
  | 0x038 => pack [(o.adminBase.toNat, 12)]
  | 0x048 => pack [((onesOf 256 (o.loadMap o.loadSlot).toNat).length, 0), (bit o.loadSlot, 9), (o.loadResult.toNat, 10)]
  | 0x090 => bit o.confirmed
  | 0x098 => (match o.confirmEnd with
      | some t => t.toNat - s.tick.toNat
      | none => 0)
  | 0x0A0 => o.wdogLimit.toNat
  | 0x0A8 => s.almHead.toNat
  | 0x0B0 => pack ((List.range 16).map (fun n => ((s.ctx n).statCode, 4 * n)))
  | _ =>
    if 0x050 ≤ off ∧ off < 0x090 ∧ off % 8 = 0 then
      fld (o.loadMap (decide (off ≥ 0x070))).toNat (64 * ((off - 0x050) / 8 % 4)) 64
    else if 0x100 ≤ off ∧ off < 0x1A0 ∧ off % 8 = 0 then
      let n := (off - 0x100) / 8
      let c := s.oc n
      pack [(c.role.toNat, 0), (bitsOf 16 (fun i => (s.ctx i).st != .free && (s.ctx i).oc.toNat == n), 2), (c.wdogCnt.toNat, 32)]
    else if 0x10000 ≤ off ∧ off < 0x50000 ∧ off % 8 = 0 then s.almWord (off - 0x10000)
    else 0

/-- The host cluster block (13 R422): two of the 18 harts are spares. -/
def State.hostRead (s : State) (off : Nat) : Nat :=
  let h := s.host
  match off with
  | 0x000 => pack [(h.inService.toNat, 0), (18 - (onesOf 18 (h.inService ||| h.failedHarts).toNat).length, 18)]
  | 0x008 => h.cause.toNat
  | 0x010 => h.causeMask.toNat
  | _ => 0

def SecChan.ctl (c : SecChan) : Nat := pack [(bit c.busy, 1), (c.result.toNat, 2), (c.seq.toNat, 32)]

/-- The security block (14 R442, R443). -/
def State.secRegRead (s : State) (off : Nat) : Nat :=
  let c := s.sec
  match off with
  | 0x000 => pack [(c.owners.length, 0), (bit ((c.owner.map Owner.cosign).getD false), 3), (bit ((c.owner.map Owner.peerReq).getD false), 4),
      (bit c.policy.isSome, 5), (bit c.dbgUsed, 6), (bit c.bootS1, 7), (bit c.bootLd, 8)]
  | 0x008 => c.cause.toNat
  | 0x010 => c.causeMask.toNat
  | 0x018 => c.errInfo.toNat
  | 0x020 => c.ch0.addr.toNat
  | 0x028 => c.ch0.ctl
  | 0x030 => c.ch1.addr.toNat
  | 0x038 => c.ch1.ctl
  | 0x040 => pack [(c.svnS1 % 256, 0), (c.svnLd % 256, 8), (c.svnOrr % 256, 16)]
  | 0x048 => pack ((List.range 16).map (fun n => ((s.seal n).state.toNat, 2 * n)))
  | 0x050 => c.importPos.toNat
  | _ =>
    if 0x100 ≤ off ∧ off < 0x300 ∧ off % 8 = 0 then bfld ((c.meas[(off - 0x100) / 64]?).getD []) (off % 64) 8
    else if 0x300 ≤ off ∧ off < 0x320 ∧ off % 8 = 0 then bfld s.part.idDigest (off - 0x300) 8
    else 0

/-- The GIS block (15 R465). -/
def State.gisRead (s : State) (off : Nat) : Nat :=
  let g := s.gis
  match off with
  | 0x000 => s.gisSite
  | 0x008 => s.gisSys
  | 0x010 => g.siteMask.toNat
  | 0x018 => g.sysMask.toNat
  | 0x020 => g.siteLost.toNat
  | 0x030 => pack [(g.halted.toNat, 0), (bit (!g.arrive.isEmpty), 16), (g.tick.toNat % 2 ^ 32, 32)]
  | _ => 0

/-- PD state codes of PWR_PD_STAT. -/
def Pd.code : Pd → Nat
  | .off => 0
  | .retain => 1
  | .on => 2
  | .fault => 3

/-- The power block (16 R490, R491). -/
def State.pwrRead (s : State) (off : Nat) : Nat :=
  let p := s.pwr
  let pds (i : Nat) : Nat := pack ((List.range 32).map (fun d => (if 32 * i + d < 80 then (s.pd (32 * i + d)).code else 0, 2 * d)))
  match off with
  | 0x00 => pack [(p.level.toNat, 0), (bit (p.govCap != 8), 3), (p.govCap.toNat, 4), (p.thermCap.toNat, 8), (p.pruneCap false, 12), (p.vin.toNat, 16),
      (p.p1.toNat, 32), (avg10 p.hist % 2 ^ 16, 48)]
  | 0x08 => p.cause.toNat
  | 0x10 => p.causeMask.toNat
  | 0x18 => p.cap.toNat
  | 0x20 => pds 0
  | 0x28 => pds 1
  | 0x30 => pds 2
  | 0x38 => pack [(p.phaseCnt.toNat, 0), (p.phaseDom.toNat, 16)]
  | 0x40 => p.levelCnt.toNat
  | _ => 0

/-- Hottest sensor and its number: the lowest of equals (16 R492). -/
def Therm.hottest (t : Therm) : Nat × Nat :=
  (List.range 68).foldl (fun (m : Nat × Nat) n => if m.1 < (t.temp n).toNat then ((t.temp n).toNat, n) else m) (0, 0)

/-- The clock and thermal blocks (16 R490, R492). -/
def State.clkRead (s : State) (off : Nat) : Nat :=
  let c := s.clk
  let t := s.therm
  match off with
  | 0x000 => pack [(bit c.locked, 0), (bit c.refclk, 1), (bit c.holdover, 2), (s.holdTicks.toNat, 32)]
  | 0x008 => c.cause.toNat
  | 0x010 => c.causeMask.toNat
  | 0x800 => pack [(t.warnC.toNat, 0), (t.throttleC.toNat, 8), (110, 16)]
  | 0x808 => pack [(t.hottest.1, 0), (t.hottest.2, 8)]
  | 0x810 => t.cause.toNat
  | 0x818 => t.causeMask.toNat
  | _ => 0

/-- A register of the system block. -/
def State.sysRead (s : State) (off : Nat) : Nat :=
  if off < 0x3000 then s.gridRead off
  else if off < 0x4000 then s.stashRead (off - 0x3000)
  else if off < 0x5000 then s.fabSysRead (off - 0x4000)
  else if off = 0x5000 then pack [(s.gis.mapAddr.toNat, 0), (bit s.gis.mapHole, 63)]
  else if 0x6000 ≤ off ∧ off < 0x7000 then s.sbRead (off - 0x6000)
  else if 0x7000 ≤ off ∧ off < 0x7800 then s.orrRead (off - 0x7000)
  else if 0x7800 ≤ off ∧ off < 0x8000 then s.hostRead (off - 0x7800)
  else if 0x8000 ≤ off ∧ off < 0x9000 then s.secRegRead (off - 0x8000)
  else if 0x9000 ≤ off ∧ off < 0xA000 then s.gisRead (off - 0x9000)
  else if 0xA000 ≤ off ∧ off < 0xB000 then s.pwrRead (off - 0xA000)
  else if 0xB000 ≤ off ∧ off < 0xC000 then s.clkRead (off - 0xB000)
  else if off = 0xC000 then s.tick.toNat
  else if off = 0xC008 then pack [(bit s.warmLast, 16)]
  else if 0x17000 ≤ off ∧ off < 0x57000 then s.orrRead (off - 0x7000)
  else 0

/-- The offset of a CC_XREG register in the site register space, which a closure covers (14 R438). -/
def isXreg (off : Nat) : Bool := decide (off < 0x800000) && decide (0x200 ≤ off % 0x40000 ∧ off % 0x40000 < 0x300)

/-- What a read of the register at an address returns (00 R12, R13). The view is the requester's (01 R19); a register
of an absent site reads 0 (00 R5); a closed CC_XREG reads 0 (14 R438). DEDUCED, assumption 17. -/
def State.regRead (s : State) (req : Requester) (a : Nat) : DWord :=
  BitVec.ofNat 64 (match place a with
    | .siteReg f off =>
      (match s.siteField (logicalReq req) f with
       | some p =>
         if isXreg off && s.refusedBySeal req (s.ctxOf req) false (.core f (off / 0x40000) 0) then 0
         else s.siteRead p off
       | none => 0)
    | .xdReg x off => s.xdRead x off
    | .sys off => s.sysRead off
    | _ => 0)

end Sys2Proof.Machine
end

