-- ==== Sys2Proof/Machine/RegWrite.lean ====
section
/-! DEFINITION. What a write of each register does, by its address (00 R12, R13; the register tables of 01–16).
Registers whose write has a row of its own are written through the same operation here. -/

namespace Sys2Proof.Machine

/-- A write to wc fields: each 1 clears its bit (R12). -/
def clearBits {w : Nat} (v : BitVec w) (n : Nat) : BitVec w := v &&& ~~~(BitVec.ofNat w n)

/-! ## Per-core registers -/

/-- CC_DBG (08 R265): while a sealed context owns the core en ignores writes (08 R260); resume leaves debug_halted
(08 R259); the first en = 1 shows in dbg_used (14 R434). -/
def State.ccDbg (s : State) (k n : Nat) : State :=
  let en := if s.coreSealed k then (s.core k).cc.ctl.dbgEn else bitAt n 0
  let s := s.modCc k (fun c => { c with ctl := { c.ctl with
    dbgEn := en, dbgStep := bitAt n 1, cntEn := bitAt n 3, tagEn := bitAt n 4 } })
  let s := if s.dbgEn k then s.modSec (fun c => { c with dbgUsed := true }) else s
  if bitAt n 2 then s.ccResume k else s

/-- A register of the CC block (08 R262–R265, 02 R65). DEDUCED, assumption 19. -/
def State.ccWrite (s : State) (k off : Nat) (v : DWord) : State :=
  let n := v.toNat
  match off with
  | 0x000 => (s.modCc k (fun c => { c with ctl := { c.ctl with
      haltOnLog := bitAt n 1, beaconStall := bitAt n 2, traceCmds := bitAt n 3 } })).ccPause k (bitAt n 0)
  | 0x010 => s.modCc k (fun c => { c with cause := clearBits c.cause n })
  | 0x018 => s.modCc k (fun c => { c with causeMask := BitVec.ofNat 16 n })
  | 0x020 => if bitAt n 17 then s.ccStart k (BitVec.ofNat 16 n) (bitAt n 16) else s
  | 0x028 => s.ccDbg k n
  | 0x030 => s.modCc k (fun c => { c with ctl := { c.ctl with brkCnt := v } })
  | 0x038 => s.modCc k (fun c => { c with ctl := { c.ctl with
      brkTag := BitVec.ofNat 16 n, brkMask := BitVec.ofNat 16 (fld n 16 16), brkEng := BitVec.ofNat 3 (fld n 32 3) } })
  | 0x040 => s.modCc k (fun c => { c with ctl := { c.ctl with beaconMask := v } })
  | 0x058 => s.imemVer k (BitVec.ofNat 16 n) (BitVec.ofNat 16 (fld n 16 16))
  | 0xF80 => s.modCc k (fun c => { c with numStat := { c.numStat with
      nan := c.numStat.nan && !bitAt n 0, inf := c.numStat.inf && !bitAt n 1, sat := c.numStat.sat && !bitAt n 2 } })
  | _ => if 0x200 ≤ off ∧ off < 0x300 ∧ off % 8 = 0 then s.xreg k ((off - 0x200) / 8) (some (BitVec.ofNat 32 n)) else s

/-- ME_CTL.tol_exp stores 0xA for a value outside 6–14 (03 R97). -/
def tolStored (n : Nat) : BitVec 4 := if 6 ≤ n ∧ n ≤ 14 then BitVec.ofNat 4 n else 0xA

/-- A register of the ME block (03 R97, R99, R100). -/
def State.meWrite (s : State) (k off : Nat) (v : DWord) : State :=
  let n := v.toNat
  match off with
  | 0x000 => s.modMe k (fun m => { m with bcastReq := bitAt n 0, chkEn := bitAt n 1, tolExp := tolStored (fld n 4 4) })
  | 0x010 => s.modMe k (fun m => { m with cause := clearBits m.cause n })
  | 0x018 => s.modMe k (fun m => { m with causeMask := BitVec.ofNat 10 n })
  | 0x058 => s.modMe k (fun m => { m with haltedT := clearBits m.haltedT n })
  | _ => s

/-- A register of the VE block (04 R141, R142). -/
def State.veWrite (s : State) (k off : Nat) (v : DWord) : State :=
  let n := v.toNat
  match off with
  | 0x000 => s.modVe k (fun e => { e with
      permOor := e.permOor && !bitAt n 0, rowEmptySeen := e.rowEmptySeen && !bitAt n 1, haltedV := e.haltedV && !bitAt n 2 })
  | 0x008 => s.modVe k (fun e => { e with cause := clearBits e.cause n })
  | 0x010 => s.modVe k (fun e => { e with causeMask := BitVec.ofNat 9 n })
  | _ => s

/-- A register of the SE block (07 R223–R225, 06 R187). -/
def State.seWrite (s : State) (k off : Nat) (v : DWord) : State :=
  let n := v.toNat
  match off with
  | 0x000 => s.modSe k (fun e => { e with pause := bitAt n 0, slotReserve := BitVec.ofNat 7 (min 96 (fld n 8 7)) })
  | 0x008 => s.modSe k (fun e => { e with haltedS := e.haltedS && !bitAt n 2 })
  | 0x010 => s.modSe k (fun e =>
      let c := clearBits e.cause n
      { e with cause := c, tdSeen := e.tdSeen && (c &&& 0xF0) != 0 })
  | 0x018 => s.modSe k (fun e => { e with causeMask := BitVec.ofNat 19 n })
  | 0x028 => s.modSe k (fun e => { e with waitLimit := BitVec.ofNat 40 (max 1880 (fld n 0 40)) })
  | 0x808 => s.modSe k (fun e => { e with tdStat := clearBits e.tdStat n })
  | _ => s

/-- A register of a core. -/
def State.coreWrite (s : State) (k off : Nat) (v : DWord) : State :=
  match off / 0x10000 with
  | 0 => s.ccWrite k off v
  | 1 => s.meWrite k (off % 0x10000) v
  | 2 => s.veWrite k (off % 0x10000) v
  | _ => s.seWrite k (off % 0x10000) v

/-! ## A site -/

/-- The bed controller block (12 R380, R381) and the site fault block (15 R467). -/
def State.siteBlockWrite (s : State) (p off : Nat) (v : DWord) : State :=
  let n := v.toNat
  match off with
  | 0x0000 => s.modSite p (fun t => { t with scrubEn := bitAt n 0, repairThr := BitVec.ofNat 4 (max 1 (fld n 4 4)) })
  | 0x0010 => s.modSite p (fun t => { t with bedCause := clearBits t.bedCause n })
  | 0x0018 => s.modSite p (fun t => { t with bedMask := BitVec.ofNat 7 n })
  | 0x1008 => s.modSite p (fun t => { t with sumMask := BitVec.ofNat 36 n })
  | 0x1010 => s.modSite p (fun t => { t with cause := clearBits t.cause n })
  | 0x1018 => s.modSite p (fun t => { t with causeMask := BitVec.ofNat 6 n })
  | _ => s

/-- A register of a physical site; per-core registers of a dark site drop the write (16 R487). DEDUCED, assumption 17. -/
def State.siteWrite (s : State) (p off : Nat) (v : DWord) : State :=
  if off < 0x800000 then (if s.dark p then s else s.coreWrite (s.keyOf p (off / 0x40000)) (off % 0x40000) v)
  else if 0x900000 ≤ off then s.siteBlockWrite p (off - 0x900000) v
  else s

/-! ## An I/O die -/

/-- The GDDR7 controller block (12 R384); its regions are written by the security block only (12 R383). -/
def Mc.write (m : Mc) (off n : Nat) : Mc :=
  match off with
  | 0x000 => { m with rate := BitVec.ofNat 2 (min 2 (fld n 0 2)), retrainEn := bitAt n 2 }
  | 0x010 => { m with cause := clearBits m.cause n }
  | 0x018 => { m with causeMask := BitVec.ofNat 6 n }
  | _ => m

/-- The Trellis block (10 R324–R326). -/
def TrDie.write (t : TrDie) (off n : Nat) : TrDie :=
  match off with
  | 0x000 => { t with en := bitAt n 0, ctx := BitVec.ofNat 4 (fld n 1 4) }
  | 0x010 => { t with cause := clearBits t.cause n }
  | 0x018 => { t with causeMask := BitVec.ofNat 11 n }
  | 0x028 => { t with grace := BitVec.ofNat 32 (max 9400 (fld n 0 32)) }
  | 0x030 => { t with fold := BitVec.ofNat 3 (min 4 (fld n 0 3)) }
  | 0x038 => { t with hbPeriod := BitVec.ofNat 32 n, hbLimit := BitVec.ofNat 32 (fld n 32 32) }
  | 0x040 => { t with recAddr := BitVec.ofNat 48 n }
  | _ => t

/-- The fabric block (11 R358–R360). -/
def fabWrite (s : State) (off : Nat) (v : DWord) (d : FabDie) : FabDie :=
  if off = 0x010 then { d with cause := clearBits d.cause v.toNat } else (fabReg s off v d).getD d

/-- A register of a die's fabric block. Packets that wait for a port of a group try again when the group changes (R338). -/
def State.fabDieWrite (s : State) (x off : Nat) (v : DWord) : State :=
  let s := s.modFab x (fabWrite s off v)
  if 0x200 ≤ off ∧ off < 0x280 then s.retryPackets else s

/-- The XD fault block (15 R468). -/
def Xd.faultWrite (d : Xd) (off n : Nat) : Xd :=
  match off with
  | 0x008 => { d with sumMask := BitVec.ofNat 5 n }
  | 0x010 => { d with xdlCause := clearBits d.xdlCause n }
  | 0x018 => { d with xdlMask := BitVec.ofNat 4 n }
  | _ => d

/-- A register of an I/O die. A register write into TR_HANDOFF or FAB_SEND is malformed: it is not 64 bytes
(10 R307, 11 R340). DEDUCED, assumption 48. -/
def State.xdWrite (s : State) (x off : Nat) (v : DWord) : State :=
  if 0x1000 ≤ off ∧ off < 0x2000 then s.modXd x (fun d => d.faultWrite (off - 0x1000) v.toNat)
  else if 0x200000 ≤ off ∧ off < 0x300000 then s.modMc x (fun m => m.write (off - 0x200000) v.toNat)
  else if 0x101000 ≤ off ∧ off < 0x101080 then s.fabSend .fabric (x % 4) (leBytes 8 v.toNat)
  else if 0x100000 ≤ off ∧ off < 0x200000 then s.fabDieWrite x (off - 0x100000) v
  else if 0x401000 ≤ off ∧ off < 0x401040 then s.handoff x (leBytes 8 v.toNat)
  else if 0x400000 ≤ off ∧ off < 0x500000 then s.modTr x (fun t => t.write (off - 0x400000) v.toNat)
  else s

/-! ## The system block -/

/-- A stash region's registers (09 R279): while en = 1 a write that does more than clear en is ignored; setting en marks
every page all-zero; a region that overlaps another or leaves GDDR7 stays with en = 0. DEDUCED, assumption 19; DEDUCED, assumption 40. -/
def State.stashWrite (s : State) (off : Nat) (v : DWord) : State :=
  let n := v.toNat
  let k := off / 16
  let old := sget (fun _ => Stash.init) s.gddr.stash k
  let new : Stash := if off % 16 = 0 then
      { old with en := bitAt n 0, elem := BitVec.ofNat 2 (fld n 1 2), base := BitVec.ofNat 28 (fld n 20 28) }
    else { old with sizeMib := BitVec.ofNat 18 n }
  if off ≥ 0x40 ∨ off % 8 ≠ 0 then s
  else if old.en then (if new == { old with en := false } then s.setStash k new else s)
  else if !new.en then s.setStash k new
  else if s.stashBad k new then s.setStash k { new with en := false }
  else
    let lo := new.base.toNat * mib
    (s.gddrFill lo (lo + new.sizeMib.toNat * mib) []).setStash k new

/-- The module-wide fabric and time registers (11 R361): window 15 by the orrery alone; the orrery refuses a window
that breaks R343 or 14 R435. DEDUCED, assumption 18; DEDUCED, assumption 19. -/
def State.fabSysWrite (s : State) (req : Requester) (off : Nat) (v : DWord) : State :=
  if 0x1F0 ≤ off && !isOrrery req then s
  else match fabSysReg s off v with
    | some t => if 0x100 ≤ off && !t.winOk ((off - 0x100) / 16) then s else t
    | none => s

/-- The Seedbank block (12 R382). -/
def State.sbWrite (s : State) (off : Nat) (v : DWord) : State :=
  match off with
  | 0x000 => s.sbCtl v
  | 0x010 => { s with sb := { s.sb with cause := clearBits s.sb.cause v.toNat } }
  | 0x018 => { s with sb := { s.sb with causeMask := BitVec.ofNat 4 v.toNat } }
  | _ => s

/-- The orrery block (13 R419–R421). -/
def State.orrWrite (s : State) (req : Requester) (off : Nat) (v : DWord) : State :=
  let n := v.toNat
  match off with
  | 0x008 => s.modOrr (fun o => { o with cause := clearBits o.cause n })
  | 0x010 => s.modOrr (fun o => { o with causeMask := BitVec.ofNat 14 n })
  | 0x020 => s.modOrr (fun o => { o with drvHb := v })
  | 0x028 => if bitAt n 1 then s.attach else s
  | 0x030 => s.modOrr (fun o => { o with hbLimit := BitVec.ofNat 40 (max 9400000 (fld n 0 40)) })
  | 0x038 => s.setAdminBase v
  | 0x040 => s.loadBlk v
  | 0x090 => if bitAt n 0 then s.confirm req else s
  | 0x0A0 => s.modOrr (fun o => { o with wdogLimit := BitVec.ofNat 32 (max 4700 (fld n 0 32)) })
  | _ => s

/-- The host cluster block (13 R422). -/
def State.hostWrite (s : State) (off n : Nat) : State :=
  match off with
  | 0x008 => { s with host := { s.host with cause := clearBits s.host.cause n } }
  | 0x010 => { s with host := { s.host with causeMask := BitVec.ofNat 3 n } }
  | _ => s

/-- The security block (14 R442, R443): channel 0 is written by host harts, channel 1 by orrery cores (14 R432). DEDUCED, assumption 18. -/
def State.secWrite (s : State) (req : Requester) (off : Nat) (v : DWord) : State :=
  let n := v.toNat
  match off with
  | 0x008 => s.modSec (fun c => { c with cause := clearBits c.cause n })
  | 0x010 => s.modSec (fun c => { c with causeMask := BitVec.ofNat 8 n })
  | 0x020 => if req = .host then s.modSec (fun c => { c with ch0 := { c.ch0 with addr := BitVec.ofNat 48 n } }) else s
  | 0x028 => if req = .host ∧ bitAt n 0 then s.secGo false else s
  | 0x030 => if isOrrery req then s.modSec (fun c => { c with ch1 := { c.ch1 with addr := BitVec.ofNat 48 n } }) else s
  | 0x038 => if isOrrery req ∧ bitAt n 0 then s.secGo true else s
  | _ => s

/-- The GIS block (15 R465): SYS_HALT is written by the orrery only. DEDUCED, assumption 18. -/
def State.gisWrite (s : State) (req : Requester) (off : Nat) (v : DWord) : State :=
  let n := v.toNat
  match off with
  | 0x010 => s.modGis (fun g => { g with siteMask := v })
  | 0x018 => s.modGis (fun g => { g with sysMask := BitVec.ofNat 13 n })
  | 0x020 => s.modGis (fun g => { g with siteLost := clearBits g.siteLost n })
  | 0x028 => if isOrrery req then s.haltGo (BitVec.ofNat 16 n) (fld n 16 8) else s
  | _ => s

/-- PWR_CAP clamps to 4,000–12,500 W (16 R490). -/
def capStored (n : Nat) : Half := BitVec.ofNat 16 (max 4000 (min 12500 (fld n 0 16)))

/-- The power block (16 R490, R491). -/
def State.pwrWrite (s : State) (off n : Nat) : State :=
  match off with
  | 0x08 => s.modPwr (fun p => { p with cause := clearBits p.cause n })
  | 0x10 => s.modPwr (fun p => { p with causeMask := BitVec.ofNat 6 n })
  | 0x18 => s.modPwr (fun p => { p with cap := capStored n })
  | _ => s

/-- THERM_CTL.throttle_c stores 0x64 for a value outside 80–105 (16 R492). -/
def throttleStored (n : Nat) : Byte := if 80 ≤ n ∧ n ≤ 105 then BitVec.ofNat 8 n else 0x64

/-- THERM_CTL (16 R492): a warn threshold above the throttle threshold stores the throttle threshold. -/
def Therm.setCtl (t : Therm) (n : Nat) : Therm :=
  let th := throttleStored (fld n 8 8)
  { t with throttleC := th, warnC := if fld n 0 8 > th.toNat then th else BitVec.ofNat 8 n }

/-- The clock and thermal blocks (16 R490, R492). -/
def State.clkWrite (s : State) (off n : Nat) : State :=
  match off with
  | 0x008 => { s with clk := { s.clk with cause := clearBits s.clk.cause n } }
  | 0x010 => { s with clk := { s.clk with causeMask := BitVec.ofNat 4 n } }
  | 0x800 => { s with therm := s.therm.setCtl n }
  | 0x810 => { s with therm := { s.therm with cause := clearBits s.therm.cause n } }
  | 0x818 => { s with therm := { s.therm with causeMask := BitVec.ofNat 3 n } }
  | _ => s

/-- A register of the system block; SYS_MAP_FAULT.hole is wc (12 R379). -/
def State.sysWrite (s : State) (req : Requester) (off : Nat) (v : DWord) : State :=
  let n := v.toNat
  if 0x3000 ≤ off ∧ off < 0x4000 then s.stashWrite (off - 0x3000) v
  else if 0x4000 ≤ off ∧ off < 0x5000 then s.fabSysWrite req (off - 0x4000) v
  else if off = 0x5000 then (if bitAt n 63 then s.modGis (fun g => { g with mapHole := false }) else s)
  else if 0x6000 ≤ off ∧ off < 0x7000 then s.sbWrite (off - 0x6000) v
  else if 0x7000 ≤ off ∧ off < 0x7800 then s.orrWrite req (off - 0x7000) v
  else if 0x7800 ≤ off ∧ off < 0x8000 then s.hostWrite (off - 0x7800) n
  else if 0x8000 ≤ off ∧ off < 0x9000 then s.secWrite req (off - 0x8000) v
  else if 0x9000 ≤ off ∧ off < 0xA000 then s.gisWrite req (off - 0x9000) v
  else if 0xA000 ≤ off ∧ off < 0xB000 then s.pwrWrite (off - 0xA000) n
  else if 0xB000 ≤ off ∧ off < 0xC000 then s.clkWrite (off - 0xB000) n
  else if off = 0xC008 then s.sysRst req v
  else s

/-! ## The command -/

/-- The place R438 judges a register access by. -/
def regPlace (a : Nat) : Place :=
  match place a with
  | .siteReg f off => if isXreg off then .core f (off / 0x40000) 0 else .siteReg f off
  | p => p

/-- The windows that a sealed context may write outside its closure: TR_HANDOFF and FAB_SEND of an XD (14 R438). -/
def sendWindow (a : Nat) : Bool :=
  match place a with
  | .xdReg _ off => decide (0x101000 ≤ off ∧ off < 0x101080) || decide (0x401000 ≤ off ∧ off < 0x401040)
  | _ => false

/-- Write the register at an address (R12, R13): in the requester's view (01 R19), unless a closure refuses it
(14 R438); an absent site drops it into SYS_MAP_FAULT (00 R5). DEDUCED, assumption 17. -/
def State.regWrite (s : State) (req : Requester) (a : Nat) (v : DWord) : State :=
  if !sendWindow a && s.refusedBySeal req (s.ctxOf req) true (regPlace a) then s.raiseSec 0 a (reqCls req)
  else match place a with
    | .siteReg f off =>
      (match s.siteField (logicalReq req) f with
       | some p => s.siteWrite p off v
       | none => s.mapFault a)
    | .xdReg x off => s.xdWrite x off v
    | .sys off => s.sysWrite req off v
    | _ => s

/-- REGISTER_WRITE. -/
def execRegisterWrite (req : Requester) (addr : Addr) (value : DWord) (s : State) : Res :=
  .next (s.regWrite req addr.toNat value)

end Sys2Proof.Machine
end

