-- ==== Sys2Proof/Machine/Dispatch.lean ====
section
/-! DEFINITION. The dispatch: one arm per command, each one direct call of its meaning. -/

namespace Sys2Proof.Machine

def exec (i : Instr) (s : State) : Host.Outcome State Fault Refusal :=
  match i with
  | .bundle l c imem dmem => Sys2Proof.Machine.execBundle l c imem dmem s
  | .ccStart l c pc bank go => Sys2Proof.Machine.execCcStart l c pc bank go s
  | .ccCtlPause l c pause => Sys2Proof.Machine.execCcCtlPause l c pause s
  | .ccDbgResume l c => Sys2Proof.Machine.execCcDbgResume l c s
  | .ccImemVerWrite l c verA verB => Sys2Proof.Machine.execCcImemVerWrite l c verA verB s
  | .ccXregAccess l c x wr => Sys2Proof.Machine.execCcXregAccess l c x wr s
  | .coreWindowAccess req site core off acc ecc => Sys2Proof.Machine.execCoreWindowAccess req site core off acc ecc s
  | .meFeed l c => Sys2Proof.Machine.execMeFeed l c s
  | .meMma l c ecc => Sys2Proof.Machine.execMeMma l c ecc s
  | .meMmaTileComplete l c upset chk => Sys2Proof.Machine.execMeMmaTileComplete l c upset chk s
  | .meMask l c => Sys2Proof.Machine.execMeMask l c s
  | .meSt l c ecc => Sys2Proof.Machine.execMeSt l c ecc s
  | .meStComplete l c => Sys2Proof.Machine.execMeStComplete l c s
  | .meLdacc l c => Sys2Proof.Machine.execMeLdacc l c s
  | .meZero l c => Sys2Proof.Machine.execMeZero l c s
  | .mePin l c => Sys2Proof.Machine.execMePin l c s
  | .meSeal l c => Sys2Proof.Machine.execMeSeal l c s
  | .meSelftest l c => Sys2Proof.Machine.execMeSelftest l c s
  | .meSelftestDone l c fails => Sys2Proof.Machine.execMeSelftestDone l c fails s
  | .meCtlBcastWrite l c bcast => Sys2Proof.Machine.execMeCtlBcastWrite l c bcast s
  | .bcastModeSwitch l c => Sys2Proof.Machine.execBcastModeSwitch l c s
  | .activityLevelBoundary l c ve => Sys2Proof.Machine.execActivityLevelBoundary l c ve s
  | .veChain l c ecc => Sys2Proof.Machine.execVeChain l c ecc s
  | .veChainComplete l c => Sys2Proof.Machine.execVeChainComplete l c s
  | .veTload l c => Sys2Proof.Machine.execVeTload l c s
  | .veTloadDone l c => Sys2Proof.Machine.execVeTloadDone l c s
  | .veTswap l c => Sys2Proof.Machine.execVeTswap l c s
  | .tswapTakesEffect l c table => Sys2Proof.Machine.execTswapTakesEffect l c table s
  | .seTdesc l c => Sys2Proof.Machine.execSeTdesc l c s
  | .seStart l c => Sys2Proof.Machine.execSeStart l c s
  | .seCopy l c ecc => Sys2Proof.Machine.execSeCopy l c ecc s
  | .seHqcfg l c => Sys2Proof.Machine.execSeHqcfg l c s
  | .seMcast l c => Sys2Proof.Machine.execSeMcast l c s
  | .seFence l c => Sys2Proof.Machine.execSeFence l c s
  | .fenceComplete l c => Sys2Proof.Machine.execFenceComplete l c s
  | .spNop l c x => Sys2Proof.Machine.execSpNop l c x s
  | .spLoop l c x => Sys2Proof.Machine.execSpLoop l c x s
  | .spEndl l c x => Sys2Proof.Machine.execSpEndl l c x s
  | .spXfer l c x ecc => Sys2Proof.Machine.execSpXfer l c x ecc s
  | .spAcq l c x => Sys2Proof.Machine.execSpAcq l c x s
  | .spPush l c x => Sys2Proof.Machine.execSpPush l c x s
  | .spPop l c x => Sys2Proof.Machine.execSpPop l c x s
  | .spRel l c x => Sys2Proof.Machine.execSpRel l c x s
  | .spSetx l c x => Sys2Proof.Machine.execSpSetx l c x s
  | .spWaitt l c x => Sys2Proof.Machine.execSpWaitt l c x s
  | .spEnd l c x => Sys2Proof.Machine.execSpEnd l c x s
  | .transferComplete l c x => Sys2Proof.Machine.execTransferComplete l c x s
  | .releaseNotice l c hq => Sys2Proof.Machine.execReleaseNotice l c hq s
  | .remotePush l c hq => Sys2Proof.Machine.execRemotePush l c hq s
  | .hqStall l c endpoint => Sys2Proof.Machine.execHqStall l c endpoint s
  | .seCtlPause l c pause => Sys2Proof.Machine.execSeCtlPause l c pause s
  | .pacedPeriodEnd ctx => Sys2Proof.Machine.execPacedPeriodEnd ctx s
  | .schedulingTick oc => Sys2Proof.Machine.execSchedulingTick oc s
  | .quantumExpiry ctx => Sys2Proof.Machine.execQuantumExpiry ctx s
  | .load ctx => Sys2Proof.Machine.execLoad ctx s
  | .start ctx => Sys2Proof.Machine.execStart ctx s
  | .step ctx => Sys2Proof.Machine.execStep ctx s
  | .mark ctx => Sys2Proof.Machine.execMark ctx s
  | .entryFinished ctx => Sys2Proof.Machine.execEntryFinished ctx s
  | .ctxCreate => Sys2Proof.Machine.execCtxCreate s
  | .ctxDestroy => Sys2Proof.Machine.execCtxDestroy s
  | .ctxHold => Sys2Proof.Machine.execCtxHold s
  | .ctxResume => Sys2Proof.Machine.execCtxResume s
  | .stashSet => Sys2Proof.Machine.execStashSet s
  | .fabCfg => Sys2Proof.Machine.execFabCfg s
  | .mcastSet => Sys2Proof.Machine.execMcastSet s
  | .ethRing => Sys2Proof.Machine.execEthRing s
  | .fwLoad => Sys2Proof.Machine.execFwLoad s
  | .fwUpdate => Sys2Proof.Machine.execFwUpdate s
  | .detach => Sys2Proof.Machine.execDetach s
  | .reattach => Sys2Proof.Machine.execReattach s
  | .orrLoadBlk value => Sys2Proof.Machine.execOrrLoadBlk value s
  | .orrAdminBaseWrite value => Sys2Proof.Machine.execOrrAdminBaseWrite value s
  | .attach => Sys2Proof.Machine.execAttach s
  | .driverHeartbeatLoss => Sys2Proof.Machine.execDriverHeartbeatLoss s
  | .orrHealthConfirm req => Sys2Proof.Machine.execOrrHealthConfirm req s
  | .confirmWindowExpiry => Sys2Proof.Machine.execConfirmWindowExpiry s
  | .watchdogExpiry oc => Sys2Proof.Machine.execWatchdogExpiry oc s
  | .takeoverComplete oc => Sys2Proof.Machine.execTakeoverComplete oc s
  | .forwardEndBeacon ctx => Sys2Proof.Machine.execForwardEndBeacon ctx s
  | .bwdEnd ctx => Sys2Proof.Machine.execBwdEnd ctx s
  | .tallyResult ctx => Sys2Proof.Machine.execTallyResult ctx s
  | .earlyAbort l c => Sys2Proof.Machine.execEarlyAbort l c s
  | .voteWord ctx v => Sys2Proof.Machine.execVoteWord ctx v s
  | .decision ctx d => Sys2Proof.Machine.execDecision ctx d s
  | .voteTimeout ctx => Sys2Proof.Machine.execVoteTimeout ctx s
  | .decisionRequest ctx step epoch rank => Sys2Proof.Machine.execDecisionRequest ctx step epoch rank s
  | .updateFinished ctx => Sys2Proof.Machine.execUpdateFinished ctx s
  | .commitAcknowledgement ctx step epoch rank => Sys2Proof.Machine.execCommitAcknowledgement ctx step epoch rank s
  | .done ctx step epoch => Sys2Proof.Machine.execDone ctx step epoch s
  | .shardRestore ctx => Sys2Proof.Machine.execShardRestore ctx s
  | .trHandoff xd payload => Sys2Proof.Machine.execTrHandoff xd payload s
  | .bucketStart xd => Sys2Proof.Machine.execBucketStart xd s
  | .segmentData m => Sys2Proof.Machine.execSegmentData m s
  | .memberNotice m => Sys2Proof.Machine.execMemberNotice m s
  | .bucketGraceExpiry tag => Sys2Proof.Machine.execBucketGraceExpiry tag s
  | .closeNotice m => Sys2Proof.Machine.execCloseNotice m s
  | .writeBackData m => Sys2Proof.Machine.execWriteBackData m s
  | .heartbeatSend => Sys2Proof.Machine.execHeartbeatSend s
  | .heartbeat rank epoch step sent => Sys2Proof.Machine.execHeartbeat rank epoch step sent s
  | .heartbeatLimitExpiry rank => Sys2Proof.Machine.execHeartbeatLimitExpiry rank s
  | .failureReport addr epoch rank cause => Sys2Proof.Machine.execFailureReport addr epoch rank cause s
  | .linkUp port info => Sys2Proof.Machine.execLinkUp port info s
  | .flitReceive port flit => Sys2Proof.Machine.execFlitReceive port flit s
  | .resendRequest port seq => Sys2Proof.Machine.execResendRequest port seq s
  | .ackTimeout port => Sys2Proof.Machine.execAckTimeout port s
  | .laneFail port tx lane => Sys2Proof.Machine.execLaneFail port tx lane s
  | .spareLaneCheckDone port tx good => Sys2Proof.Machine.execSpareLaneCheckDone port tx good s
  | .fabStall port cls vc => Sys2Proof.Machine.execFabStall port cls vc s
  | .fabSend req xd request => Sys2Proof.Machine.execFabSend req xd request s
  | .sendComplete xd => Sys2Proof.Machine.execSendComplete xd s
  | .writePacket port p => Sys2Proof.Machine.execWritePacket port p s
  | .writeWithNotice port p => Sys2Proof.Machine.execWriteWithNotice port p s
  | .refusal port src win reason off tick => Sys2Proof.Machine.execRefusal port src win reason off tick s
  | .electionSend => Sys2Proof.Machine.execElectionSend s
  | .election port lowest generation => Sys2Proof.Machine.execElection port lowest generation s
  | .timeMessageSend => Sys2Proof.Machine.execTimeMessageSend s
  | .timeMessage port m => Sys2Proof.Machine.execTimeMessage port m s
  | .delayRequest port t1 => Sys2Proof.Machine.execDelayRequest port t1 s
  | .delayResponse port t1 t2 t3 => Sys2Proof.Machine.execDelayResponse port t1 t2 t3 s
  | .timeLost => Sys2Proof.Machine.execTimeLost s
  | .syncIn => Sys2Proof.Machine.execSyncIn s
  | .syncLost => Sys2Proof.Machine.execSyncLost s
  | .syncOut => Sys2Proof.Machine.execSyncOut s
  | .ptpMessage offset rate => Sys2Proof.Machine.execPtpMessage offset rate s
  | .epochProposal epoch digest => Sys2Proof.Machine.execEpochProposal epoch digest s
  | .proposalAnswer src epoch accept reason => Sys2Proof.Machine.execProposalAnswer src epoch accept reason s
  | .epochCommit epoch firstStep => Sys2Proof.Machine.execEpochCommit epoch firstStep s
  | .heldNotice src held => Sys2Proof.Machine.execHeldNotice src held s
  | .keyReplacement port info => Sys2Proof.Machine.execKeyReplacement port info s
  | .patrolScrub site off ecc => Sys2Proof.Machine.execPatrolScrub site off ecc s
  | .rowRepair site md bank row recOk => Sys2Proof.Machine.execRowRepair site md bank row recOk s
  | .protectedWrite site => Sys2Proof.Machine.execProtectedWrite site s
  | .parityDelta site => Sys2Proof.Machine.execParityDelta site s
  | .sbCtlWrite value => Sys2Proof.Machine.execSbCtlWrite value s
  | .initPassEnd => Sys2Proof.Machine.execInitPassEnd s
  | .seedbankRepair site off => Sys2Proof.Machine.execSeedbankRepair site off s
  | .rebuildEnd => Sys2Proof.Machine.execRebuildEnd s
  | .gddr7CrcRetry xd ch => Sys2Proof.Machine.execGddr7CrcRetry xd ch s
  | .deviceRetrain xd ch slot eyeGood => Sys2Proof.Machine.execDeviceRetrain xd ch slot eyeGood s
  | .unmappedAccess addr acc => Sys2Proof.Machine.execUnmappedAccess addr acc s
  | .report chan => Sys2Proof.Machine.execReport chan s
  | .sealCfg chan => Sys2Proof.Machine.execSealCfg chan s
  | .keyDeliver chan => Sys2Proof.Machine.execKeyDeliver chan s
  | .importBlob chan => Sys2Proof.Machine.execImportBlob chan s
  | .exportBlob chan => Sys2Proof.Machine.execExportBlob chan s
  | .ownerSet chan => Sys2Proof.Machine.execOwnerSet chan s
  | .peerPolicy chan => Sys2Proof.Machine.execPeerPolicy chan s
  | .extendM7 chan => Sys2Proof.Machine.execExtendM7 chan s
  | .svnCommit chan => Sys2Proof.Machine.execSvnCommit chan s
  | .linkAttest chan => Sys2Proof.Machine.execLinkAttest chan s
  | .codeMeasure chan => Sys2Proof.Machine.execCodeMeasure chan s
  | .erase chan => Sys2Proof.Machine.execErase chan s
  | .entropyFail => Sys2Proof.Machine.execEntropyFail s
  | .keyUe slot => Sys2Proof.Machine.execKeyUe slot s
  | .urgentLatch oc ev => Sys2Proof.Machine.execUrgentLatch oc ev s
  | .halt req mask reason => Sys2Proof.Machine.execHalt req mask reason s
  | .haltArrival l c => Sys2Proof.Machine.execHaltArrival l c s
  | .siteHeartbeatLoss site => Sys2Proof.Machine.execSiteHeartbeatLoss site s
  | .coreLost l c => Sys2Proof.Machine.execCoreLost l c s
  | .edgeFail site edge => Sys2Proof.Machine.execEdgeFail site edge s
  | .columnGraft l c fails recOk => Sys2Proof.Machine.execColumnGraft l c fails recOk s
  | .coreGraft l c recOk => Sys2Proof.Machine.execCoreGraft l c recOk s
  | .siteGraft site recOk => Sys2Proof.Machine.execSiteGraft site recOk s
  | .spareSiteRetire site recOk => Sys2Proof.Machine.execSpareSiteRetire site recOk s
  | .stepRestart ctx => Sys2Proof.Machine.execStepRestart ctx s
  | .halfFail xd half => Sys2Proof.Machine.execHalfFail xd half s
  | .hartGraft hart => Sys2Proof.Machine.execHartGraft hart s
  | .frameReceive port prio frame fcsError => Sys2Proof.Machine.execFrameReceive port prio frame fcsError s
  | .descriptorPoll port rx ring => Sys2Proof.Machine.execDescriptorPoll port rx ring s
  | .vinSample v => Sys2Proof.Machine.execVinSample v s
  | .pruneLevelExit => Sys2Proof.Machine.execPruneLevelExit s
  | .overvoltage => Sys2Proof.Machine.execOvervoltage s
  | .orderlyOff => Sys2Proof.Machine.execOrderlyOff s
  | .governorTick watts => Sys2Proof.Machine.execGovernorTick watts s
  | .phaseRetire domain => Sys2Proof.Machine.execPhaseRetire domain s
  | .thermalSample sensor celsius => Sys2Proof.Machine.execThermalSample sensor celsius s
  | .throttleStep => Sys2Proof.Machine.execThrottleStep s
  | .refclkLoss => Sys2Proof.Machine.execRefclkLoss s
  | .refclkReturn => Sys2Proof.Machine.execRefclkReturn s
  | .holdoverExpiry => Sys2Proof.Machine.execHoldoverExpiry s
  | .pllUnlock => Sys2Proof.Machine.execPllUnlock s
  | .serdesPll port => Sys2Proof.Machine.execSerdesPll port s
  | .rstN lowTicks => Sys2Proof.Machine.execRstN lowTicks s
  | .pwrgdFall => Sys2Proof.Machine.execPwrgdFall s
  | .coldStart badSites badDevs cols recOk => Sys2Proof.Machine.execColdStart badSites badDevs cols recOk s
  | .sysRst req value => Sys2Proof.Machine.execSysRst req value s
  | .registerWrite req addr value => Sys2Proof.Machine.execRegisterWrite req addr value s
  | .meLdaccComplete l c => Sys2Proof.Machine.execMeLdaccComplete l c s
  | .spWaittTickReached l c x => Sys2Proof.Machine.execSpWaittTickReached l c x s
  | .beaconQueueDrain l c => Sys2Proof.Machine.execBeaconQueueDrain l c s
  | .gddr7IdleSelfRefresh xd => Sys2Proof.Machine.execGddr7IdleSelfRefresh xd s

end Sys2Proof.Machine
end

