-- ==== Sys2Proof/Machine/Packets.lean ====
section
/-! DEFINITION. What the messages of a module look like on the fabric (11 R334, R341, R342): a message put out becomes
packets of its class on the route to its destination, and a packet delivered here has the effect of its message. Both
happen at the tick that follows. DESIGN CHOICE, assumption 82. -/

namespace Sys2Proof.Machine

/-! ## Layout -/

/-- Fields at their places in n bytes of zeros. -/
def layOut (n : Nat) (fs : List (Nat × List Byte)) : List Byte :=
  fs.foldl (fun b f => b.take f.1 ++ f.2 ++ b.drop (f.1 + f.2.length)) (List.replicate n 0)

/-- A packet (R341): header, then body or data padded to 16 bytes. -/
def packetOf (own dst : BitVec 13) (route kind win off : Nat) (body : List Byte) : List Byte :=
  let n := max 1 ((body.length + 15) / 16)
  leBytes 2 dst.toNat ++ leBytes 2 own.toNat ++ leBytes 8 route ++ leBytes 1 kind ++ leBytes 1 win ++ leBytes 1 (n - 1) ++ [0]
    ++ leBytes 6 off ++ List.replicate 10 0 ++ padTo (16 * n) body

/-- The member notice (10 R309). -/
def noticeBytes (m : MemberNotice) : List Byte :=
  layOut 32 [(0, leBytes 4 m.step.toNat), (4, leBytes 4 m.epoch.toNat), (8, leBytes 2 m.tag.toNat), (10, leBytes 2 m.rank.toNat),
    (12, leBytes 1 (pack [(bit m.shadow, 0), (bit m.nonfinite, 1), (bit m.poison, 2)])), (13, leBytes 1 (intBits 8 m.eMax))]

/-- The signed byte of a field. -/
def signedByte (n : Nat) : Int := if n < 128 then n else (n : Int) - 256

def noticeOf (b : List Byte) : MemberNotice :=
  let f := bfld b 12 1
  { step := BitVec.ofNat 32 (bfld b 0 4), epoch := BitVec.ofNat 32 (bfld b 4 4), tag := BitVec.ofNat 12 (bfld b 8 2),
    rank := BitVec.ofNat 16 (bfld b 10 2), shadow := bitAt f 0, nonfinite := bitAt f 1, poison := bitAt f 2, eMax := signedByte (bfld b 13 1) }

/-- The close notice, header and items (10 R313). -/
def closeBytes (m : CloseNotice) : List Byte :=
  layOut 32 [(0, leBytes 4 m.step.toNat), (4, leBytes 4 m.epoch.toNat), (8, leBytes 2 m.tag.toNat), (10, leBytes 1 (intBits 8 m.kc)),
      (11, leBytes 1 (pack [(bit m.lenient, 0), (bit m.backup, 1), (bit m.nonfinite, 2), (bit m.poison, 3)])),
      (12, leBytes 2 m.excl.length), (14, leBytes 2 m.backups.length), (16, leBytes 2 m.folds.length), (18, leBytes 8 m.closeTick.toNat)]
    ++ (m.excl ++ m.backups).flatMap (fun r => leBytes 2 r ++ [0, 0]) ++ m.folds.flatMap (fun f => leBytes 2 f.1 ++ leBytes 2 f.2)

def closeOf (b : List Byte) : CloseNotice :=
  let f := bfld b 11 1
  let item (i : Nat) : Nat × Nat := (bfld b (32 + 4 * i) 2, bfld b (34 + 4 * i) 2)
  let ne := bfld b 12 2
  let nb := bfld b 14 2
  { step := BitVec.ofNat 32 (bfld b 0 4), epoch := BitVec.ofNat 32 (bfld b 4 4), tag := BitVec.ofNat 12 (bfld b 8 2), kc := signedByte (bfld b 10 1),
    lenient := bitAt f 0, backup := bitAt f 1, nonfinite := bitAt f 2, poison := bitAt f 3,
    excl := (List.range ne).map (fun i => (item i).1), backups := (List.range nb).map (fun i => (item (ne + i)).1),
    folds := (List.range (bfld b 16 2)).map (fun i => item (ne + nb + i)), closeTick := BitVec.ofNat 64 (bfld b 18 8) }

/-- The vote word (09 R282). -/
def voteBytes (v : VoteWord) : List Byte :=
  layOut 16 [(0, leBytes 4 v.step.toNat), (4, leBytes 4 v.epoch.toNat), (8, [voteBits v]), (9, leBytes 2 v.rank.toNat)]

def voteOfBytes (b : List Byte) : VoteWord :=
  let f := bfld b 8 1
  { step := BitVec.ofNat 32 (bfld b 0 4), epoch := BitVec.ofNat 32 (bfld b 4 4), finite := bitAt f 0, complete := bitAt f 1, healthy := bitAt f 2,
    mirrorOk := bitAt f 3, seenCommit := bitAt f 4, earlyAbort := bitAt f 5, rank := BitVec.ofNat 16 (bfld b 9 2) }

/-- Body bytes that hold a subkind, a step and an epoch (R342). -/
def stepBody (n sub : Nat) (step epoch : Word) (fs : List (Nat × List Byte)) : List Byte :=
  layOut n ([(0, leBytes 1 sub), (4, leBytes 4 step.toNat), (8, leBytes 4 epoch.toNat)] ++ fs)

/-! ## Sending -/

/-- Send a packet from an I/O die on the route to its destination; an entry that holds no route sets route_fault (R337). -/
def State.sendPacket (s : State) (x : Nat) (cls : BitVec 2) (dst : BitVec 13) (kind win off : Nat) (body : List Byte) : State :=
  let e := sget (fun _ => (0 : DWord)) (s.xd x).fab.routes dst.toNat
  if !bitAt e.toNat 63 then s.raiseFab x 11 0 dst.toNat win
  else s.route x 16 cls false (packetOf s.fab.addr dst (routeCut e.toNat) kind win off body)

/-- An urgent message (R334) to each of these addresses. -/
def State.tell (s : State) (tos : List (BitVec 13)) (kind : Nat) (body : List Byte) : State :=
  tos.foldl (fun s a => s.sendPacket 0 0 a kind 0 0 body) s

/-- A message to the neighbour at a port, which travels one link. -/
def State.tellPort (s : State) (p kind : Nat) (body : List Byte) : State :=
  if (s.port p).up then s.putPacket p 0 false (packetOf s.fab.addr (s.port p).peer 0 kind 0 0 body) else s

/-- The membership of an epoch, with its context: epochs are unique in a cascade (10 R304). -/
def State.ofEpoch (s : State) (e : Word) : Option (Nat × Membership) :=
  (s.memberCtx (fun m => m.epoch == e)).bind (fun n => (s.ctx n).membership.map (fun m => (n, m)))

/-- This module's place in the tree (10 R302): the address above it, and those below, its shadow among them. DESIGN CHOICE, assumption 82. -/
def State.above (s : State) (e : Word) : List (BitVec 13) :=
  match s.ofEpoch e with
  | some (_, m) =>
    let p := m.place s.fab.addr
    let up := if p.1 == 0 then treeParent p.2 else if p.1 == 1 then some p.2 else none
    (up.bind (fun r => (m.primaries[r]?).map Member.addr)).toList
  | none => []

def State.below (s : State) (e : Word) : List (BitVec 13) :=
  match s.ofEpoch e with
  | some (_, m) =>
    let p := m.place s.fab.addr
    if p.1 != 0 then []
    else (treeChildren m.n p.2).filterMap (fun r => (m.primaries[r]?).map Member.addr)
      ++ (m.members.filter (fun x => x.role == 1 && x.backupOf == p.2)).map Member.addr
  | none => []

/-- The other members of an epoch that take part, shadows among them. -/
def State.peers (s : State) (e : Word) : List (BitVec 13) :=
  match s.ofEpoch e with
  | some (_, m) => ((m.members.filter (fun x => x.role != 2)).map Member.addr).filter (· != s.fab.addr)
  | none => []

/-- Every module this one shares a membership with. -/
def State.companions (s : State) : List (BitVec 13) :=
  ((List.range 16).flatMap (fun n => (((s.ctx n).membership.map (fun m => m.members.map Member.addr)).getD []))).eraseDups.filter (· != s.fab.addr)

/-- Segment data or write-back (kind 2, subkinds 0 and 3) in the Trellis class, at most 4 KiB of body a packet. -/
def State.sendSegment (s : State) (tos : List (BitVec 13)) (sub : Nat) (m : SegmentMsg) : State :=
  let head := layOut 32 [(0, leBytes 1 sub), (2, leBytes 2 m.tag.toNat), (4, leBytes 4 m.step.toNat), (8, leBytes 4 m.epoch.toNat),
    (12, leBytes 2 m.seg), (14, leBytes 2 m.rank.toNat)]
  let ps := pieces 4064 (m.data.length + 1) (m.data.flatMap (fun h => leBytes 2 h.toNat))
  let x := s.dieOf m.tag.toNat
  tos.foldl (fun s a => (ps.zip (List.range ps.length)).foldl (fun s p => s.sendPacket x 1 a 2 0 (4064 * p.2) (head ++ p.1)) s) s

/-- Write data for a receive window (kinds 0 and 1). -/
def State.sendWrite (s : State) (dst : BitVec 13) (cls : BitVec 2) (win : BitVec 4) (off : Nat) (data : List Byte) (notify : Bool) : State :=
  let e := sget (fun _ => (0 : DWord)) (s.xd 0).fab.routes dst.toNat
  let r : SendReq := { dst := dst.toNat, win := win.toNat, cls := cls.toNat, src := 0, len := data.length, off := off, inline := false, notify := notify }
  let d := padTo ((data.length + 15) / 16 * 16) data
  if !bitAt e.toNat 63 then s.raiseFab 0 11 0 dst.toNat win.toNat
  else (packets s.fab.addr.toNat r (routeCut e.toNat) (data.length / 4096 + 1) off d).foldl (fun s p => s.route 0 16 cls false p) s

/-- Put one output on the fabric, where it is a message. -/
def State.mail (s : State) (o : Out) : State :=
  match o with
  | .packet dst cls win off data notify => s.sendWrite dst cls win off data notify
  | .refuse dst win reason off tick =>
    s.tell [dst] 6 (layOut 24 [(2, leBytes 2 s.fab.addr.toNat), (4, leBytes 1 win.toNat), (5, [reason]), (8, leBytes 8 off), (16, leBytes 8 tick.toNat)])
  | .vote v => s.tell (s.above v.epoch) 3 (layOut 32 [(16, voteBytes v)])
  | .decide d => s.tell (s.below d.epoch) 3 (stepBody 16 1 d.step d.epoch [(12, leBytes 1 (bit d.commit)), (13, [d.bits])])
  | .decisionReq step epoch rank => s.tell (s.above epoch) 3 (stepBody 16 2 step epoch [(12, leBytes 2 rank.toNat)])
  | .ack step epoch rank => s.tell (s.above epoch) 3 (stepBody 16 3 step epoch [(12, leBytes 2 rank.toNat)])
  | .doneMsg step epoch => s.tell (s.below epoch) 3 (stepBody 16 4 step epoch [])
  | .heartbeat dst rank epoch step tick =>
    s.tell [dst] 3 (layOut 32 [(0, [5]), (2, leBytes 2 rank.toNat), (4, leBytes 4 epoch.toNat), (8, leBytes 4 step.toNat), (16, leBytes 8 tick.toNat)])
  | .failure addr epoch rank cause =>
    s.tell [s.fab.lodestar] 5 (layOut 16 [(0, [5]), (2, leBytes 2 addr.toNat), (4, leBytes 4 epoch.toNat), (8, leBytes 2 rank.toNat), (10, [cause])])
  | .segment owner m => s.sendSegment [s.rankAddr owner] 0 m
  | .notice head m => s.sendPacket (s.dieOf m.tag.toNat) 1 (s.rankAddr head) 2 0 0 (layOut 32 [(0, [1])] ++ noticeBytes m)
  | .close m => (s.peers m.epoch).foldl (fun s a => s.sendPacket (s.dieOf m.tag.toNat) 1 a 2 0 0 (layOut 32 [(0, [2])] ++ closeBytes m)) s
  | .writeBack m => s.sendSegment (s.peers m.epoch) 3 m
  | .election port lowest generation =>
    s.tellPort port.toNat 5 (layOut 16 [(2, leBytes 2 lowest.toNat), (8, leBytes 4 generation.toNat)])
  | .time m =>
    let b := layOut 48 [(2, leBytes 2 m.lodestar.toNat), (4, leBytes 2 m.hops.toNat), (8, leBytes 4 m.generation.toNat), (16, leBytes 8 m.count.toNat),
      (24, leBytes 8 m.ptpOffset.toNat), (32, leBytes 4 m.ptpRate.toNat)]
    ((List.range 16).filter (fun p => s.isLodestar || p != s.fab.timePort.toNat)).foldl (fun s p => s.tellPort p 4 b) s
  | .delayReq port t1 => s.tellPort port.toNat 4 (layOut 32 [(0, [1]), (16, leBytes 8 t1.toNat)])
  | .delayResp port t1 t2 t3 =>
    s.tellPort port.toNat 4 (layOut 48 [(0, [2]), (16, leBytes 8 t1.toNat), (24, leBytes 8 t2.toNat), (32, leBytes 8 t3.toNat)])
  | .answer epoch accept reason =>
    s.tell [s.fab.lodestar] 5 (layOut 16 [(0, [2]), (4, leBytes 4 epoch.toNat), (8, leBytes 1 (bit !accept)), (9, [reason])])
  | .proposal epoch digest =>
    s.tell ((s.fab.proposal.map s.others).getD []) 5 (layOut 64 [(0, [1]), (4, leBytes 4 epoch.toNat), (32, digest)])
  | .epochCommit epoch first =>
    s.tell (((s.ofEpoch epoch).map (fun m => s.others m.2)).getD []) 5 (layOut 16 [(0, [3]), (4, leBytes 4 epoch.toNat), (8, leBytes 4 first.toNat)])
  | .held addr held =>
    let tos := if addr == s.fab.addr && !s.isLodestar then [s.fab.lodestar] else s.companions.filter (· != addr)
    s.tell tos 5 (layOut 16 [(0, [4]), (2, leBytes 2 addr.toNat), (4, leBytes 1 (bit held))])
  | .reply _ => s
  | .refusedWrite => s
  | .readReg _ => s
  | .delivered _ => s
  | .resendReq _ _ => s
  | .flit _ _ => s
  | .laneReport _ _ _ => s
  | .laneSwitch _ _ => s
  | .linkReport _ _ => s
  | .kem _ _ => s
  | .rekey _ => s
  | .syncPulse _ => s
  | .frame _ _ => s
  | .tally _ => s
  | .snapshot _ _ => s

/-- The outputs since the last tick go out on the fabric. -/
def State.mailOut (s : State) : State :=
  let s := (s.outbox.drop s.fab.mailed).foldl State.mail s
  { s with fab := { s.fab with mailed := s.outbox.length } }

/-! ## Receiving -/

/-- Segment data or write-back comes in pieces, in order on its route: the message is whole with its last element. -/
def State.takePart (s : State) (back : Bool) (m : SegmentMsg) (off : Nat) : State :=
  let t := m.tag.toNat
  let whole (s : State) (m : SegmentMsg) : State := if back then s.writeBackAt m else s.segmentAt m
  let same (q : SegmentMsg × Bool) : Bool :=
    q.2 == back && q.1.tag == m.tag && q.1.step == m.step && q.1.epoch == m.epoch && q.1.seg == m.seg && q.1.rank == m.rank && q.1.shadow == m.shadow
  match s.tag t with
  | none => whole s m
  | some e =>
    let u := segUnits e.units (segCount s.self.n e.units) m.seg
    let n := 256 * (u.2 - u.1)
    let got := if off == 0 then [] else ((s.fab.parts.find? same).map (fun q => q.1.data)).getD []
    let d := (got ++ m.data).take n
    let s := { s with fab := { s.fab with parts := s.fab.parts.filter (fun q => !same q) } }
    if m.epoch != s.self.epoch || d.length ≥ n then whole s { m with data := d }
    else { s with fab := { s.fab with parts := s.fab.parts ++ [({ m with data := d }, back)] } }

/-- A delivered packet: a write of R343, or the message of its kind and subkind (R342). -/
def State.takeIn (s : State) (p : Nat) (cls : BitVec 2) (bs : List Byte) : State :=
  let src := BitVec.ofNat 13 (bfld bs 2 2)
  let port := BitVec.ofNat 4 p
  let n := 16 * (bfld bs 14 1 + 1)
  let off := bfld bs 16 6
  let b := (bs.drop 32).take n
  let sub := bfld b 0 1
  let word (i : Nat) : Word := BitVec.ofNat 32 (bfld b i 4)
  let half (i : Nat) : Half := BitVec.ofNat 16 (bfld b i 2)
  let dword (i : Nat) : DWord := BitVec.ofNat 64 (bfld b i 8)
  let addr (i : Nat) : BitVec 13 := BitVec.ofNat 13 (bfld b i 2)
  let ctx (e : Word) : BitVec 4 := BitVec.ofNat 4 (((s.ofEpoch e).map Prod.fst).getD 0)
  let w : WritePacket := { src := src, cls := cls, win := BitVec.ofNat 4 (bfld bs 13 1), off := BitVec.ofNat 48 off, data := b, last := true }
  let seg : SegmentMsg :=
    { tag := BitVec.ofNat 12 (bfld b 2 2), step := word 4, epoch := word 8, seg := bfld b 12 2, rank := half 14,
      shadow := sub == 0 && ((s.membership.map (fun m => (m.place src).1 == 1)).getD false),
      data := (List.range ((n - 32) / 2)).map (fun i => half (32 + 2 * i)) }
  match bfld bs 12 1, sub with
  | 0, _ => s.rxWrite p w false
  | 1, _ => s.rxWrite p w true
  | 2, 0 => s.takePart false seg off
  | 2, 1 => s.noticeAt (noticeOf (b.drop 32))
  | 2, 2 => s.closeNoticeAt (closeOf (b.drop 32))
  | 2, 3 => s.takePart true seg off
  | 3, 0 => let v := voteOfBytes (b.drop 16); if (s.ofEpoch v.epoch).isSome then s.voteWordAt (ctx v.epoch) v else s
  | 3, 1 => if (s.ofEpoch (word 8)).isSome then
      s.decisionAt (ctx (word 8)) { step := word 4, epoch := word 8, commit := bfld b 12 1 == 1, bits := BitVec.ofNat 8 (bfld b 13 1) } else s
  | 3, 2 => if (s.ofEpoch (word 8)).isSome then s.decisionAsked (ctx (word 8)) (word 4) (word 8) (half 12) else s
  | 3, 3 => if (s.ofEpoch (word 8)).isSome then s.commitAckAt (ctx (word 8)) (word 4) (word 8) (half 12) else s
  | 3, 4 => if (s.ofEpoch (word 8)).isSome then s.doneAt (ctx (word 8)) (word 4) (word 8) else s
  | 3, _ => s.heartbeatAt src (half 2) (word 4) (word 8) (dword 16)
  | 4, 0 => s.timeMessage port
      { lodestar := addr 2, hops := half 4, generation := word 8, count := dword 16, ptpOffset := dword 24, ptpRate := word 32 }
  | 4, 1 => s.delayAsked port (dword 16)
  | 4, _ => s.delayAnswered port (dword 16) (dword 24) (dword 32)
  | 5, 0 => s.elect port (addr 2) (word 8)
  | 5, 1 => s.proposal src (word 4) ((b.drop 32).take 32)
  | 5, 2 => s.proposalAnswer src (word 4) (bfld b 8 1 == 0)
  | 5, 3 => s.epochCommitAt src (word 4) (word 8)
  | 5, 4 => s.heldAt (addr 2) (bfld b 4 1 == 1)
  | 5, _ => s.failureAt (addr 2) (word 4) (half 8) (BitVec.ofNat 8 (bfld b 10 1))
  | _, _ => s.refusalAt port (addr 2) (BitVec.ofNat 8 (bfld b 4 1)) (BitVec.ofNat 8 (bfld b 5 1)) (dword 8) (dword 16)

/-- The packets delivered since the last tick have their effects. -/
def State.readInbox (s : State) : State :=
  let ms := s.fab.inbox
  ms.foldl (fun s m => s.takeIn m.1 m.2.1 m.2.2) { s with fab := { s.fab with inbox := [] } }

end Sys2Proof.Machine
end

