-- ==== Sys2Proof/Machine/Tick.lean ====
section
/-! DEFINITION. The passing of one sidereal tick, which is what a step does on an empty queue (assumption 8): the
counter (16 R484, 11 R351), the cycle counters and activity credits of the cores (03 R87, R96; 04 R135, R140; 07 R223;
08 R262), window writes reaching IMEM (08 R251), the end of a SYNC_OUT pulse (11 R352), the delay requests of the links
(R351), the messages that leave and reach the module (R342), and what the OS does at its interrupt controller (13 R387). -/

namespace Sys2Proof.Machine

/-- One feed step of the job that feeds: its lines go down by one. -/
def stepFeed : List MeJob → List MeJob
  | [] => []
  | j :: r => match j.work with
    | .mma t vals checks rel p (left + 1) => { j with work := .mma t vals checks rel p left } :: r
    | _ => j :: stepFeed r

/-- One core cycle of the array (R87): while a product feeds, the credit grows by the level; at 8 × p a feed step
advances. -/
def Me.cycle (m : Me) (waits : Bool) : Me :=
  let m := if waits then { m with waitCnt := m.waitCnt + 1 } else m
  match m.jobs.find? (fun j => j.work.feeding) with
  | some { work := .mma _ _ _ _ p _, .. } =>
    let c := m.credit + m.level.toNat
    if 8 * p ≤ c then { m with credit := c - 8 * p, busyCnt := m.busyCnt + 1, jobs := stepFeed m.jobs } else { m with credit := c }
  | _ => m

/-- A product that has fed its last line still holds handles. -/
def MeWork.spent (w : MeWork) : Bool := !w.feeding && !w.handles.isEmpty

/-- The command at the head of the ME queue waits for its tile (R83), or for a handle of a feed (R78). DEDUCED, assumption 68. -/
def Core.meWaits (c : Core) : Bool :=
  match c.me.queue.head? with
  | none => false
  | some q =>
    let t := fld q.w 24 4
    let writes := [0x20, 0x31, 0x32, 0x40, 0x50].contains q.op
    (writes && c.tileRead t q.order) || ((writes || q.op == 0x30) && c.tileWritten t q.order)
      || (q.op == 0x20 && c.se.waits.any (fun w => decide (0x10 ≤ w.endpoint.toNat ∧ w.endpoint.toNat < 0x14)))

/-- The VE.CHAIN at the head of the queue waits (R107, R110, R112, R131). DEDUCED, assumption 68. -/
def Core.veWaits (c : Core) : Bool :=
  match c.ve.queue.head? with
  | none => false
  | some q =>
    q.op == 0x60 && (c.ve.chainHeld || (c.chainTiles q).any (fun t => c.tileWritten t q.order)
      || c.se.waits.any (fun w => decide (0x20 ≤ w.endpoint.toNat ∧ w.endpoint.toNat < 0x22)))

/-- One core cycle of the lanes (04 R135). -/
def Ve.cycle (v : Ve) (waits : Bool) : Ve :=
  let v := if waits then { v with waitCnt := v.waitCnt + 1 } else v
  if v.chain.isSome then
    let c := v.credit + v.level.toNat
    if 8 ≤ c then { v with credit := c - 8, busyCnt := v.busyCnt + 1 } else { v with credit := c }
  else v

/-- The SE.START or SE.COPY at the head of the queue names a running context (07 R191). DEDUCED, assumption 68. -/
def Se.waitsHead (e : Se) : Bool :=
  match e.queue.head? with
  | some q => [0x80, 0x88].contains q.op && (e.ctx (fld q.w 24 3)).running
  | none => false

/-- One core cycle of a core that is on; control cycles are the even ones (16 R482). DESIGN CHOICE, assumption 8. -/
def Core.cycle (c : Core) (slots : Nat) (even : Bool) : Core :=
  let cc := c.cc.drainImem
  let cc := if even && !([0, 6, 7].contains cc.st.code) then { cc with perf := { cc.perf with cycle := cc.perf.cycle + 1 } } else cc
  { c with
    cc := cc, me := c.me.cycle c.meWaits, ve := c.ve.cycle c.veWaits,
    se := (if c.se.waitsHead then { c.se with waitCnt := c.se.waitCnt + 1 } else c.se).issueAll slots }

/-- Every core of a list, those on a dark site apart. -/
def cycleCores (dark : Nat → Bool) (slots : Nat) (even : Bool) : Sparse Core → Sparse Core :=
  List.map (fun x : Nat × Core => if dark (x.1 / 64) then x else (x.1, x.2.cycle slots even))

/-- Products that have fed their last line release the handles of their feeds (07 R210). -/
def State.endFeeds (s : State) : State :=
  ((s.cores.filter (fun x : Nat × Core => x.2.me.jobs.any (fun j => j.work.spent))).map Prod.fst).foldl
    (fun s k => s.endFeed k MeWork.spent) s

/-- The count after a tick: one more, and the correction of the lodestar's time once (R351). DESIGN CHOICE, assumption 8. -/
def State.nextTick (s : State) : DWord := BitVec.ofInt 64 (s.tick.toNat + 1 + s.fab.adjust)

/-- One sidereal tick. With its domain off, or the root PLL unlocked, the counter stands (R484). DESIGN CHOICE, assumption 8. -/
def State.tickOnce (s : State) : State :=
  if s.pwr.off || !s.clk.locked then s
  else
    let t := s.nextTick
    { s with
      tick := t, fab := { s.fab with adjust := 0 }, cores := cycleCores s.dark s.pwr.slots (t.toNat % 2 == 0) s.cores,
      pins := { s.pins with syncOut := s.pins.syncOut && decide (t.toNat % 65536 < 8) } : State }.endFeeds.readInbox.askDelays.mailOut.hostTick

end Sys2Proof.Machine
end

