-- ==== Sys2Proof/Machine/Step.lean ====
section
/-! DEFINITION. The step of the block: take the command at the front of the queue. -/

namespace Sys2Proof.Machine

/-- The command at the front of the queue, run with the queue's rest. On an empty queue one sidereal tick passes in
place of idling (assumption 8). -/
def step (s : State) : Host.Outcome State Fault Refusal :=
  match s.pending with
  | [] => .next s.tickOnce
  | c :: rest => exec c { s with pending := rest }

/-- The command that a word spells, put at the front of the queue. DESIGN CHOICE, assumption 1. -/
def State.withFetchWord (s : State) (nbits w : Nat) : State :=
  match Sys2Proof.decodeTableWord nbits w with
  | some c => { s with pending := c :: s.pending }
  | none => s

end Sys2Proof.Machine
end

