-- ==== Sys2Proof/Safety.lean ====
section
/-! DEFINITION. What claims call a good run: every step answers a next state, and the invariant that no fused-off site
ever comes back (00 R4). -/

namespace Sys2Proof

open Sys2Proof.Machine

/-- The step of a state answers this state. -/
def Steps (s t : State) : Prop := step s = .next t

/-- A run of the block. -/
inductive Runs : State → State → Prop where
  | refl (s : State) : Runs s s
  | tail {s t u : State} : Runs s t → Steps t u → Runs s u

/-- Nothing stops the machine in this state. -/
def Safe (s : State) : Prop := ∃ t, Steps s t

/-- Two states that differ in one physical core at most: the frame of a command that works in one core. -/
def OnlyCore (k : Nat) (s t : State) : Prop :=
  { t with cores := s.cores } = s ∧ ∀ j, j ≠ k → t.core j = s.core j

/-- Of core `k`, only its control core differs. -/
def OnlyCc (k : Nat) (s t : State) : Prop :=
  OnlyCore k s t ∧ { t.core k with cc := (s.core k).cc } = s.core k

/-- Core `k` takes the head of its ME queue, leaving `rest`: one more command is started, and outside the matrix engine
and its counts nothing changes. -/
def MeTakes (k : Nat) (rest : List QEntry) (s t : State) : Prop :=
  OnlyCore k s t ∧ { t.core k with me := (s.core k).me, cc := (s.core k).cc } = s.core k ∧
  { (t.core k).cc with meCnt := (s.core k).cc.meCnt } = (s.core k).cc ∧
  (t.core k).cc.meCnt.issued = (s.core k).cc.meCnt.issued ∧
  (t.core k).cc.meCnt.started = (s.core k).cc.meCnt.started + 1 ∧ (t.core k).me.queue = rest

/-- Core `k` takes the head of its VE queue, leaving `rest`. -/
def VeTakes (k : Nat) (rest : List QEntry) (s t : State) : Prop :=
  OnlyCore k s t ∧ { t.core k with ve := (s.core k).ve, cc := (s.core k).cc } = s.core k ∧
  { (t.core k).cc with veCnt := (s.core k).cc.veCnt } = (s.core k).cc ∧
  (t.core k).cc.veCnt.issued = (s.core k).cc.veCnt.issued ∧
  (t.core k).cc.veCnt.started = (s.core k).cc.veCnt.started + 1 ∧ (t.core k).ve.queue = rest

/-- Core `k` takes the head of its SE queue, leaving `rest`. -/
def SeTakes (k : Nat) (rest : List QEntry) (s t : State) : Prop :=
  OnlyCore k s t ∧ { t.core k with se := (s.core k).se, cc := (s.core k).cc } = s.core k ∧
  { (t.core k).cc with seCnt := (s.core k).cc.seCnt } = (s.core k).cc ∧
  (t.core k).cc.seCnt.issued = (s.core k).cc.seCnt.issued ∧
  (t.core k).cc.seCnt.started = (s.core k).cc.seCnt.started + 1 ∧ (t.core k).se.queue = rest

/-- Stream context `x` of core `k` stands at instruction `w` and may run it (07 R201, R222). -/
def AtInstr (s : State) (k x : Nat) (w : DWord) : Prop :=
  ((s.core k).se.ctx x).running = true ∧ ((s.core k).se.ctx x).ending = false ∧ (s.core k).se.pause = false ∧
  s.pwr.level.toNat < 3 ∧ ((s.core k).se.ctx x).toIssue = [] ∧
  ∃ p, ((s.core k).se.ctx x).prog = some p ∧ p.code[((s.core k).se.ctx x).pc]? = some w

/-- Of the machine only stream context `x` of core `k`, and the waits of that core's endpoints, may differ. -/
def OnlySeCtx (k x : Nat) (s t : State) : Prop :=
  OnlyCore k s t ∧ { t.core k with se := (s.core k).se } = s.core k ∧
  { (t.core k).se with ctxs := (s.core k).se.ctxs, waits := (s.core k).se.waits } = (s.core k).se ∧
  ∀ y, y ≠ x → (t.core k).se.ctx y = (s.core k).se.ctx y

/-- Command number `n` of an engine completes (08 R243): in issue order it counts as done at once. -/
def Completes (n : Half) (a b : EngCnt) : Prop :=
  b.issued = a.issued ∧ (a.early = [] → n = a.done + 1 → b.done = a.done + 1 ∧ b.early = [])

/-- The byte of memory that an address of the physical view names: GDDR7, a bed, or a core's window. -/
def Machine.State.cell (s : State) (a : Nat) : Option (Nat × Nat × Nat) :=
  match place a with
  | .gddr b => some (0, 0, b)
  | .bed p o => some (1, p, o)
  | .core p c o => some (2, s.keyOf p c, o)
  | _ => none

/-- What landing writes does to the memories: a scratchpad or bed byte that no write names keeps its value, a GDDR7 byte
keeps it when no write names its 64-byte unit, and a byte that one write names takes it (a bed byte outside the protected
region at once, 12 R366; none of a site that is gone, 01 R27; a GDDR7 byte where its slot holds a key and it is no stash metadata). -/
def Landed (ws : List Wr) (s t : State) : Prop :=
  (∀ j o, (∀ w ∈ ws, s.cell w.a ≠ some (2, j, o)) → (t.core j).sp.get o = (s.core j).sp.get o) ∧
  (∀ p o, (∀ w ∈ ws, s.cell w.a ≠ some (1, p, o)) → (t.site p).bed.get o = (s.site p).bed.get o) ∧
  (∀ a, (∀ w ∈ ws, ∀ b, s.cell w.a = some (0, 0, b) → b / 64 ≠ a / 64) → t.gddr.mem.get a = s.gddr.mem.get a) ∧
  (∀ w ∈ ws, w.mask = 0xFF → s.wrGone w = false → (∀ v ∈ ws, s.cell v.a = s.cell w.a → v = w) →
    (∀ j o, s.cell w.a = some (2, j, o) → o < 0x400000 → (t.core j).sp.get o = w.b) ∧
    (∀ p o, s.cell w.a = some (1, p, o) → o < bedSize → s.isProtected o = false → (t.site p).bed.get o = w.b) ∧
    (∀ a, s.cell w.a = some (0, 0, a) → s.slotGen (s.xtsSlot a) ≠ 0 → s.stashMeta a = false →
      (∀ v ∈ ws, ∀ b, s.cell v.a = some (0, 0, b) → b / 64 = a / 64 → s.xtsSlot b = s.xtsSlot a) →
      t.gddr.mem.get a = w.b))

/-- A site that manufacture fused off (00 R4) keeps that role, and neither the graft map nor the retirement record
brings it into service. -/
def FusedOff (s : State) : Prop :=
  (∀ p ∈ s.part.fused, p < 64 → s.role p = .fusedOff) ∧
  (∀ l p, sget (fun _ => none) s.grid.map l = some p → p ∉ s.part.fused) ∧
  (∀ r ∈ s.flash.record, r.phys.toNat ∉ s.part.fused ∧ ∀ q, r.spare = some q → q.toNat ∉ s.part.fused)

/-- Two states that differ at most in what an orrery write, an Almanac entry or a leaf cause of the shared blocks touches:
GDDR7 and its controllers, the Almanac, the free values, the orrery, host and fault blocks. -/
def OnlyRecords (s t : State) : Prop :=
  { t with
    gddr := s.gddr, xds := s.xds, alms := s.alms, almHead := s.almHead, freeCtr := s.freeCtr, orr := s.orr, host := s.host,
    gis := s.gis } = s

/-- GDDR7 holds these runs of bytes, wherever one key slot covers the 64-byte unit and holds a key, and no stash metadata
lies (12 R377, 09 R278). -/
def Holds (t : State) (runs : List (Nat × List Byte)) : Prop :=
  ∀ r ∈ runs, ∀ i, i < r.2.length → (∀ b, b / 64 = (r.1 + i) / 64 → t.xtsSlot b = t.xtsSlot (r.1 + i)) →
    t.slotGen (t.xtsSlot (r.1 + i)) ≠ 0 → t.stashMeta (r.1 + i) = false → t.gddr.mem.get (r.1 + i) = r.2.getD i 0

/-- GDDR7 differs at most in the 64-byte units of these runs. -/
def OnlyRuns (runs : List (Nat × List Byte)) (s t : State) : Prop :=
  ∀ a, (∀ r ∈ runs, ∀ i, i < r.2.length → (r.1 + i) / 64 ≠ a / 64) → t.gddr.mem.get a = s.gddr.mem.get a

/-- The next admin entry of an open admin ring is the 64 bytes `b`, of code `code`, its reserved head bytes 0 (13 R403,
R406). -/
def AdminEntry (s : State) (code : Nat) (b : List Byte) : Prop :=
  s.adminOpen = true ∧ s.adminIdxBad = false ∧ s.adminFront = some b ∧ bfld b 0 1 = code ∧ bfld b 1 3 = 0 ∧
  (s.orr.fwState ≠ 0 ∨ code = 0x20) ∧ areaOk s.orr.adminAddr 41088 = true

/-- What completing an admin entry writes (13 R403, R406): the consumer index, the 32-byte record, the producer index. -/
def adminRuns (s : State) (b : List Byte) (status : Nat) : List (Nat × List Byte) :=
  [(s.orr.adminAddr + 64, leBytes 8 (s.orr.adminCons + 1)),
   (ringAt s.orr.adminCpl 32 256 s.orr.adminProd, completion (BitVec.ofNat 32 (bfld b 4 4)) (BitVec.ofNat 8 status) 0 0 s.tick 0),
   (s.orr.adminCpl, leBytes 8 (s.orr.adminProd + 1))]

/-- The admin entry is completed with a status: both indices one up, the record written, PLIC source 17 raised. -/
def AdminDone (s t : State) (b : List Byte) (status : Nat) : Prop :=
  t.orr.adminCons = s.orr.adminCons + 1 ∧ t.orr.adminProd = s.orr.adminProd + 1 ∧ t.host.plic.getLsbD 17 = true ∧
  Holds t (adminRuns s b status)

/-- Of the contexts only `n` differs. -/
def OnlyCtx (n : Nat) (s t : State) : Prop := ∀ m, m ≠ n → t.ctx m = s.ctx m

/-- A request of this code waits in a channel of the security block, as record `q` reads it, and it is the channel's turn
(14 R432). -/
def SecAsked (s : State) (chan : Bool) (code : Nat) (q : SecReq) : Prop :=
  (s.chan chan).busy = true ∧ readReq (s.chan chan).record = q ∧ q.code = code ∧ q.reserved = false ∧
  s.sec.otherTurn chan = false

/-- The request of a channel ends with a result: the channel is free and was served last, the other channel stands (14
R432, R433). -/
def SecEnds (s t : State) (chan : Bool) (result : Nat) (q : SecReq) : Prop :=
  t.chan chan = { s.chan chan with busy := false, result := BitVec.ofNat 3 result, seq := BitVec.ofNat 32 q.seq } ∧
  t.chan (!chan) = s.chan (!chan) ∧ t.sec.last = some chan

/-- The state once a channel is being served and the block has read these areas: what the reads met in GDDR7 is recorded
(12 R377, 13 R392). -/
def Machine.State.secSaw (s : State) (chan : Bool) (areas : List (Nat × Nat)) : State :=
  ({ s with sec := { s.sec with last := some chan } } : State).seenRuns .security areas

/-- The request ends with a result; beyond the areas read for it the machine is as it was. -/
def SecRefuses (i : Instr) (s : State) (chan : Bool) (result : Nat) (areas : List (Nat × Nat)) (q : SecReq) : Prop :=
  let u := s.secSaw chan areas
  ∃ t, exec i s = .next t ∧ { t with sec := u.sec } = u ∧ { t.sec with ch0 := u.sec.ch0, ch1 := u.sec.ch1 } = u.sec ∧
    SecEnds s t chan result q

/-- The commands that serve a channel's request, with their codes (14 R433). -/
def secCommands (chan : Bool) : List (Nat × Instr) :=
  [(0x01, .report chan), (0x02, .sealCfg chan), (0x03, .keyDeliver chan), (0x04, .importBlob chan), (0x05, .exportBlob chan),
   (0x06, .ownerSet chan), (0x07, .peerPolicy chan), (0x08, .extendM7 chan), (0x09, .svnCommit chan), (0x10, .linkAttest chan),
   (0x11, .codeMeasure chan), (0x12, .erase chan)]

/-- The graft that an urgent event calls for, with the contexts its HALT names (15 R447, R449, R453–R456, R512): a checksum
mismatch a column graft, an uncorrectable IMEM word a reload and the second a core graft, a lost core a core graft, a site
fault a site graft, or the retirement of a spare. -/
def graftFor (s : State) (u : Urgent) : Option Graft :=
  let ofSite (p : Nat) : Option Graft :=
    match s.role p with
    | .active => some { kind := 2, site := p, core := 0, tick := u.tick, mask := s.siteMask p }
    | .spare => some { kind := 4, site := p, core := 0, tick := u.tick, mask := s.siteMask p }
    | _ => none
  let ofCore (kind k : Nat) : Option Graft :=
    some { kind := kind, site := k / 64, core := (s.whoIs k).2, tick := u.tick, mask := s.maskOf (k / 64) }
  match u.leaf with
  | .me k => if u.bit = 0 then ofCore 0 k else none
  | .cc k => if u.bit = 11 then ofCore (if 2 ≤ (s.core k).cc.imemUes then 1 else 5) k else none
  | .site p =>
    if u.bit = 0 then some { kind := 1, site := p, core := u.arg, tick := u.tick, mask := s.maskOf p }
    else if u.bit = 1 then none else ofSite p
  | .siteLost => ofSite u.bit
  | _ => none

end Sys2Proof
end

