-- ==== Sys2Proof/WellFormed.lean ====
section
/-! DEFINITION. Which commands can occur on the hardware: the ranges the spec gives the operands that their Lean types do
not already bound. `exec` is total, so a command outside these ranges has a meaning too; none arrives. -/

namespace Sys2Proof

/-- The orrery cores are OC0–OC19 (13 R396). -/
def ocOk (oc : BitVec 5) : Bool := decide (oc.toNat < 20)

def Requester.wf : Requester → Bool
  | .orrery oc => ocOk oc
  | _ => true

/-- The bytes of an access. -/
def Access.size : Access → Nat
  | .read n => n
  | .write bs => bs.length

/-- A core-window access has 4–64 bytes, a power of two (08 R231). -/
def Access.wf (a : Access) : Bool := [4, 8, 16, 32, 64].contains a.size

/-- The 64-bit words of the memories that an error names: scratchpad 4 MiB, accumulator buffer 1 MiB, DMEM 64 KiB, IMEM
128 KiB a bank (08 R231), a bed 768 MiB (01 R20). -/
def EccHit.wf (e : EccHit) : Bool :=
  match e.at_ with
  | .sp => decide (e.word < 2 ^ 19)
  | .acc => decide (e.word < 2 ^ 17)
  | .dmem => decide (e.word < 2 ^ 13)
  | .imemA => decide (e.word < 2 ^ 14)
  | .imemB => decide (e.word < 2 ^ 14)
  | .vtab => true
  | .vrow => true
  | .bed _ => decide (e.word < 96 * 2 ^ 20)
  | .spOf _ _ => decide (e.word < 2 ^ 19)

/-- Endpoint codes (07 R207): stream contexts 0–7 as 1–8, ME feeds 10h–13h, VE inputs and outputs 20h, 21h. -/
def endpointOk (e : Byte) : Bool :=
  decide (1 ≤ e.toNat ∧ e.toNat ≤ 8) || decide (0x10 ≤ e.toNat ∧ e.toNat ≤ 0x13) || decide (0x20 ≤ e.toNat ∧ e.toNat ≤ 0x21)

/-- A packet's class is 0–2 and its data 16 bytes to 4 KiB in units of 16 (11 R341). -/
def WritePacket.wf (p : WritePacket) : Bool :=
  decide (p.cls.toNat < 3 ∧ p.data.length % 16 = 0 ∧ 16 ≤ p.data.length ∧ p.data.length ≤ 4096)

/-- Where the exchange of keys is over, its parts have their lengths: nonces of 64 bytes, a report of 3,072, an encapsulation
key or ciphertext of 1,568 (11 R356, 14 R434, R437). -/
def LinkUpInfo.wf (i : LinkUpInfo) : Bool :=
  !i.attested || (i.sent.length == 64 && i.nonce.length == 64 && i.report.length == 3072 && i.kem.length == 1568)

/-- The bed offset of a 64-bit word (01 R20). -/
def wordOffOk (off : BitVec 30) : Bool := decide (off.toNat % 8 = 0 ∧ off.toNat < 768 * 2 ^ 20)

/-- The devices, sites and columns that start-up tests: 64 sites, 4 dies of 13 GDDR7 devices, cores by 64 × site + core
with 34 cores a site. -/
def coldOk (badSites : List Nat) (badDevs : List (Nat × Nat)) (cols : List (Nat × BitVec 130)) : Bool :=
  badSites.all (fun p => decide (p < 64)) && badDevs.all (fun d => decide (d.1 < 4 ∧ d.2 < 13))
    && cols.all (fun c => decide (c.1 < 4096 ∧ c.1 % 64 < 34))

/-- The command can occur. -/
def Instr.wf : Instr → Bool
  | .bundle _ _ _ _ => true
  | .ccStart _ _ _ _ _ => true
  | .ccCtlPause _ _ _ => true
  | .ccDbgResume _ _ => true
  | .ccImemVerWrite _ _ _ _ => true
  | .ccXregAccess _ _ _ _ => true
  | .coreWindowAccess req _ _ off acc ecc => req.wf && acc.wf && decide (off.toNat % acc.size = 0) && ecc.all EccHit.wf
  | .meFeed _ _ => true
  | .meMma _ _ ecc => ecc.all EccHit.wf
  | .meMmaTileComplete _ _ _ _ => true
  | .meMask _ ⟨_, ecc⟩ => ecc.all EccHit.wf
  | .meSt _ _ ecc => ecc.all EccHit.wf
  | .meStComplete _ _ => true
  | .meLdacc _ ⟨_, ecc⟩ => ecc.all EccHit.wf
  | .meZero _ _ => true
  | .mePin _ _ => true
  | .meSeal _ _ => true
  | .meSelftest _ _ => true
  | .meSelftestDone _ _ _ => true
  | .meCtlBcastWrite _ _ _ => true
  | .bcastModeSwitch _ _ => true
  | .activityLevelBoundary _ _ _ => true
  | .veChain _ _ ecc => ecc.all EccHit.wf
  | .veChainComplete _ _ => true
  | .veTload _ ⟨_, ecc⟩ => ecc.all EccHit.wf
  | .veTloadDone _ _ => true
  | .veTswap _ _ => true
  | .tswapTakesEffect _ _ _ => true
  | .seTdesc _ ⟨_, ecc⟩ => ecc.all EccHit.wf
  | .seStart _ ⟨_, ecc⟩ => ecc.all EccHit.wf
  | .seCopy _ _ ⟨_, ecc⟩ => ecc.all EccHit.wf
  | .seHqcfg _ ⟨_, ecc⟩ => ecc.all EccHit.wf
  | .seMcast _ _ => true
  | .seFence _ _ => true
  | .fenceComplete _ _ => true
  | .spNop _ _ _ => true
  | .spLoop _ _ _ => true
  | .spEndl _ _ _ => true
  | .spXfer _ _ _ ⟨_, ecc⟩ => ecc.all EccHit.wf
  | .spAcq _ _ _ => true
  | .spPush _ _ _ => true
  | .spPop _ _ _ => true
  | .spRel _ _ _ => true
  | .spSetx _ _ _ => true
  | .spWaitt _ _ _ => true
  | .spEnd _ _ _ => true
  | .transferComplete _ _ _ => true
  | .releaseNotice _ _ _ => true
  | .remotePush _ _ _ => true
  | .hqStall _ _ endpoint => endpointOk endpoint
  | .seCtlPause _ _ _ => true
  | .pacedPeriodEnd _ => true
  | .schedulingTick oc => ocOk oc
  | .quantumExpiry _ => true
  | .load _ => true
  | .start _ => true
  | .step _ => true
  | .mark _ => true
  | .entryFinished _ => true
  | .ctxCreate => true
  | .ctxDestroy => true
  | .ctxHold => true
  | .ctxResume => true
  | .stashSet => true
  | .fabCfg => true
  | .mcastSet => true
  | .ethRing => true
  | .fwLoad => true
  | .fwUpdate => true
  | .detach => true
  | .reattach => true
  | .orrLoadBlk _ => true
  | .orrAdminBaseWrite _ => true
  | .attach => true
  | .driverHeartbeatLoss => true
  | .orrHealthConfirm req => req.wf
  | .confirmWindowExpiry => true
  | .watchdogExpiry oc => ocOk oc
  | .takeoverComplete oc => ocOk oc
  | .forwardEndBeacon _ => true
  | .bwdEnd _ => true
  | .tallyResult _ => true
  | .earlyAbort _ _ => true
  | .voteWord _ _ => true
  | .decision _ _ => true
  | .voteTimeout _ => true
  | .decisionRequest _ _ _ _ => true
  | .updateFinished _ => true
  | .commitAcknowledgement _ _ _ _ => true
  | .done _ _ _ => true
  | .shardRestore _ => true
  | .trHandoff _ payload => payload.length == 64
  | .bucketStart _ => true
  | .segmentData _ => true
  | .memberNotice _ => true
  | .bucketGraceExpiry ⟨_, _⟩ => true
  | .closeNotice _ => true
  | .writeBackData _ => true
  | .heartbeatSend => true
  | .heartbeat ⟨_, _⟩ _ _ _ => true
  | .heartbeatLimitExpiry ⟨_, _⟩ => true
  | .failureReport _ _ _ _ => true
  | .linkUp _ info => info.wf
  | .flitReceive _ flit => flit.length == 512
  | .resendRequest _ _ => true
  | .ackTimeout _ => true
  | .laneFail _ _ ⟨lane, _⟩ => decide (lane.toNat < 9)
  | .spareLaneCheckDone _ _ ⟨_, _⟩ => true
  | .fabStall _ cls _ => decide (cls.toNat < 3)
  | .fabSend req _ request => req.wf && [64, 128].contains request.length
  | .sendComplete _ => true
  | .writePacket _ p => p.wf
  | .writeWithNotice _ p => p.wf
  | .refusal _ _ _ _ _ _ => true
  | .electionSend => true
  | .election _ _ _ => true
  | .timeMessageSend => true
  | .timeMessage _ _ => true
  | .delayRequest _ _ => true
  | .delayResponse _ _ _ _ => true
  | .timeLost => true
  | .syncIn => true
  | .syncLost => true
  | .syncOut => true
  | .ptpMessage _ _ => true
  | .epochProposal ⟨_, _⟩ _ => true
  | .proposalAnswer _ _ _ _ => true
  | .epochCommit ⟨_, _⟩ _ => true
  | .heldNotice _ _ => true
  | .keyReplacement _ info => info.wf
  | .patrolScrub _ off _ => wordOffOk off
  | .rowRepair _ _ _ row _ => decide (row < 12288)
  | .protectedWrite _ => true
  | .parityDelta _ => true
  | .sbCtlWrite _ => true
  | .initPassEnd => true
  | .seedbankRepair _ ⟨off, _⟩ => wordOffOk off
  | .rebuildEnd => true
  | .gddr7CrcRetry _ ⟨ch, _⟩ => decide (ch.toNat < 13)
  | .deviceRetrain _ ch ⟨_, _⟩ _ => decide (ch.toNat < 13)
  | .unmappedAccess _ _ => true
  | .report _ => true
  | .sealCfg _ => true
  | .keyDeliver _ => true
  | .importBlob _ => true
  | .exportBlob _ => true
  | .ownerSet _ => true
  | .peerPolicy _ => true
  | .extendM7 _ => true
  | .svnCommit _ => true
  | .linkAttest _ => true
  | .codeMeasure _ => true
  | .erase _ => true
  | .entropyFail => true
  | .keyUe slot => decide (slot.toNat ≤ 16)
  | .urgentLatch oc ev => ocOk oc && (match ev with | some (.sram _ (some c)) => ocOk c | _ => true)
  | .halt req _ _ => req.wf
  | .haltArrival _ _ => true
  | .siteHeartbeatLoss _ => true
  | .coreLost _ _ => true
  | .edgeFail _ _ => true
  | .columnGraft _ _ _ _ => true
  | .coreGraft _ _ _ => true
  | .siteGraft _ _ => true
  | .spareSiteRetire _ _ => true
  | .stepRestart _ => true
  | .halfFail _ _ => true
  | .hartGraft hart => decide (hart.toNat < 18)
  | .frameReceive port _ frame _ => decide (port.toNat < 3 ∧ 64 ≤ frame.length ∧ frame.length ≤ 9216)
  | .descriptorPoll port _ _ => decide (port.toNat < 3)
  | .vinSample _ => true
  | .pruneLevelExit => true
  | .overvoltage => true
  | .orderlyOff => true
  | .governorTick _ => true
  | .phaseRetire domain => decide (domain.toNat < 80)
  | .thermalSample sensor _ => decide (sensor.toNat < 68)
  | .throttleStep => true
  | .refclkLoss => true
  | .refclkReturn => true
  | .holdoverExpiry => true
  | .pllUnlock => true
  | .serdesPll _ => true
  | .rstN _ => true
  | .pwrgdFall => true
  | .coldStart badSites badDevs cols _ => coldOk badSites badDevs cols
  | .sysRst req _ => req.wf
  | .registerWrite req addr _ => req.wf && decide (addr.toNat % 8 = 0)
  | .meLdaccComplete _ _ => true
  | .spWaittTickReached _ _ _ => true
  | .beaconQueueDrain _ _ => true
  | .gddr7IdleSelfRefresh _ => true

end Sys2Proof
end

