-- ==== Sys2Proof/Certificates/Slice0/Obligations.lean ====
section
/-! DEFINITION. The statements about the block. Each docstring names the rule of spec/ it formalises or rests on. -/

open Sys2Proof
open Sys2Proof.Machine

/-! ## The queue of commands -/

/-- A step takes the command at the front of the queue and runs it on the rest (the host's rule for a block). -/
def Obligations.StepRunsFrontCommand : Prop :=
  ∀ (c : Instr) (q : List Instr) (s : State), s.pending = c :: q → step s = exec c { s with pending := q }

/-- Every command, in every state, answers a next state, and leaves the queue and the part as they are. The queue is
first in, first out, and only the step takes from it: after a step with a next state the commands that wait are those
that waited behind the front one; the part is the same. -/
def Obligations.EveryCommandAnswers : Prop :=
  (∀ (c : Instr) (s : State), ∃ t, exec c s = .next t ∧ t.pending = s.pending ∧ t.part = s.part) ∧
  (∀ (s t : State), Sys2Proof.Machine.step s = .next t → t.pending = s.pending.tail ∧ t.part = s.part)

/-! ## The control core (08) -/

/-- 08 R255: CC_START with go = 1 is accepted in states 0, 6 and 7 only; accepted, it disarms every loop level, makes
the named bank active and fetches from pc, the registers keeping their values (with CC_CTL.pause = 1 the core is paused
before its first bundle, R257). Nothing outside this control core changes. 08 R257, R259: CC_CTL.pause stops a fetching
CC at the bundle boundary and its clearing lets it run again; CC_DBG.resume returns a debug-halted CC to running with
the count and tag compares off. Both leave everything else of the machine as it is, the registers, the memories and the
engine counts among it. 08 R250: a CC_IMEM_VER write that changes the active bank's version is refused: the versions
stay, imem_active is set and the requester gets a refused completion; every other write takes both versions. 08 R261, 13
R410–R412: draining takes the oldest record of the beacon queue into the Almanac, as its newest entry, with the record's
number first in the payload; an empty queue changes nothing. -/
def Obligations.CcStartsVersionsAndBeacons : Prop :=
  (∀ (l : SiteNo) (c : CoreNo) (pc : Half) (bank : Bool) (s : State) (k : Nat), s.key l c = some k →
     exec (.ccStart l c pc bank false) s = .next s ∧
     ∃ t, exec (.ccStart l c pc bank true) s = .next t ∧ OnlyCc k s t ∧
       (((s.core k).cc.st = .stopped ∨ (s.core k).cc.st = .halted ∨ (s.core k).cc.st = .fault) →
         (t.core k).cc.st = (if (s.core k).cc.ctl.pause then .paused else .running) ∧
         (t.core k).cc.pc = pc ∧ (t.core k).cc.bank = bank ∧ (t.core k).cc.loops = [] ∧
         (∀ n, (t.core k).cc.reg n = (s.core k).cc.reg n) ∧
         (∀ a, (t.core k).cc.dmem.get a = (s.core k).cc.dmem.get a) ∧
         (t.core k).cc.meCnt = (s.core k).cc.meCnt ∧ (t.core k).cc.veCnt = (s.core k).cc.veCnt ∧
         (t.core k).cc.seCnt = (s.core k).cc.seCnt ∧ (t.core k).cc.cause = (s.core k).cc.cause) ∧
       (¬((s.core k).cc.st = .stopped ∨ (s.core k).cc.st = .halted ∨ (s.core k).cc.st = .fault) → t.core k = s.core k)) ∧
  (∀ (l : SiteNo) (c : CoreNo) (s : State) (k : Nat), s.key l c = some k →
     (∀ pause, ∃ t, exec (.ccCtlPause l c pause) s = .next t ∧ OnlyCc k s t ∧
       (t.core k).cc = { (s.core k).cc with
         ctl := { (s.core k).cc.ctl with pause := pause },
         st := if pause then (if (s.core k).cc.st = .running ∨ (s.core k).cc.st = .queueWait ∨ (s.core k).cc.st = .syncWait
             then .paused else (s.core k).cc.st)
           else if (s.core k).cc.st = .paused then .running else (s.core k).cc.st }) ∧
     (∃ t, exec (.ccDbgResume l c) s = .next t ∧ OnlyCc k s t ∧
       ((s.core k).cc.st = .debugHalted → (t.core k).cc = { (s.core k).cc with
         st := if (s.core k).cc.ctl.pause then .paused else .running,
         ctl := { (s.core k).cc.ctl with suppress := true, logMark := (s.core k).cc.errSeq } }) ∧
       ((s.core k).cc.st ≠ .debugHalted → (t.core k).cc = (s.core k).cc))) ∧
  (∀ (l : SiteNo) (c : CoreNo) (va vb : Half) (s : State) (k : Nat), s.key l c = some k →
     ∃ t, exec (.ccImemVerWrite l c va vb) s = .next t ∧
       (∀ j, j ≠ k → t.core j = s.core j) ∧ t.sites = s.sites ∧ t.ctxs = s.ctxs ∧ t.grid = s.grid ∧
       ((t.core k).cc.imemA = (s.core k).cc.imemA ∧ (t.core k).cc.imemB = (s.core k).cc.imemB ∧
         (t.core k).cc.regs = (s.core k).cc.regs ∧ (t.core k).cc.dmem = (s.core k).cc.dmem ∧
         (t.core k).cc.st = (s.core k).cc.st) ∧
       (((s.core k).cc.activeBank = some false ∧ va ≠ (s.core k).cc.verA ∨
           (s.core k).cc.activeBank = some true ∧ vb ≠ (s.core k).cc.verB) →
         (t.core k).cc.verA = (s.core k).cc.verA ∧ (t.core k).cc.verB = (s.core k).cc.verB ∧
         (t.core k).cc.cause.getLsbD 4 = true ∧ t.outbox = s.outbox ++ [.refusedWrite] ∧
         (t.core k).cc.errSeq = (s.core k).cc.errSeq + 1) ∧
       (¬((s.core k).cc.activeBank = some false ∧ va ≠ (s.core k).cc.verA ∨
           (s.core k).cc.activeBank = some true ∧ vb ≠ (s.core k).cc.verB) →
         OnlyCc k s t ∧ (t.core k).cc = { (s.core k).cc with verA := va, verB := vb })) ∧
  (∀ (l : SiteNo) (c : CoreNo) (s : State) (k : Nat), s.key l c = some k →
     ((s.core k).cc.beacons = [] → exec (.beaconQueueDrain l c) s = .next s) ∧
     (∀ r rest, (s.core k).cc.beacons = r :: rest → ∃ t, exec (.beaconQueueDrain l c) s = .next t ∧
       (∀ j, j ≠ k → t.core j = s.core j) ∧ t.core k = { s.core k with cc := { (s.core k).cc with beacons := rest } } ∧
       t.sites = s.sites ∧ t.ctxs = s.ctxs ∧ t.almHead = s.almHead + 1 ∧
       ∃ e, sget (fun _ => Alm.init) t.alms (s.almHead.toNat % 4096) = e ∧ e.seq = s.almHead ∧ e.tick = s.tick ∧
         e.kind = 0x20 ∧ e.payload.take 2 = leBytes 2 r.num.toNat))

/-- 08 R260, R228: CC_XREG0–31 are read and written only in states 0, 4, 5, 6 and 7 with debug enabled; in any other
case a read returns 0 and a write is ignored; x0 reads 0 and discards writes. While a sealed context owns the core,
CC_DBG.en reads 0 and ignores writes. -/
def Obligations.CcXregAccess : Prop :=
  ∀ (l : SiteNo) (c : CoreNo) (x : BitVec 5) (s : State) (k : Nat), s.key l c = some k →
    let ok := ((s.ccSt k).code = 0 ∨ 4 ≤ (s.ccSt k).code) ∧ s.dbgEn k = true
    (exec (.ccXregAccess l c x none) s =
      .next (s.emit (.readReg (if ok ∧ x ≠ 0 then (sget (fun _ => 0) (s.core k).cc.regs x.toNat).setWidth 64 else 0)))) ∧
    (∀ v, ∃ t, exec (.ccXregAccess l c x (some v)) s = .next t ∧ OnlyCc k s t ∧
      { (t.core k).cc with regs := (s.core k).cc.regs } = (s.core k).cc ∧
      ∀ n, (t.core k).cc.reg n = if ok ∧ n = x.toNat ∧ n ≠ 0 then v else (s.core k).cc.reg n) ∧
    (let dbg := siteRegBase + l.toNat * 2 ^ 24 + c.toNat * 0x40000 + 0x28
     s.coreSealed k = true → (s.regRead .host dbg).getLsbD 0 = false ∧ ∀ v : DWord,
      ∃ t, exec (.registerWrite .host (BitVec.ofNat 48 dbg) v) s = .next t ∧
        (t.core k).cc.ctl.dbgEn = (s.core k).cc.ctl.dbgEn ∧ (t.core k).cc.regs = (s.core k).cc.regs)

/-- 08 R231: an access of 4–64 naturally aligned bytes through the core window reaches the scratchpad at offset 0, the
accumulator buffer (tile t at 0x40_0000 + t × 0x1_0000, no unfinished command naming the tile), DMEM at 0x64_0000 and
IMEM A and B at 0x60_0000 and 0x62_0000, a read replying with the bytes held there (no bank write being on its way, no
word poisoned and no closure in force); 0x50_0000–0x5F_FFFF and 0x65_0000–0x7F_FFFF read as 0. A read changes nothing
but the reply. 08 R231, R230, R250: a window write of 4–64 naturally aligned bytes into the scratchpad or DMEM lands
there and changes no other byte (one of 4 bytes into a poisoned 64-bit word of DMEM changes none); one into a bank of
IMEM that is not active is accepted, and one into the active bank is refused: the bank stays, imem_active is set and the
requester gets a refused completion. -/
def Obligations.CoreWindow : Prop :=
  (∀ (req : Requester) (site : SiteNo) (c : CoreNo) (off : BitVec 23) (n p : Nat) (s : State),
     s.siteField (logicalReq req) site.toNat = some p → s.dark p = false →
     (n = 4 ∨ n = 8 ∨ n = 16 ∨ n = 32 ∨ n = 64) → off.toNat % n = 0 →
     (∀ i, s.sealedNow i = false) →
     (s.core (s.keyOf p c.toNat)).cc.imemBusy = [] → (s.core (s.keyOf p c.toNat)).cc.dmemPoison = [] →
     (0x400000 ≤ off.toNat → off.toNat < 0x500000 → (s.core (s.keyOf p c.toNat)).busyTiles = [] ∧
       (s.core (s.keyOf p c.toNat)).me.accPoison = []) →
     ∃ t, exec (.coreWindowAccess req site c off (.read n) []) s = .next t ∧
       ({ t with cores := s.cores, outbox := s.outbox } : State) = s ∧ (∀ j, t.core j = s.core j) ∧
       ∃ bs : List Byte, t.outbox = s.outbox ++ [.reply bs] ∧ bs.length = n ∧ ∀ i, i < n →
         bs.getD i 0 =
           if off.toNat < 0x400000 then (s.core (s.keyOf p c.toNat)).sp.get (off.toNat + i)
           else if off.toNat < 0x500000 then
             ((sget (fun _ => Tile.zero) (s.core (s.keyOf p c.toNat)).me.tiles ((off.toNat - 0x400000) / 0x10000)).get
               (off.toNat % 0x10000 / 4 + i / 4)).extractLsb' (8 * (i % 4)) 8
           else if 0x600000 ≤ off.toNat ∧ off.toNat < 0x620000 then
             (s.core (s.keyOf p c.toNat)).cc.imemA.get (off.toNat - 0x600000 + i)
           else if 0x620000 ≤ off.toNat ∧ off.toNat < 0x640000 then
             (s.core (s.keyOf p c.toNat)).cc.imemB.get (off.toNat - 0x620000 + i)
           else if 0x640000 ≤ off.toNat ∧ off.toNat < 0x650000 then
             (s.core (s.keyOf p c.toNat)).cc.dmem.get (off.toNat - 0x640000 + i)
           else 0) ∧
  (∀ (req : Requester) (site : SiteNo) (c : CoreNo) (off : BitVec 23) (bs : List Byte) (p : Nat) (s : State),
     s.siteField (logicalReq req) site.toNat = some p → s.present p = true → s.dark p = false →
     (bs.length = 4 ∨ bs.length = 8 ∨ bs.length = 16 ∨ bs.length = 32 ∨ bs.length = 64) → off.toNat % bs.length = 0 →
     (∀ i, s.sealedNow i = false) → (s.core (s.keyOf p c.toNat)).cc.imemBusy = [] →
     ∃ t, exec (.coreWindowAccess req site c off (.write bs) []) s = .next t ∧
       (∀ j, j ≠ s.keyOf p c.toNat → t.core j = s.core j) ∧ t.sites = s.sites ∧ t.grid = s.grid ∧ t.ctxs = s.ctxs ∧
       (t.core (s.keyOf p c.toNat)).cc.regs = (s.core (s.keyOf p c.toNat)).cc.regs ∧
       (∀ a, (t.core (s.keyOf p c.toNat)).sp.get a =
         if off.toNat < 0x400000 ∧ off.toNat ≤ a ∧ a < off.toNat + bs.length then bs.getD (a - off.toNat) 0
         else (s.core (s.keyOf p c.toNat)).sp.get a) ∧
       (∀ a, (t.core (s.keyOf p c.toNat)).cc.dmem.get a =
         if 0x640000 ≤ off.toNat ∧ off.toNat < 0x650000 ∧ off.toNat ≤ a + 0x640000 ∧ a + 0x640000 < off.toNat + bs.length ∧
           (8 ≤ bs.length ∨ sget (fun _ => false) (s.core (s.keyOf p c.toNat)).cc.dmemPoison (a / 8) = false)
         then bs.getD (a + 0x640000 - off.toNat) 0 else (s.core (s.keyOf p c.toNat)).cc.dmem.get a) ∧
       (0x600000 ≤ off.toNat → off.toNat < 0x640000 →
         ((s.core (s.keyOf p c.toNat)).cc.activeBank = some (decide (0x620000 ≤ off.toNat)) →
           (t.core (s.keyOf p c.toNat)).cc.imemA = (s.core (s.keyOf p c.toNat)).cc.imemA ∧
           (t.core (s.keyOf p c.toNat)).cc.imemB = (s.core (s.keyOf p c.toNat)).cc.imemB ∧
           (t.core (s.keyOf p c.toNat)).cc.imemBusy = [] ∧
           (t.core (s.keyOf p c.toNat)).cc.cause.getLsbD 4 = true ∧ t.outbox = s.outbox ++ [.refusedWrite]) ∧
         ((s.core (s.keyOf p c.toNat)).cc.activeBank ≠ some (decide (0x620000 ≤ off.toNat)) →
           (t.core (s.keyOf p c.toNat)).cc.imemBusy =
             [(decide (0x620000 ≤ off.toNat), off.toNat % 0x20000, bs)] ∧ t.outbox = s.outbox)))

/-- 08 R241: a bundle that names a full engine queue stalls whole: no slot executes (the registers, DMEM, the program
counter, the queues and the issued counts stay), and every full queue it names adds 1 to its stall counter. 08 R233,
R236, R242, R243: a bundle that executes counts one bundle; every scalar slot's destination takes its result over the
registers as they stood at the start of the bundle, whatever the other slots do; registers that no slot names as its
destination keep their values; each engine command, patched, joins the end of its queue in slot order and counts as
issued. (All engines present, debug off; S0, S1 and S2 any operation, or absent.) 08 R248, R237, R256, R249: after a
bundle without a control slot and without armed loop levels the next bundle is the one behind it; TQ.B goes to A + off,
TQ.STOP records its code, sets the stopped cause and enters state 0. -/
def Obligations.Bundles : Prop :=
  (∀ (l : SiteNo) (c : CoreNo) (dm : Ecc) (s : State) (k : Nat) (b : Bundle) (o0 o1 : Option SOp) (o2 : Option DOp)
     (cmds : List (Eng × Nat)),
     s.key l c = some k → (s.core k).cc.st.fetches = true → s.pwr.level.toNat < 3 → (s.core k).cc.ctl.pause = false →
     b = fetchBundle ((s.core k).cc.imem (s.core k).cc.bank) (s.core k).cc.pc.toNat → b.header < 64 →
     o0 = b.s0.bind decodeScalar → o1 = b.s1.bind decodeS1 → o2 = b.s2.bind decodeS2 →
     inconsistent b (o0.toList ++ o1.toList) o2 = false → s.dbgEn k = false →
     cmds = patched b (patchesOf (o0.toList ++ o1.toList)) (s.core k).cc →
     (∃ x ∈ cmds, 64 ≤ ((s.core k).queue x.1).length) →
     ∃ t, exec (.bundle l c .clean dm) s = .next t ∧ OnlyCc k s t ∧
       (t.core k).cc.st = .queueWait ∧ (t.core k).cc.regs = (s.core k).cc.regs ∧ (t.core k).cc.pc = (s.core k).cc.pc ∧
       (t.core k).cc.bank = (s.core k).cc.bank ∧ (t.core k).cc.dmem = (s.core k).cc.dmem ∧
       (t.core k).cc.loops = (s.core k).cc.loops ∧
       (∀ e, (t.core k).cc.cnt e = (s.core k).cc.cnt e) ∧ (∀ e, (t.core k).queue e = (s.core k).queue e) ∧
       (t.core k).cc.perf.bundle = (s.core k).cc.perf.bundle ∧
       (t.core k).cc.perf.stallMe = (s.core k).cc.perf.stallMe +
         (if Eng.me ∈ cmds.map Prod.fst ∧ 64 ≤ (s.core k).me.queue.length then 1 else 0) ∧
       (t.core k).cc.perf.stallVe = (s.core k).cc.perf.stallVe +
         (if Eng.ve ∈ cmds.map Prod.fst ∧ 64 ≤ (s.core k).ve.queue.length then 1 else 0) ∧
       (t.core k).cc.perf.stallSe = (s.core k).cc.perf.stallSe +
         (if Eng.se ∈ cmds.map Prod.fst ∧ 64 ≤ (s.core k).se.queue.length then 1 else 0)) ∧
  (∀ (l : SiteNo) (c : CoreNo) (dm : Ecc) (s : State) (k : Nat) (b : Bundle) (o0 o1 : Option SOp) (o2 : Option DOp)
     (cmds : List (Eng × Nat)),
     s.key l c = some k → (s.core k).cc.st.fetches = true → s.pwr.level.toNat < 3 → (s.core k).cc.ctl.pause = false →
     b = fetchBundle ((s.core k).cc.imem (s.core k).cc.bank) (s.core k).cc.pc.toNat → b.header < 64 →
     o0 = b.s0.bind decodeScalar → o1 = b.s1.bind decodeS1 → o2 = b.s2.bind decodeS2 →
     inconsistent b (o0.toList ++ o1.toList) o2 = false → s.dbgEn k = false →
     cmds = patched b (patchesOf (o0.toList ++ o1.toList)) (s.core k).cc →
     (∀ e, ((s.core k).queue e).length < 64) → (s.core k).cc.eng = 7 →
     (∀ o, o1 = some o → (s.core k).cc.ready o = true) →
     (s.core k).cc.beacons.length + (beaconNeed (s.core k).cc cmds o1).1 ≤ 16 →
     ∃ t, exec (.bundle l c .clean dm) s = .next t ∧ (∀ j, j ≠ k → t.core j = s.core j) ∧ t.sites = s.sites ∧
       (t.core k).cc.perf.bundle = (s.core k).cc.perf.bundle + 1 ∧
       (∀ o rd v, (o0 = some o ∨ o1 = some o) → (rd, v) ∈ (s.core k).cc.scalar cmds b.len o → rd ≠ 0 →
         (t.core k).cc.reg rd = v) ∧
       (∀ n, (∀ o, (o0 = some o ∨ o1 = some o) → o.dest ≠ n) → (∀ o, o2 = some o → o.dest ≠ n) →
         (t.core k).cc.reg n = (s.core k).cc.reg n) ∧
       (∀ e, ((t.core k).queue e).map QEntry.word = ((s.core k).queue e).map QEntry.word ++
         ((cmds.filter (fun x => x.1 = e)).map (fun x => BitVec.ofNat 64 x.2))) ∧
       (∀ e, ((t.core k).cc.cnt e).issued = ((s.core k).cc.cnt e).issued +
         BitVec.ofNat 16 (cmds.filter (fun x => x.1 = e)).length) ∧
       (∀ e, ((t.core k).cc.cnt e).done = ((s.core k).cc.cnt e).done)) ∧
  (∀ (l : SiteNo) (c : CoreNo) (dm : Ecc) (s : State) (k : Nat) (b : Bundle) (o0 o1 : Option SOp) (o2 : Option DOp)
     (cmds : List (Eng × Nat)),
     s.key l c = some k → (s.core k).cc.st.fetches = true → s.pwr.level.toNat < 3 → (s.core k).cc.ctl.pause = false →
     b = fetchBundle ((s.core k).cc.imem (s.core k).cc.bank) (s.core k).cc.pc.toNat → b.header < 64 →
     o0 = b.s0.bind decodeScalar → o1 = b.s1.bind decodeS1 → o2 = b.s2.bind decodeS2 →
     inconsistent b (o0.toList ++ o1.toList) o2 = false → s.dbgEn k = false →
     cmds = patched b (patchesOf (o0.toList ++ o1.toList)) (s.core k).cc →
     (∀ e, ((s.core k).queue e).length < 64) → (s.core k).cc.loops = [] →
     (s.core k).cc.beacons.length + (beaconNeed (s.core k).cc cmds o1).1 ≤ 16 →
     ∃ t, exec (.bundle l c .clean dm) s = .next t ∧
       (o1 = none → (t.core k).cc.st = .running ∧ (t.core k).cc.pc = (s.core k).cc.pc + BitVec.ofNat 16 b.len ∧
         (t.core k).cc.bank = (s.core k).cc.bank) ∧
       (∀ off, o1 = some (.b off) → (t.core k).cc.st = .running ∧
         (t.core k).cc.pc = (s.core k).cc.pc + BitVec.ofNat 16 off ∧ (t.core k).cc.bank = (s.core k).cc.bank) ∧
       (∀ code, o1 = some (.stop code) → (t.core k).cc.st = .stopped ∧
         (t.core k).cc.stopCode = BitVec.ofNat 16 code ∧ (t.core k).cc.cause.getLsbD 9 = true))

/-! ## The matrix engine (03) -/

/-- 03 R78, R79, 08 R243: ME.FEED sets the feed register it names (a scale feed only with format F4b) and ME.MASK the
row mask from 16 bytes of DMEM; each leaves the queue, counts as started and done, and changes nothing else of the
machine. 03 R81, R83, R84: with no earlier command still to read or write the tile, ME.ZERO and ME.PIN set every entry
of an unpinned tile to +0, PIN also marking it; ME.SEAL marks a pinned, unsealed tile sealed. Every other tile, the
feeds and the memories stay. While a hazard stands, ZERO and PIN wait: the state does not change. 03 R84, 00 R14, 08
R252: ME.PIN and ME.ZERO on a pinned tile, and ME.SEAL on an unpinned or a sealed one, are skipped and logged with cause
pin_violation: the tiles and the marks stay, the command leaves the queue, the cause is set and the error log grows by
one entry. -/
def Obligations.MeTilesAndMasks : Prop :=
  (∀ (l : SiteNo) (c : CoreNo) (s : State) (k : Nat) (q : QEntry) (rest : List QEntry),
     s.key l c = some k → (s.core k).me.queue = q :: rest →
     (q.op = 0x10 → reservedBits q.w (meMaskOf 0x10) = false → fmtReserved (BitVec.ofNat 4 (fld q.w 26 4)) = false →
       (2 ≤ fld q.w 24 2 → BitVec.ofNat 4 (fld q.w 26 4) = fmtF4b) →
       ∃ t, exec (.meFeed l c) s = .next t ∧ MeTakes k rest s t ∧ Completes q.num (s.core k).cc.meCnt (t.core k).cc.meCnt ∧
         { (t.core k).me with queue := (s.core k).me.queue, feeds := (s.core k).me.feeds, scaleOk := (s.core k).me.scaleOk } =
           (s.core k).me ∧
         (∀ o, (t.core k).me.feed o = if o = fld q.w 24 2 then
           some { fmt := BitVec.ofNat 4 (fld q.w 26 4), hqSrc := bitAt q.w 30, trans := bitAt q.w 32,
                  addr := BitVec.ofNat 13 (fld q.w 34 13), pitch := BitVec.ofNat 16 (fld q.w 47 16) }
           else (s.core k).me.feed o) ∧
         (t.core k).me.scaleOk = setBit (s.core k).me.scaleOk (fld q.w 24 2 % 2) (decide (2 ≤ fld q.w 24 2))) ∧
     (q.op = 0x21 → reservedBits q.w (meMaskOf 0x21) = false → fld q.w 24 16 % 16 = 0 → (s.core k).cc.dmemPoison = [] →
       ∃ t, exec (.meMask l ⟨c, []⟩) s = .next t ∧ MeTakes k rest s t ∧ Completes q.num (s.core k).cc.meCnt (t.core k).cc.meCnt ∧
         (t.core k).me = { (s.core k).me with
           queue := rest
           rmask := BitVec.ofNat 128 (leNat ((s.core k).cc.dmem.bytes (fld q.w 24 16) 16)) })) ∧
  (∀ (l : SiteNo) (c : CoreNo) (s : State) (k : Nat) (q : QEntry) (rest : List QEntry),
     s.key l c = some k → (s.core k).me.queue = q :: rest → reservedBits q.w (meMaskOf q.op) = false →
     let tile := fld q.w 24 4
     (((s.core k).tileRead tile q.order = true ∨ (s.core k).tileWritten tile q.order = true) →
       (q.op = 0x32 → exec (.meZero l c) s = .next s) ∧ (q.op = 0x40 → exec (.mePin l c) s = .next s)) ∧
     ((s.core k).tileRead tile q.order = false → (s.core k).tileWritten tile q.order = false →
       (s.core k).me.pinned.getLsbD tile = false →
       (q.op = 0x32 → ∃ t, exec (.meZero l c) s = .next t ∧ MeTakes k rest s t ∧
         Completes q.num (s.core k).cc.meCnt (t.core k).cc.meCnt ∧
         { (t.core k).me with
           queue := (s.core k).me.queue, tiles := (s.core k).me.tiles,
           accPoison := (s.core k).me.accPoison } = (s.core k).me ∧
         (∀ u e, (sget (fun _ => Tile.zero) (t.core k).me.tiles u).get e =
           if u = tile then 0 else (sget (fun _ => Tile.zero) (s.core k).me.tiles u).get e)) ∧
       (q.op = 0x40 → ∃ t, exec (.mePin l c) s = .next t ∧ MeTakes k rest s t ∧
         Completes q.num (s.core k).cc.meCnt (t.core k).cc.meCnt ∧
         { (t.core k).me with
           queue := (s.core k).me.queue, tiles := (s.core k).me.tiles,
           accPoison := (s.core k).me.accPoison, pinned := (s.core k).me.pinned } = (s.core k).me ∧
         (∀ i, i < 16 → (t.core k).me.pinned.getLsbD i = (decide (i = tile) || (s.core k).me.pinned.getLsbD i)) ∧
         (∀ u e, (sget (fun _ => Tile.zero) (t.core k).me.tiles u).get e =
           if u = tile then 0 else (sget (fun _ => Tile.zero) (s.core k).me.tiles u).get e))) ∧
     (q.op = 0x41 → (s.core k).me.pinned.getLsbD tile = true → (s.core k).me.sealedT.getLsbD tile = false →
       ∃ t, exec (.meSeal l c) s = .next t ∧ MeTakes k rest s t ∧
         Completes q.num (s.core k).cc.meCnt (t.core k).cc.meCnt ∧
         { (t.core k).me with queue := (s.core k).me.queue, sealedT := (s.core k).me.sealedT } = (s.core k).me ∧
         (∀ i, i < 16 → (t.core k).me.sealedT.getLsbD i = (decide (i = tile) || (s.core k).me.sealedT.getLsbD i)))) ∧
  (∀ (l : SiteNo) (c : CoreNo) (s : State) (k : Nat) (q : QEntry) (rest : List QEntry),
     s.key l c = some k → (s.core k).me.queue = q :: rest → reservedBits q.w (meMaskOf q.op) = false →
     let tile := fld q.w 24 4
     let skipped (i : Instr) : Prop := ∃ t, exec i s = .next t ∧ (∀ j, j ≠ k → t.core j = s.core j) ∧ t.sites = s.sites ∧
       { (t.core k).me with queue := (s.core k).me.queue, cause := (s.core k).me.cause } = (s.core k).me ∧
       (t.core k).me.queue = rest ∧ (t.core k).me.cause.getLsbD 4 = true ∧ (t.core k).sp = (s.core k).sp ∧
       (t.core k).cc.errSeq = (s.core k).cc.errSeq + 1 ∧ (t.core k).cc.regs = (s.core k).cc.regs ∧
       (t.core k).cc.meCnt.started = (s.core k).cc.meCnt.started + 1 ∧
       Completes q.num (s.core k).cc.meCnt (t.core k).cc.meCnt
     (q.op = 0x41 → ((s.core k).me.pinned.getLsbD tile = false ∨ (s.core k).me.sealedT.getLsbD tile = true) →
       skipped (.meSeal l c)) ∧
     ((s.core k).tileRead tile q.order = false → (s.core k).tileWritten tile q.order = false →
       (s.core k).me.pinned.getLsbD tile = true →
       (q.op = 0x32 → skipped (.meZero l c)) ∧ (q.op = 0x40 → skipped (.mePin l c))))

/-- 03 R81, R83, R59: ME.LDACC, with its tile free, takes 65,536 bytes of the scratchpad as the tile's 16,384 FP32
values, and its completion writes them: entry e becomes the little-endian word at a × 512 + 4e as it stood at the start.
Starting it changes no tile; completing it changes no other tile and no scratchpad byte. 03 R80, R83, R85, R76: ME.MMA
with an accepted pair of formats, feeds that fit, no handle queue, its tile free, fewer than two products in the cells,
and a tile it may write (unpinned, or pinned and accumulating, and not sealed) starts: it leaves the queue, counts as
started and not done, and no tile changes yet; its product waits in the array, where the one before it, which holds no
handle either, has fed its last line (R85). While the tile is not free, two products are in the cells, or the level cap
is 0, it waits and nothing changes. 03 R85, R89, 08 R243: the oldest product in the cells completes: its values stand in
its tile, every other entry and tile and the scratchpad stay, and the command is done. (The product has no handle to
release and its checksum columns are off; the drained values are as computed.) 03 R89, R90, 15 R446: a checked row of a
product that completes. Whatever the array and the checksum columns met, the command is done and the tile holds the
values as computed. A row that disagrees with its checksum sets chk_mismatch, which enters the urgent latch with its
tick, and ME_CHK_INFO takes tile, row, tag and relative error if chk_mismatch was 0; a row that agrees leaves cause,
ME_CHK_INFO and latch as they are. -/
def Obligations.MeLoadsAndProducts : Prop :=
  (∀ (l : SiteNo) (c : CoreNo) (s : State) (k : Nat) (q : QEntry) (rest : List QEntry),
     s.key l c = some k → (s.core k).me.queue = q :: rest → q.op = 0x31 → reservedBits q.w (meMaskOf 0x31) = false →
     fld q.w 28 13 ≤ 8064 → (s.core k).tileRead (fld q.w 24 4) q.order = false →
     (s.core k).tileWritten (fld q.w 24 4) q.order = false → (s.core k).me.jobs = [] →
     (s.core k).me.pinned.getLsbD (fld q.w 24 4) = false → (s.core k).spPoison = [] →
     ∃ t, exec (.meLdacc l ⟨c, []⟩) s = .next t ∧ MeTakes k rest s t ∧
       { (t.core k).me with queue := (s.core k).me.queue, jobs := (s.core k).me.jobs } = (s.core k).me ∧
       (t.core k).cc.meCnt.done = (s.core k).cc.meCnt.done ∧
       ∃ u, exec (.meLdaccComplete l c) t = .next u ∧ OnlyCore k t u ∧ (u.core k).sp = (s.core k).sp ∧
         (u.core k).me.jobs = [] ∧ (u.core k).me.queue = rest ∧
         Completes q.num (t.core k).cc.meCnt (u.core k).cc.meCnt ∧
         ∀ tl e, e < 16384 → (sget (fun _ => Tile.zero) (u.core k).me.tiles tl).get e =
           if tl = fld q.w 24 4 then BitVec.ofNat 32 ((s.core k).sp.nat (fld q.w 28 13 * 512 + 4 * e) 4)
           else (sget (fun _ => Tile.zero) (s.core k).me.tiles tl).get e) ∧
  (∀ (l : SiteNo) (c : CoreNo) (s : State) (k : Nat) (q : QEntry) (rest : List QEntry) (fa fb : Feed),
     s.key l c = some k → (s.core k).me.queue = q :: rest → q.op = 0x20 → reservedBits q.w (meMaskOf 0x20) = false →
     (s.core k).me.feed 0 = some fa → (s.core k).me.feed 1 = some fb → pairOk fa.fmt fb.fmt = true →
     s.feedsOk k fa fb (fld q.w 53 7 + 1) (fld q.w 46 7 + 1) (mmaK q.w) = true →
     (∀ o f, (s.core k).me.feed o = some f → f.hqSrc = false) →
     (∀ j ∈ (s.core k).me.jobs, j.work.handles = []) →
     let free := (s.core k).tileRead (fld q.w 24 4) q.order = false ∧ (s.core k).tileWritten (fld q.w 24 4) q.order = false ∧
       (s.core k).me.arrayFree = true ∧ s.meCap k ≠ 0 ∧ s.pwr.level.toNat < 3
     (¬free → exec (.meMma l c []) s = .next s) ∧
     (free → (s.core k).me.sealedT.getLsbD (fld q.w 24 4) = false →
       ((s.core k).me.pinned.getLsbD (fld q.w 24 4) = true → bitAt q.w 28 = true) →
       ∃ t, exec (.meMma l c []) s = .next t ∧ MeTakes k rest s t ∧
         (t.core k).cc.meCnt.done = (s.core k).cc.meCnt.done ∧
         { (t.core k).me with queue := (s.core k).me.queue, jobs := (s.core k).me.jobs } = (s.core k).me ∧
         ∃ vals checks p left, (t.core k).me.jobs =
           (s.core k).me.jobs.map (fun j => if j.work.isMma then { j with work := j.work.fed } else j) ++
           [{ q := q, work := .mma (BitVec.ofNat 4 (fld q.w 24 4)) vals checks [] p left }] ∧
           p = feedCycles fa.fmt fb.fmt * (if (s.core k).me.bcastActive then 4 else 1) ∧ 0 < left ∧
           (∀ v ∈ vals, v.1 / 128 < fld q.w 53 7 + 1 ∧ v.1 % 128 < fld q.w 46 7 + 1) ∧
           (∀ i, i < fld q.w 53 7 + 1 → (bitAt q.w 29 = true → (s.core k).me.rmask.getLsbD i = true) →
             ∀ j, j < fld q.w 46 7 + 1 → ∃ v ∈ vals, v.1 = 128 * i + j))) ∧
  (∀ (l : SiteNo) (c : CoreNo) (s : State) (k : Nat) (q : QEntry) (tile : BitVec 4) (vals : List (Nat × Word)) (p left : Nat)
     (rest : List MeJob),
     s.key l c = some k → s.meCap k ≠ 0 → (s.core k).me.jobs = { q := q, work := .mma tile vals [] [] p left } :: rest →
     (vals.map Prod.fst).Nodup →
     ∃ t, exec (.meMmaTileComplete l c [] []) s = .next t ∧ OnlyCore k s t ∧ (t.core k).me.jobs = rest ∧
       (t.core k).me.queue = (s.core k).me.queue ∧ (t.core k).sp = (s.core k).sp ∧ (t.core k).ve = (s.core k).ve ∧
       (t.core k).se = (s.core k).se ∧ Completes q.num (s.core k).cc.meCnt (t.core k).cc.meCnt ∧
       (∀ v ∈ vals, (sget (fun _ => Tile.zero) (t.core k).me.tiles tile.toNat).get v.1 = v.2) ∧
       (∀ u e, (u ≠ tile.toNat ∨ ∀ v ∈ vals, v.1 ≠ e) →
         (sget (fun _ => Tile.zero) (t.core k).me.tiles u).get e = (sget (fun _ => Tile.zero) (s.core k).me.tiles u).get e)) ∧
  (∀ (l : SiteNo) (c : CoreNo) (s : State) (k : Nat) (q : QEntry) (tile : BitVec 4) (vals : List (Nat × Word)) (p left : Nat)
     (r : RowCheck) (rest : List MeJob) (upset : List (BitVec 14 × Word)) (chk : List (BitVec 7 × Word × Word)),
     s.key l c = some k → s.meCap k ≠ 0 → (s.core k).me.jobs = { q := q, work := .mma tile vals [r] [] p left } :: rest →
     (vals.map Prod.fst).Nodup →
     let vs := upsetVals upset vals
     let bad := (r.upset chk).bad (s.core k).me.tolExp.toNat ((vs.filter (fun v => v.1 / 128 == r.row)).map Prod.snd)
     ∃ t, exec (.meMmaTileComplete l c upset chk) s = .next t ∧ OnlyCore k s { t with gis := s.gis } ∧
       (t.core k).me.jobs = rest ∧ Completes q.num (s.core k).cc.meCnt (t.core k).cc.meCnt ∧
       (∀ v ∈ vs, (sget (fun _ => Tile.zero) (t.core k).me.tiles tile.toNat).get v.1 = v.2) ∧
       (bad = none → t.gis = s.gis ∧ (t.core k).me.cause = (s.core k).me.cause ∧ (t.core k).me.chkInfo = (s.core k).me.chkInfo) ∧
       (∀ err, bad = some err → (t.core k).me.cause.getLsbD 0 = true ∧
         t.gis = { s.gis with urgent := s.gis.urgent ++ [{ leaf := .me k, bit := 0, tick := s.tick, arg := 0 }] } ∧
         (t.core k).me.chkInfo = if (s.core k).me.cause.getLsbD 0 then (s.core k).me.chkInfo
           else reg64 [(tile.toNat, 0), (r.row, 4), (q.tag.toNat, 16), (err.toNat, 32)]))

/-- 03 R91, R84: where ME.ST starts. Its plan is valid, its descriptor has its format and it takes no protection fault;
the command leaves the queue, is started and not done; no tile, no mark and no scratchpad byte changes. 03 R91, R84, 12
R366: ME_ST_COMPLETE lands the writes of the store under way, each at the place the store addressed and nowhere else (no
other stream having a write to those bytes on its way, 06 R179, and no site of them having been retired since the start,
01 R27). The job ends and the command is done once no protected block of it waits for parity; until then the job stays,
marked as landed. A releasing store of a sealed tile clears both marks of that tile when it ends; no other mark, no tile
and no control-core memory or register changes. -/
def Obligations.MeStores : Prop :=
  (∀ (l : SiteNo) (c : CoreNo) (s : State) (k : Nat) (q : QEntry) (rest : List QEntry) (bs : List Byte) (r : RDesc),
     s.key l c = some k → (s.core k).me.queue = q :: rest → q.op = 0x30 → reservedBits q.w (meMaskOf 0x30) = false →
     fld q.w 36 16 % 32 = 0 → fmtReserved (BitVec.ofNat 4 (fld q.w 31 4)) = false →
     rndReserved (BitVec.ofNat 3 (fld q.w 28 3)) = false → (s.core k).me.jobs = [] →
     (s.core k).tileWritten (fld q.w 24 4) q.order = false →
     ((s.core k).me.pinned.getLsbD (fld q.w 24 4) = true → (s.core k).me.sealedT.getLsbD (fld q.w 24 4) = true ∨
       bitAt q.w 35 = false) →
     (s.core k).cc.dmemRead (fld q.w 36 16) 32 = some bs → (decodePlan bs).ok = true →
     resolve (s.core k).se.desc { write := true, scatter := false, scale := false } (decodePlan bs).tdesc = some r →
     r.d.fmt = BitVec.ofNat 4 (fld q.w 31 4) →
     ∃ t, exec (.meSt l c []) s = .next t ∧ (∀ j, j ≠ k → t.core j = s.core j) ∧
       (∃ ws nan inf sat, (t.core k).me.jobs =
         [{ q := q, work := .store (BitVec.ofNat 4 (fld q.w 24 4)) ws (bitAt q.w 35) nan inf sat false }]) ∧
       (t.core k).me.queue = rest ∧ (t.core k).me.tiles = (s.core k).me.tiles ∧
       (t.core k).me.pinned = (s.core k).me.pinned ∧ (t.core k).me.sealedT = (s.core k).me.sealedT ∧
       (t.core k).sp = (s.core k).sp ∧ (t.core k).cc.dmem = (s.core k).cc.dmem ∧
       (t.core k).cc.meCnt.started = (s.core k).cc.meCnt.started + 1 ∧
       (t.core k).cc.meCnt.done = (s.core k).cc.meCnt.done) ∧
  (∀ (l : SiteNo) (c : CoreNo) (s : State) (k : Nat) (q : QEntry) (tile : BitVec 4) (ws : List Wr)
     (release nan inf sat : Bool) (rest : List MeJob),
     s.key l c = some k → (s.core k).me.jobs = { q := q, work := .store tile ws release nan inf sat false } :: rest →
     (∀ w ∈ ws, ∀ j o, s.cell w.a = some (2, j, o) → o < 0x400000) →
     (∀ w ∈ ws, w.meets (s.othersOnWay (.me k)) = false) → (∀ w ∈ ws, s.wrGone w = false) →
     ∃ t, exec (.meStComplete l c) s = .next t ∧ Landed ws s t ∧
       (∀ j, { (t.core j).me with
         jobs := (s.core j).me.jobs, pinned := (s.core j).me.pinned,
         sealedT := (s.core j).me.sealedT } = (s.core j).me) ∧
       (∀ j, j ≠ k → (t.core j).cc = (s.core j).cc ∧ (t.core j).me = (s.core j).me) ∧
       { (t.core k).cc with meCnt := (s.core k).cc.meCnt, numStat := (s.core k).cc.numStat } = (s.core k).cc ∧
       (t.protBusy ws = true →
         (t.core k).me.jobs = { q := q, work := .store tile ws release nan inf sat true } :: rest ∧
         (t.core k).cc.meCnt = (s.core k).cc.meCnt ∧ (t.core k).me.pinned = (s.core k).me.pinned ∧
         (t.core k).me.sealedT = (s.core k).me.sealedT) ∧
       (t.protBusy ws = false → (t.core k).me.jobs = rest ∧
         Completes q.num (s.core k).cc.meCnt (t.core k).cc.meCnt ∧
         ∀ i, i < 16 →
           (t.core k).me.pinned.getLsbD i = ((s.core k).me.pinned.getLsbD i &&
             !(release && (s.core k).me.sealedT.getLsbD tile.toNat && decide (i = tile.toNat))) ∧
           (t.core k).me.sealedT.getLsbD i = ((s.core k).me.sealedT.getLsbD i &&
             !(release && (s.core k).me.sealedT.getLsbD tile.toNat && decide (i = tile.toNat)))))

/-- 03 R82: ME.SELFTEST runs in broadcast mode; its tile is left undefined (a free value) and no other changes; its end
writes ME_TEST, and sets col_fail exactly when a column fails that ME_COLFAIL does not name. 03 R73: a write of
ME_CTL.bcast asks for a feed mode and does not change the mode in force; the mode in force becomes the one asked for
when the ME is idle with an empty queue, and stays otherwise. Nothing else of the machine changes. 03 R87, 04 R135: at a
6-cycle boundary the activity level of an engine moves by at most one: up by 1 below the cap when a feed step is ready,
down by 1 when none is ready or the level is above the cap; at level 0 the credit is 0. Before six core cycles have
passed since the last boundary nothing moves. -/
def Obligations.MeArray : Prop :=
  (∀ (l : SiteNo) (c : CoreNo) (s : State) (k : Nat) (q : QEntry) (rest : List QEntry) (fails : BitVec 130),
     s.key l c = some k → (s.core k).me.queue = q :: rest → q.op = 0x50 → reservedBits q.w (meMaskOf 0x50) = false →
     (s.core k).me.bcastActive = true → (s.core k).tileRead (fld q.w 24 4) q.order = false →
     (s.core k).tileWritten (fld q.w 24 4) q.order = false → (s.core k).me.jobs = [] →
     ∃ t, exec (.meSelftest l c) s = .next t ∧ (t.core k).me.queue = rest ∧
       (∀ j, j ≠ k → t.core j = s.core j) ∧ t.sites = s.sites ∧ (t.core k).sp = (s.core k).sp ∧
       (∀ u, u ≠ fld q.w 24 4 → sget (fun _ => Tile.zero) (t.core k).me.tiles u = sget (fun _ => Tile.zero) (s.core k).me.tiles u) ∧
       (t.core k).me.test = (s.core k).me.test ∧
       ∃ u, exec (.meSelftestDone l c fails) t = .next u ∧ (u.core k).me.test = fails ∧
         (u.core k).me.colfail = (s.core k).me.colfail ∧ (u.core k).me.tiles = (t.core k).me.tiles ∧
         (u.core k).me.jobs = [] ∧ Completes q.num (t.core k).cc.meCnt (u.core k).cc.meCnt ∧
         ((u.core k).me.cause.getLsbD 7 = true ↔ (s.core k).me.cause.getLsbD 7 = true ∨
           ∃ i, i < 130 ∧ fails.getLsbD i = true ∧ (s.core k).me.colfail.getLsbD i = false)) ∧
  (∀ (l : SiteNo) (c : CoreNo) (s : State) (k : Nat), s.key l c = some k →
     (∀ b, ∃ t, exec (.meCtlBcastWrite l c b) s = .next t ∧ OnlyCore k s t ∧
       t.core k = { s.core k with me := { (s.core k).me with bcastReq := b } }) ∧
     ∃ t, exec (.bcastModeSwitch l c) s = .next t ∧ OnlyCore k s t ∧
       t.core k = { s.core k with me := { (s.core k).me with bcastActive :=
         if (s.core k).me.queue = [] ∧ (s.core k).me.jobs = [] then (s.core k).me.bcastReq else (s.core k).me.bcastActive } }) ∧
  (∀ (l : SiteNo) (c : CoreNo) (s : State) (k : Nat), s.key l c = some k →
     (∃ t, exec (.activityLevelBoundary l c false) s = .next t ∧ OnlyCore k s t ∧
       { (t.core k).me with level := (s.core k).me.level, credit := (s.core k).me.credit, levelAt := (s.core k).me.levelAt } =
         (s.core k).me ∧
       { t.core k with me := (s.core k).me } = s.core k ∧
       (boundaryDue (s.core k).me.levelAt s.tick = false → (t.core k).me = (s.core k).me) ∧
       (boundaryDue (s.core k).me.levelAt s.tick = true →
         let a := (s.core k).me.level.toNat
         let b := (t.core k).me.level.toNat
         let ready := ∃ j ∈ (s.core k).me.jobs, j.work.feeding = true
         (s.meCap k < a → b = a - 1) ∧ (a ≤ s.meCap k → ¬ready → b = a - 1) ∧ (a < s.meCap k → ready → b = a + 1) ∧
         (a = s.meCap k → ready → b = a) ∧ (t.core k).me.levelAt = some s.tick ∧
         (t.core k).me.credit = if b = 0 then 0 else (s.core k).me.credit)) ∧
     (∃ t, exec (.activityLevelBoundary l c true) s = .next t ∧ OnlyCore k s t ∧
       { (t.core k).ve with level := (s.core k).ve.level, credit := (s.core k).ve.credit, levelAt := (s.core k).ve.levelAt } =
         (s.core k).ve ∧
       { t.core k with ve := (s.core k).ve } = s.core k ∧
       (boundaryDue (s.core k).ve.levelAt s.tick = false → (t.core k).ve = (s.core k).ve) ∧
       (boundaryDue (s.core k).ve.levelAt s.tick = true →
         let a := (s.core k).ve.level.toNat
         let b := (t.core k).ve.level.toNat
         let ready := (s.core k).ve.chain.isSome = true
         (s.veCap < a → b = a - 1) ∧ (a ≤ s.veCap → ¬ready → b = a - 1) ∧ (a < s.veCap → ready → b = a + 1) ∧
         (a = s.veCap → ready → b = a) ∧ (t.core k).ve.levelAt = some s.tick ∧
         (t.core k).ve.credit = if b = 0 then 0 else (s.core k).ve.credit)))

/-! ## The vector engine (04) -/

/-- 04 R107, R110, R112, R131, R132: VE.CHAIN whose descriptor passes every check starts when no chain runs, no swap
waits, no load of a table that a swap follows is under way, the pass is not at level cap 0, its accumulator tiles are
written, the queue it pops has a ready handle and the queue it acquires from a free buffer: it leaves the queue as the
chain in progress, is started and not done, has its handle queues, and no scratchpad byte, tile or table changes yet.
While one of those holds it up, or at level cap 0, it waits and nothing changes. 04 R112, R110, R136, 07 R210, 02 R65:
when the chain in progress ends, its writes are in place (no other stream having a write to those bytes on its way, 06
R179) and nothing else of the memories changes, no chain is in progress, the sticky lane flags take what it found, the
numeric status takes its nan, inf and sat, the handle it popped is released and the one it acquired is pushed, and the
command is done. -/
def Obligations.VeChains : Prop :=
  (∀ (l : SiteNo) (c : CoreNo) (s : State) (k : Nat) (q : QEntry) (rest : List QEntry) (w : RDesc),
     s.key l c = some k → (s.core k).ve.queue = q :: rest → q.op = 0x60 → reservedBits q.w (veMaskOf 0x60) = false →
     let d := fld q.w 24 16
     let ch := decodeChain (s.core k).cc d
     (((s.core k).ve.chainHeld = true ∨ s.veCap = 0) → exec (.veChain l c []) s = .next s) ∧
     (d % 64 = 0 → d + 128 ≤ 65536 → chainPoisoned (s.core k).cc d ch = false → (s.core k).chainCheck d ch = none →
       s.veResolve k true ch.w = some w → (∀ p ∈ ch.ports, p ≠ 0xFFFF → (s.veResolve k false p).isSome = true) →
       (s.core k).ve.chainHeld = false → (s.core k).ve.popped = none →
       s.veCap ≠ 0 → (ch.accEn = true → ∀ i, i < ch.accCnt → (s.core k).tileWritten (ch.accT + i) q.order = false) →
       (bitAt ch.hqIn 7 = true → (s.hq k (ch.hqIn % 32)).consIs 0x20 = true ∧ (s.hq k (ch.hqIn % 32)).canPop = true) →
       (bitAt ch.hqOut 7 = true → (s.hq k (ch.hqOut % 32)).prodIs 0x21 = true ∧
         (s.hq k (ch.hqOut % 32)).canAcquire = true) →
       ∃ t j, exec (.veChain l c []) s = .next t ∧ (∀ i, i ≠ k → t.core i = s.core i) ∧
         (t.core k).ve.chain = some j ∧ j.q = q ∧ (t.core k).ve.queue = rest ∧
         j.hqIn = (if bitAt ch.hqIn 7 then some (BitVec.ofNat 5 (ch.hqIn % 32)) else none) ∧
         j.hqOut = (if bitAt ch.hqOut 7 then some (BitVec.ofNat 5 (ch.hqOut % 32)) else none) ∧
         (t.core k).ve.tables = (s.core k).ve.tables ∧ (t.core k).ve.bank = (s.core k).ve.bank ∧
         (t.core k).me = (s.core k).me ∧ (t.core k).sp = (s.core k).sp ∧ (t.core k).cc.dmem = (s.core k).cc.dmem ∧
         (t.core k).cc.veCnt.started = (s.core k).cc.veCnt.started + 1 ∧
         (t.core k).cc.veCnt.done = (s.core k).cc.veCnt.done)) ∧
  (∀ (l : SiteNo) (c : CoreNo) (s : State) (k : Nat) (j : ChainJob),
     s.key l c = some k → (s.core k).ve.chain = some j → s.veCap ≠ 0 →
     (∀ w ∈ j.writes, ∀ i o, s.cell w.a = some (2, i, o) → o < 0x400000) →
     (∀ w ∈ j.writes, w.meets (s.othersOnWay (.ve k)) = false) →
     ∃ t, exec (.veChainComplete l c) s = .next t ∧ Landed j.writes s t ∧ (t.core k).ve.chain = none ∧
       (∀ i, i ≠ k → (t.core i).cc = (s.core i).cc ∧ (t.core i).me = (s.core i).me ∧ (t.core i).ve = (s.core i).ve) ∧
       (t.core k).me = (s.core k).me ∧ (t.core k).ve.tables = (s.core k).ve.tables ∧
       (t.core k).ve.queue = (s.core k).ve.queue ∧ (t.core k).ve.cause = (s.core k).ve.cause ∧
       ((t.core k).ve.permOor = ((s.core k).ve.permOor || j.permOor)) ∧
       ((t.core k).ve.rowEmptySeen = ((s.core k).ve.rowEmptySeen || j.rowEmpty)) ∧
       (t.core k).cc.numStat = (s.core k).cc.numStat.set j.q.tag j.q.order s.tick j.nan j.inf j.sat ∧
       { (t.core k).cc with veCnt := (s.core k).cc.veCnt, numStat := (s.core k).cc.numStat } = (s.core k).cc ∧
       Completes j.q.num (s.core k).cc.veCnt (t.core k).cc.veCnt ∧
       (∀ h, j.hqIn = some h → j.hqOut ≠ some h → (s.hq k h.toNat).heldC ≠ 0 →
         (t.hq k h.toNat).releases = (s.hq k h.toNat).releases + 1 ∧ (t.hq k h.toNat).pops = (s.hq k h.toNat).pops) ∧
       (∀ h, j.hqOut = some h → j.hqIn ≠ some h → (s.hq k h.toNat).heldP ≠ 0 →
         (t.hq k h.toNat).pushes = (s.hq k h.toNat).pushes + 1 ∧
         (t.hq k h.toNat).stamps = (s.hq k h.toNat).stamps ++ [s.tick]) ∧
       (∀ n, (∀ h, j.hqIn = some h → h.toNat ≠ n) → (∀ h, j.hqOut = some h → h.toNat ≠ n) → t.hq k n = s.hq k n))

/-- 04 R130, R131: VE.TLOAD into a bank that is not active, with no load and no chain under way, starts and leaves the
tables as they are; its end fills the named bank, and only it, with the words of the image in the scratchpad: count n,
for a lookup table word i of the image, for a segment table scale, off and c0, c1, c2 of entry i from its 16-byte
entries. 04 R131: VE.TSWAP starts at once and changes no bank; at the pass boundary, when no earlier-issued chain runs,
the swap flips the active bank of its table and of no other. 04 R131, R132: VE.TLOAD that names the bank active at its
issue position is skipped and logged with cause tbl_active; the tables stay. -/
def Obligations.VeTables : Prop :=
  (∀ (l : SiteNo) (c : CoreNo) (s : State) (k : Nat) (q : QEntry) (rest : List QEntry),
     s.key l c = some k → (s.core k).ve.queue = q :: rest → q.op = 0x70 → reservedBits q.w (veMaskOf 0x70) = false →
     (s.core k).ve.chain = none → (s.core k).ve.tloads = [] → (s.core k).spPoison = [] →
     let table := fld q.w 24 3
     let n := fld q.w 42 12 + 1
     let a := fld q.w 29 13 * 512
     let act := bit (bitAt (s.core k).ve.posBank.toNat table)
     let bank := if fld q.w 27 2 = 2 then 1 - act else fld q.w 27 2
     table < 6 → fld q.w 27 2 ≠ 3 → (table < 4 → n ≤ 256) → bank ≠ act →
     (table < 4 → a + 16 + 16 * n ≤ 0x400000) → (4 ≤ table → a + 4 * n ≤ 0x400000) →
     ∃ t, exec (.veTload l ⟨c, []⟩) s = .next t ∧ (∀ j, j ≠ k → t.core j = s.core j) ∧ (t.core k).ve.queue = rest ∧
       (t.core k).ve.tables = (s.core k).ve.tables ∧ (t.core k).sp = (s.core k).sp ∧
       (t.core k).cc.veCnt.started = (s.core k).cc.veCnt.started + 1 ∧
       ∃ u, exec (.veTloadDone l c) t = .next u ∧ OnlyCore k t u ∧ (u.core k).ve.tloads = [] ∧
         (u.core k).ve.bank = (s.core k).ve.bank ∧ (u.core k).sp = (s.core k).sp ∧
         Completes q.num (t.core k).cc.veCnt (u.core k).cc.veCnt ∧
         (∀ key, key ≠ 2 * table + bank → sget (fun _ => VTable.init) (u.core k).ve.tables key =
           sget (fun _ => VTable.init) (s.core k).ve.tables key) ∧
         let v := sget (fun _ => VTable.init) (u.core k).ve.tables (2 * table + bank)
         v.n = n ∧
         (4 ≤ table → ∀ i, i < n → v.words.get i = BitVec.ofNat 32 ((s.core k).sp.nat (a + 4 * i) 4)) ∧
         (table < 4 → v.scale = BitVec.ofNat 32 ((s.core k).sp.nat a 4) ∧
           v.off = BitVec.ofNat 32 ((s.core k).sp.nat (a + 4) 4) ∧
           ∀ i j, i < n → j < 3 → v.words.get (3 * i + j) = BitVec.ofNat 32 ((s.core k).sp.nat (a + 16 + 16 * i + 4 * j) 4))) ∧
  (∀ (l : SiteNo) (c : CoreNo) (s : State) (k : Nat) (q : QEntry) (rest : List QEntry),
     s.key l c = some k → (s.core k).ve.queue = q :: rest → q.op = 0x71 → reservedBits q.w (veMaskOf 0x71) = false →
     fld q.w 24 3 < 6 → (s.core k).ve.swaps = [] → (s.core k).ve.chain = none →
     ∃ t, exec (.veTswap l c) s = .next t ∧ VeTakes k rest s t ∧ (t.core k).ve.bank = (s.core k).ve.bank ∧
       (t.core k).cc.veCnt.done = (s.core k).cc.veCnt.done ∧
       (∀ other : BitVec 3, other.toNat ≠ fld q.w 24 3 → exec (.tswapTakesEffect l c other) t = .next t) ∧
       ∃ u, exec (.tswapTakesEffect l c (BitVec.ofNat 3 (fld q.w 24 3))) t = .next u ∧ OnlyCore k t u ∧
         { (u.core k).ve with bank := (t.core k).ve.bank, swaps := (t.core k).ve.swaps } = (t.core k).ve ∧
         (u.core k).ve.swaps = [] ∧ (u.core k).sp = (s.core k).sp ∧ (u.core k).me = (s.core k).me ∧
         Completes q.num (t.core k).cc.veCnt (u.core k).cc.veCnt ∧
         ∀ i, i < 6 → (u.core k).ve.bank.getLsbD i =
           (if i = fld q.w 24 3 then !(s.core k).ve.bank.getLsbD i else (s.core k).ve.bank.getLsbD i)) ∧
  (∀ (l : SiteNo) (c : CoreNo) (s : State) (k : Nat) (q : QEntry) (rest : List QEntry),
     s.key l c = some k → (s.core k).ve.queue = q :: rest → q.op = 0x70 → reservedBits q.w (veMaskOf 0x70) = false →
     fld q.w 24 3 < 6 → (fld q.w 24 3 < 4 → fld q.w 42 12 < 256) →
     fld q.w 27 2 = bit (bitAt (s.core k).ve.posBank.toNat (fld q.w 24 3)) →
     ∃ t, exec (.veTload l ⟨c, []⟩) s = .next t ∧ (∀ j, j ≠ k → t.core j = s.core j) ∧
       (t.core k).ve.tables = (s.core k).ve.tables ∧ (t.core k).ve.tloads = (s.core k).ve.tloads ∧
       (t.core k).ve.queue = rest ∧ (t.core k).ve.cause.getLsbD veTblActive = true ∧
       (t.core k).cc.errSeq = (s.core k).cc.errSeq + 1 ∧ (t.core k).sp = (s.core k).sp ∧
       Completes q.num (s.core k).cc.veCnt (t.core k).cc.veCnt)

/-! ## The stream engine (06, 07) -/

/-- 06 R166, R167, 08 R243: SE.TDESC with a record that passes every check sets its table entry from the 128 bytes in
DMEM, and with the invalidate bit clears it; a record that fails leaves the entry invalid and the command is skipped and
logged. Every other entry stays. 07 R206, R212: SE.HQCFG with a record that passes its checks, on a queue with every
handle free and no endpoint waiting, configures the queue with its four counters and four positions 0, and leaves every
other queue, every context and the scratchpad as they are; on a queue with a handle not free or an endpoint waiting it
is skipped and logged with cause hq_busy and the queue stays. 07 R192, R204: SE.MCAST sets the group of its context: a
core mask of the own site, or a mesh group with its presented core. Every other context and everything else stays. -/
def Obligations.SeTables : Prop :=
  (∀ (l : SiteNo) (c : CoreNo) (s : State) (k : Nat) (q : QEntry) (rest : List QEntry) (bs : List Byte),
     s.key l c = some k → (s.core k).se.fence = none → (s.core k).se.queue = q :: rest → q.op = 0xA0 →
     reservedBits q.w (seMaskOf q.w) = false →
     let i := fld q.w 24 9
     (bitAt q.w 33 = true → fld q.w 34 16 = 0 → ∃ t, exec (.seTdesc l ⟨c, []⟩) s = .next t ∧ SeTakes k rest s t ∧
       Completes q.num (s.core k).cc.seCnt (t.core k).cc.seCnt ∧
       { (t.core k).se with queue := (s.core k).se.queue, tdescs := (s.core k).se.tdescs } = (s.core k).se ∧
       ∀ n, sget (fun _ => none) (t.core k).se.tdescs n =
         if n = i then none else sget (fun _ => none) (s.core k).se.tdescs n) ∧
     (bitAt q.w 33 = false → fld q.w 34 16 % 128 = 0 → (s.core k).cc.dmemRead (fld q.w 34 16) 128 = some bs →
       (s.descCheck (fld q.w 34 16) bs = none → ∃ t, exec (.seTdesc l ⟨c, []⟩) s = .next t ∧ SeTakes k rest s t ∧
         Completes q.num (s.core k).cc.seCnt (t.core k).cc.seCnt ∧
         { (t.core k).se with queue := (s.core k).se.queue, tdescs := (s.core k).se.tdescs } = (s.core k).se ∧
         ∀ n, sget (fun _ => none) (t.core k).se.tdescs n =
           if n = i then some (decodeDesc bs) else sget (fun _ => none) (s.core k).se.tdescs n) ∧
       (∀ check cause dim, s.descCheck (fld q.w 34 16) bs = some (check, cause, dim) →
         ∃ t, exec (.seTdesc l ⟨c, []⟩) s = .next t ∧ (∀ j, j ≠ k → t.core j = s.core j) ∧ (t.core k).se.queue = rest ∧
           (t.core k).sp = (s.core k).sp ∧ (t.core k).cc.errSeq = (s.core k).cc.errSeq + 1 ∧
           Completes q.num (s.core k).cc.seCnt (t.core k).cc.seCnt ∧
           ∀ n, sget (fun _ => none) (t.core k).se.tdescs n =
             if n = i then none else sget (fun _ => none) (s.core k).se.tdescs n))) ∧
  (∀ (l : SiteNo) (c : CoreNo) (s : State) (k : Nat) (q : QEntry) (rest : List QEntry) (bs : List Byte),
     s.key l c = some k → (s.core k).se.fence = none → (s.core k).se.queue = q :: rest → q.op = 0x90 →
     reservedBits q.w (seMaskOf q.w) = false → fld q.w 29 16 % 32 = 0 →
     (s.core k).cc.dmemRead (fld q.w 29 16) 32 = some bs → hqReserved bs = false →
     ((decodeHqCfg bs).clears = true ∨
       (decodeHqCfg bs).rolesOk = true ∧ (s.core k).se.poolOk (fld q.w 24 5) (decodeHqCfg bs) = true) →
     let busy := (s.hq k (fld q.w 24 5)).used ≠ 0 ∨ s.hqWaited k (fld q.w 24 5) = true
     (¬busy → ∃ t, exec (.seHqcfg l ⟨c, []⟩) s = .next t ∧ (∀ j, j ≠ k → t.core j = s.core j) ∧
       (t.core k).se.queue = rest ∧ (t.core k).sp = (s.core k).sp ∧ (t.core k).se.ctxs = (s.core k).se.ctxs ∧
       (t.core k).cc.seCnt.started = (s.core k).cc.seCnt.started + 1 ∧
       Completes q.num (s.core k).cc.seCnt (t.core k).cc.seCnt ∧
       (∀ n, n ≠ fld q.w 24 5 → t.hq k n = s.hq k n) ∧
       (t.hq k (fld q.w 24 5)).cfg = (if (decodeHqCfg bs).clears then none else some (decodeHqCfg bs)) ∧
       (t.hq k (fld q.w 24 5)).acquires = 0 ∧ (t.hq k (fld q.w 24 5)).pushes = 0 ∧
       (t.hq k (fld q.w 24 5)).pops = 0 ∧ (t.hq k (fld q.w 24 5)).releases = 0 ∧
       (t.hq k (fld q.w 24 5)).pAcq = 0 ∧ (t.hq k (fld q.w 24 5)).pPush = 0 ∧
       (t.hq k (fld q.w 24 5)).pPop = 0 ∧ (t.hq k (fld q.w 24 5)).pRel = 0) ∧
     (busy → ∃ t, exec (.seHqcfg l ⟨c, []⟩) s = .next t ∧ (∀ j, j ≠ k → t.core j = s.core j) ∧
       (t.core k).se.hqs = (s.core k).se.hqs ∧ (t.core k).se.queue = rest ∧ (t.core k).sp = (s.core k).sp ∧
       (t.core k).se.cause.getLsbD 10 = true ∧ (t.core k).cc.errSeq = (s.core k).cc.errSeq + 1)) ∧
  (∀ (l : SiteNo) (c : CoreNo) (s : State) (k : Nat) (q : QEntry) (rest : List QEntry),
     s.key l c = some k → (s.core k).se.fence = none → (s.core k).se.queue = q :: rest → q.op = 0x98 →
     reservedBits q.w (seMaskOf q.w) = false →
     ∃ t, exec (.seMcast l c) s = .next t ∧ SeTakes k rest s t ∧ Completes q.num (s.core k).cc.seCnt (t.core k).cc.seCnt ∧
       { (t.core k).se with queue := (s.core k).se.queue, ctxs := (s.core k).se.ctxs } = (s.core k).se ∧
       ∀ x, (t.core k).se.ctx x = if x = fld q.w 24 3 then
         { (s.core k).se.ctx x with group := some (if bitAt q.w 27
             then .mesh (BitVec.ofNat 6 (fld q.w 28 6)) (BitVec.ofNat 5 (fld q.w 34 5))
             else .die (BitVec.ofNat 32 (fld q.w 28 32))) }
         else (s.core k).se.ctx x)

/-- 07 R193: SE.FENCE takes its place and holds the SE queue; it completes, with fence_cnt one up, when every context it
names has ended and none of its pushes and notices is on its way; until then nothing changes. 07 R222: SE_CTL.pause sets
or clears the pause and changes nothing else; while it is set a stream context runs no instruction. 07 R214: HQ_STALL at
an endpoint whose wait has passed SE_HQ_WAIT_LIMIT sets hq_stall, once per wait, and records the endpoint and the queue
if SE_HQ_STALL is free; before the limit nothing changes. -/
def Obligations.SeFencesAndPauses : Prop :=
  (∀ (l : SiteNo) (c : CoreNo) (s : State) (k : Nat) (q : QEntry) (rest : List QEntry),
     s.key l c = some k → (s.core k).se.fence = none → (s.core k).se.queue = q :: rest → q.op = 0xA8 →
     reservedBits q.w (seMaskOf q.w) = false →
     let open_ := ∃ x, x < 8 ∧ bitAt (fld q.w 24 8) x = true ∧ (((s.core k).se.ctx x).running = true ∨ s.noticesOf k x = true)
     ∃ t, exec (.seFence l c) s = .next t ∧ SeTakes k rest s t ∧
       (t.core k).cc.seCnt.done = (s.core k).cc.seCnt.done ∧
       { (t.core k).se with queue := (s.core k).se.queue, fence := none } = (s.core k).se ∧
       (∀ credit ecc i, i = Instr.seTdesc l ⟨c, ecc⟩ ∨ i = .seStart l ⟨c, ecc⟩ ∨ i = .seCopy l c ⟨credit, ecc⟩ ∨ i = .seHqcfg l ⟨c, ecc⟩ ∨
         i = .seMcast l c ∨ i = .seFence l c → exec i t = .next t) ∧
       (open_ → exec (.fenceComplete l c) t = .next t) ∧
       (¬open_ → ∃ u, exec (.fenceComplete l c) t = .next u ∧ OnlyCore k t u ∧
         { (u.core k).se with fence := (t.core k).se.fence, fenceCnt := (t.core k).se.fenceCnt } = (t.core k).se ∧
         (u.core k).se.fence = none ∧ (u.core k).se.fenceCnt = (s.core k).se.fenceCnt + 1 ∧
         (u.core k).sp = (s.core k).sp ∧ (u.core k).me = (s.core k).me ∧
         Completes q.num (t.core k).cc.seCnt (u.core k).cc.seCnt)) ∧
  (∀ (l : SiteNo) (c : CoreNo) (x : BitVec 3) (pause : Bool) (s : State) (k : Nat), s.key l c = some k →
     ∃ t, exec (.seCtlPause l c pause) s = .next t ∧ OnlyCore k s t ∧
       t.core k = { s.core k with se := { (s.core k).se with pause := pause } } ∧
       (pause = true → ∀ credit ecc i, i = Instr.spNop l c x ∨ i = .spLoop l c x ∨ i = .spEndl l c x ∨
         i = .spXfer l c x ⟨credit, ecc⟩ ∨ i = .spAcq l c x ∨ i = .spPush l c x ∨ i = .spPop l c x ∨ i = .spRel l c x ∨ i = .spSetx l c x ∨
         i = .spWaitt l c x ∨ i = .spEnd l c x → exec i t = .next t)) ∧
  (∀ (l : SiteNo) (c : CoreNo) (ep : Byte) (s : State) (k : Nat) (v : HqWait),
     s.key l c = some k → (s.core k).se.waits = [v] → v.endpoint = ep → v.stalled = false →
     ((s.tick - v.since).toNat ≤ (s.core k).se.waitLimit.toNat → exec (.hqStall l c ep) s = .next s) ∧
     ((s.core k).se.waitLimit.toNat < (s.tick - v.since).toNat →
       ∃ t, exec (.hqStall l c ep) s = .next t ∧ OnlyCore k s t ∧ { t.core k with se := (s.core k).se } = s.core k ∧
         (t.core k).se.cause.getLsbD 13 = true ∧ (t.core k).se.waits = [{ v with stalled := true }] ∧
         (t.core k).se.hqs = (s.core k).se.hqs ∧
         ((s.core k).se.cause.getLsbD 13 = true → (t.core k).se.hqStallReg = (s.core k).se.hqStallReg) ∧
         ((s.core k).se.cause.getLsbD 13 = false → fld (t.core k).se.hqStallReg.toNat 0 5 = v.hq.toNat ∧
           fld (t.core k).se.hqStallReg.toNat 8 8 = ep.toNat ∧
           fld (t.core k).se.hqStallReg.toNat 32 32 = v.since.toNat % 2 ^ 32) ∧
         exec (.hqStall l c ep) t = .next t))

/-- 07 R193, R200, 06 R168: SE.START of a program that passes its check, on a context that does not run, starts it at
instruction 0 with X and Y zero, no open loop, the program's header and code read from DMEM and a copy of every
descriptor it names. The other contexts, the queues and the scratchpad stay; the command is started, not done. 07 R193:
SE.COPY between two valid descriptors of equal logical sizes starts: it leaves the queue, is started, and no scratchpad
byte changes before its transfers land; its context runs or, with nothing to move, has ended. With unequal sizes it is
skipped and logged with cause bad_shape. 07 R193, 08 R243: SP.END with no transfer of its context under way ends it: the
context no longer runs and its command is done; with transfers under way it waits for them. -/
def Obligations.SePrograms : Prop :=
  (∀ (l : SiteNo) (c : CoreNo) (s : State) (k : Nat) (q : QEntry) (rest : List QEntry) (bs : List Byte),
     s.key l c = some k → (s.core k).se.fence = none → (s.core k).se.queue = q :: rest → q.op = 0x80 →
     reservedBits q.w (seMaskOf q.w) = false → (s.core k).se.pause = false → s.pwr.level.toNat < 3 →
     let x := fld q.w 24 3
     let a := fld q.w 27 16
     let n := (s.core k).cc.dmem.nat a 1 % 16 + 1
     ((s.core k).se.ctx x).running = false → a % 16 = 0 → a + 16 + 8 * n ≤ 65536 →
     (s.core k).cc.dmemRead a (16 + 8 * n) = some bs → s.progCheck k x bs (decodeSProg bs n).code = none →
     ∃ t, exec (.seStart l ⟨c, []⟩) s = .next t ∧ SeTakes k rest s t ∧ (t.core k).cc.seCnt.done = (s.core k).cc.seCnt.done ∧
       { (t.core k).se with queue := (s.core k).se.queue, ctxs := (s.core k).se.ctxs } = (s.core k).se ∧
       (∀ y, y ≠ x → (t.core k).se.ctx y = (s.core k).se.ctx y) ∧
       ((t.core k).se.ctx x).running = true ∧ ((t.core k).se.ctx x).pc = 0 ∧
       ((t.core k).se.ctx x).prog = some (decodeSProg bs n) ∧ ((t.core k).se.ctx x).loops = [] ∧
       (∀ d, d < 6 → nth ((t.core k).se.ctx x).x d 1 = 0 ∧ nth ((t.core k).se.ctx x).y d 1 = 0) ∧
       ((t.core k).se.ctx x).q = some q ∧ ((t.core k).se.ctx x).ending = false ∧
       ((t.core k).se.ctx x).held = heldOf (s.core k).se.desc (decodeSProg bs n).code) ∧
  (∀ (l : SiteNo) (c : CoreNo) (s : State) (k : Nat) (q : QEntry) (rest : List QEntry) (a b : RDesc) (credit : Bool),
     s.key l c = some k → (s.core k).se.fence = none → (s.core k).se.queue = q :: rest → q.op = 0x88 →
     reservedBits q.w (seMaskOf q.w) = false → (s.core k).se.pause = false → s.pwr.level.toNat < 3 →
     ((s.core k).se.ctx (fld q.w 24 3)).running = false → fld q.w 48 2 ≠ 0 →
     resolvePair (s.core k).se.desc true (fld q.w 27 9) (fld q.w 36 9) = some (a, b) →
     (b.d.scatAdd = true → fmtInt b.d.fmt = true → fmtInt a.d.fmt = true) →
     rndReserved (BitVec.ofNat 3 (fld q.w 45 3)) = false →
     (a.sizes = b.sizes → ∃ t, exec (.seCopy l c ⟨credit, []⟩) s = .next t ∧ (∀ j, j ≠ k → t.core j = s.core j) ∧
       (t.core k).se.queue = rest ∧ (t.core k).sp = (s.core k).sp ∧ (t.core k).me = (s.core k).me ∧
       (t.core k).se.hqs = (s.core k).se.hqs ∧ (t.core k).cc.seCnt.started = (s.core k).cc.seCnt.started + 1 ∧
       (∀ y, y ≠ fld q.w 24 3 → (t.core k).se.ctx y = (s.core k).se.ctx y) ∧
       (((t.core k).se.ctx (fld q.w 24 3)).running = true ∧ ((t.core k).se.ctx (fld q.w 24 3)).q = some q ∧
           (t.core k).cc.seCnt.done = (s.core k).cc.seCnt.done ∨
         ((t.core k).se.ctx (fld q.w 24 3)).running = false ∧ Completes q.num (s.core k).cc.seCnt (t.core k).cc.seCnt)) ∧
     (a.sizes ≠ b.sizes → ∃ t, exec (.seCopy l c ⟨credit, []⟩) s = .next t ∧ (t.core k).se.queue = rest ∧
       (t.core k).se.ctxs = (s.core k).se.ctxs ∧ (t.core k).sp = (s.core k).sp ∧
       (t.core k).se.cause.getLsbD 3 = true ∧ (t.core k).cc.errSeq = (s.core k).cc.errSeq + 1)) ∧
  (∀ (l : SiteNo) (c : CoreNo) (x : BitVec 3) (s : State) (k : Nat) (w : DWord) (q : QEntry),
     s.key l c = some k → AtInstr s k x.toNat w → spOp w = 0xF → ((s.core k).se.ctx x.toNat).q = some q →
     ∃ t, exec (.spEnd l c x) s = .next t ∧ OnlyCore k s t ∧ (t.core k).sp = (s.core k).sp ∧
       (∀ y, y ≠ x.toNat → (t.core k).se.ctx y = (s.core k).se.ctx y) ∧ (t.core k).se.hqs = (s.core k).se.hqs ∧
       (((s.core k).se.ctx x.toNat).inflight = [] → ((t.core k).se.ctx x.toNat).running = false ∧
         Completes q.num (s.core k).cc.seCnt (t.core k).cc.seCnt) ∧
       (((s.core k).se.ctx x.toNat).inflight ≠ [] → ((t.core k).se.ctx x.toNat).running = true ∧
         ((t.core k).se.ctx x.toNat).ending = true ∧ (t.core k).cc.seCnt = (s.core k).cc.seCnt))

/-- 07 R195, R196: SP.NOP goes on; SP.SETX sets one component of X or Y to its signed value and goes on; SP.WAITT goes
on when its tick of the present period has come, and else waits for it, its SP_WAITT_TICK_REACHED letting it go on when
the tick is reached. Only the context itself changes, and in it only the position and what is named. 07 R196: SP.LOOP
opens a loop of cnt_m1 + 1 iterations; SP.ENDL adds the increments to X[xdim] and Y[ydim] and goes back to the body
while iterations are left; after the last it takes (cnt_m1 + 1) times the increments off again and goes on. -/
def Obligations.SpControl : Prop :=
  (∀ (l : SiteNo) (c : CoreNo) (x : BitVec 3) (s : State) (k : Nat) (w : DWord),
     s.key l c = some k → AtInstr s k x.toNat w →
     let cx := (s.core k).se.ctx x.toNat
     let start : DWord := match (s.core k).ctx with
       | some n => (s.ctx n.toNat).pStart
       | none => 0
     (spOp w = 0x0 → ∃ t, exec (.spNop l c x) s = .next t ∧ OnlySeCtx k x.toNat s t ∧
       (t.core k).se.ctx x.toNat = { cx with pc := cx.pc + 1, waitKind := 0 }) ∧
     (spOp w = 0x8 → ∃ t, exec (.spSetx l c x) s = .next t ∧ OnlySeCtx k x.toNat s t ∧
       { (t.core k).se.ctx x.toNat with x := cx.x, y := cx.y } = { cx with pc := cx.pc + 1, waitKind := 0 } ∧
       (∀ d, nth ((t.core k).se.ctx x.toNat).x d 0 = if spF w 4 1 = 0 ∧ d = spF w 5 3 ∧ d < cx.x.length
         then BitVec.ofInt 32 (sfld w.toNat 8 24) else nth cx.x d 0) ∧
       (∀ d, nth ((t.core k).se.ctx x.toNat).y d 0 = if spF w 4 1 ≠ 0 ∧ d = spF w 5 3 ∧ d < cx.y.length
         then BitVec.ofInt 32 (sfld w.toNat 8 24) else nth cx.y d 0)) ∧
     (spOp w = 0x9 → cx.waitKind ≠ 6 →
       let target := start + BitVec.ofNat 64 (spF w 4 32)
       ∃ t, exec (.spWaitt l c x) s = .next t ∧ OnlySeCtx k x.toNat s t ∧
         (t.core k).se.ctx x.toNat = if target.toNat ≤ s.tick.toNat then { cx with pc := cx.pc + 1, waitKind := 0 }
           else { cx with waitKind := 6, waitTick := target }) ∧
     (spOp w = 0x9 → cx.waitKind = 6 → cx.waitTick.toNat ≤ s.tick.toNat →
       ∃ t, exec (.spWaittTickReached l c x) s = .next t ∧ OnlySeCtx k x.toNat s t ∧
         (t.core k).se.ctx x.toNat = { cx with pc := cx.pc + 1, waitKind := 0 })) ∧
  (∀ (l : SiteNo) (c : CoreNo) (x : BitVec 3) (s : State) (k : Nat) (w : DWord),
     s.key l c = some k → AtInstr s k x.toNat w →
     let cx := (s.core k).se.ctx x.toNat
     (spOp w = 0x1 → ∃ t, exec (.spLoop l c x) s = .next t ∧ OnlySeCtx k x.toNat s t ∧
       (t.core k).se.ctx x.toNat = { cx with
         pc := cx.pc + 1, waitKind := 0,
         loops := { level := BitVec.ofNat 3 (spF w 4 3), body := cx.pc + 1, left := spF w 7 24 + 1, word := w } :: cx.loops }) ∧
     (spOp w = 0x2 → ∀ lp rest, cx.loops = lp :: rest → ∃ t, exec (.spEndl l c x) s = .next t ∧ OnlySeCtx k x.toNat s t ∧
       let n := (spF lp.word 7 24 + 1 : Nat)
       let xi := BitVec.ofInt 32 (sfld lp.word.toNat 34 12)
       let yi := BitVec.ofInt 32 (sfld lp.word.toNat 49 12)
       ((t.core k).se.ctx x.toNat).loops = (if 1 < lp.left then { lp with left := lp.left - 1 } :: rest else rest) ∧
       ((t.core k).se.ctx x.toNat).pc = (if 1 < lp.left then lp.body else cx.pc + 1) ∧
       (∀ d, d < cx.x.length → nth ((t.core k).se.ctx x.toNat).x d 0 = if d = spF lp.word 31 3 then
         (if 1 < lp.left then nth cx.x d 0 + xi else nth cx.x d 0 + xi - BitVec.ofNat 32 n * xi) else nth cx.x d 0) ∧
       (∀ d, d < cx.y.length → nth ((t.core k).se.ctx x.toNat).y d 0 = if d = spF lp.word 46 3 then
         (if 1 < lp.left then nth cx.y d 0 + yi else nth cx.y d 0 + yi - BitVec.ofNat 32 n * yi) else nth cx.y d 0)))

/-- 07 R205, R208, R211: on queues of the core itself, SP.ACQ by the configured producer takes a free buffer at the
acquire position, SP.PUSH makes the oldest acquired handle ready with the present tick as its stamp, and SP.REL frees
the oldest popped one, sending a remote producer one credit. With no free buffer the acquire waits: the queue stays. A
queue whose remote producer is a context of its own core is acquired with a credit, which its counter gives up, and
pushed with a notice. Other queues, the other contexts and the scratchpad stay. 07 R208, R214: SP.POP by the configured
consumer takes the oldest ready handle; with none ready it waits, the queue staying as it is, and the wait of its
endpoint is entered with the present tick. (The queue is not paced.) 07 R211: a release notice, taken out of the mesh,
adds its credits to the remote producer's counter for that queue (the first one after SE.HQCFG sets the counter), and a
push notice makes the oldest acquired handle of the consumer's queue ready, stamped on arrival. -/
def Obligations.SpQueues : Prop :=
  (∀ (l : SiteNo) (c : CoreNo) (x : BitVec 3) (s : State) (k : Nat) (w : DWord),
     s.key l c = some k → AtInstr s k x.toNat w →
     let cx := (s.core k).se.ctx x.toNat
     let n := spF w 4 5
     let me := ((s.whoIs k).1, (s.whoIs k).2, k)
     let credits (u : State) : Nat := sget (fun _ => 0) (u.core k).se.remotes (remoteKey me.1 me.2.1 n)
     let kept (t : State) : Prop := OnlyCore k s t ∧ (t.core k).sp = (s.core k).sp ∧ (t.core k).cc = (s.core k).cc ∧
       (∀ y, y ≠ x.toNat → (t.core k).se.ctx y = (s.core k).se.ctx y) ∧ (∀ m, m ≠ n → t.hq k m = s.hq k m)
     (spOp w = 0x4 → spF w 9 1 = 0 → s.mayProduce k x.toNat k n = true →
       let free := if s.hqRemote k n then 0 < credits s else (s.hq k n).used < (s.hq k n).count
       ∃ t, exec (.spAcq l c x) s = .next t ∧ kept t ∧
         (free → (t.hq k n).acquires = (s.hq k n).acquires + 1 ∧
           (t.hq k n).pushes = (s.hq k n).pushes ∧ (t.hq k n).releases = (s.hq k n).releases ∧
           ((t.core k).se.ctx x.toNat).pc = cx.pc + 1 ∧ credits t = credits s - (if s.hqRemote k n then 1 else 0) ∧
           ((t.core k).se.ctx x.toNat).acqHeld = cx.acqHeld ++ [{ hq := BitVec.ofNat 5 n, handle := (s.hq k n).pAcq, mc := false }]) ∧
         (¬free → t.hq k n = s.hq k n ∧ ((t.core k).se.ctx x.toNat).pc = cx.pc ∧ credits t = credits s ∧
           ((t.core k).se.ctx x.toNat).waitKind = (if s.hqRemote k n then 3 else 2))) ∧
     (spOp w = 0x5 → spF w 9 1 = 0 → s.mayProduce k x.toNat k n = true → s.memberHeld n me = true → cx.inflight = [] →
       (s.hqRemote k n = false → ∃ t, exec (.spPush l c x) s = .next t ∧ kept t ∧
         (t.hq k n).pushes = (s.hq k n).pushes + 1 ∧ (t.hq k n).stamps = (s.hq k n).stamps ++ [s.tick] ∧
         (t.hq k n).acquires = (s.hq k n).acquires ∧ ((t.core k).se.ctx x.toNat).pc = cx.pc + 1) ∧
       (s.hqRemote k n = true → ∃ t, exec (.spPush l c x) s = .next t ∧ t.hq k n = s.hq k n ∧
         ((t.core k).se.ctx x.toNat).pc = cx.pc + 1 ∧
         ∃ m : Notice, t.notices = s.notices ++ [m] ∧ m.push = true ∧ m.hq.toNat = n ∧ m.start = false)) ∧
     (spOp w = 0x7 → s.mayConsume k x.toNat n = true → cx.inflight = [] → (s.hq k n).heldC ≠ 0 →
       (∀ g, (s.hq k n).cfg = some g → g.remote = false) → ∃ t, exec (.spRel l c x) s = .next t ∧ kept t ∧
         (t.hq k n).releases = (s.hq k n).releases + 1 ∧ (t.hq k n).pops = (s.hq k n).pops ∧
         ((t.core k).se.ctx x.toNat).pc = cx.pc + 1) ∧
     (spOp w = 0x7 → s.mayConsume k x.toNat n = true → cx.inflight = [] → (s.hq k n).heldC ≠ 0 →
       (∃ g, (s.hq k n).cfg = some g ∧ g.remote = true) → ∃ t, exec (.spRel l c x) s = .next t ∧
         (t.hq k n).releases = (s.hq k n).releases + 1 ∧
         ∃ m : Notice, t.notices = s.notices ++ [m] ∧ m.push = false ∧ m.credits = 1 ∧ m.hq.toNat = n ∧ m.start = false)) ∧
  (∀ (l : SiteNo) (c : CoreNo) (x : BitVec 3) (s : State) (k : Nat) (w : DWord) (g : HqCfg),
     s.key l c = some k → AtInstr s k x.toNat w → spOp w = 0x6 → s.mayConsume k x.toNat (spF w 4 5) = true →
     (s.hq k (spF w 4 5)).cfg = some g → g.paced = false → (s.core k).se.waits = [] →
     let cx := (s.core k).se.ctx x.toNat
     let n := spF w 4 5
     ∃ t, exec (.spPop l c x) s = .next t ∧ OnlyCore k s t ∧ (t.core k).sp = (s.core k).sp ∧
       (∀ y, y ≠ x.toNat → (t.core k).se.ctx y = (s.core k).se.ctx y) ∧ (∀ m, m ≠ n → t.hq k m = s.hq k m) ∧
       ((s.hq k n).ready ≠ 0 → (t.hq k n).pops = (s.hq k n).pops + 1 ∧ (t.hq k n).stamps = (s.hq k n).stamps.tail ∧
         (t.hq k n).pushes = (s.hq k n).pushes ∧ ((t.core k).se.ctx x.toNat).pc = cx.pc + 1 ∧
         ((t.core k).se.ctx x.toNat).popHeld = cx.popHeld ++ [{ hq := BitVec.ofNat 5 n, handle := (s.hq k n).pPop, mc := false }]) ∧
       ((s.hq k n).ready = 0 → t.hq k n = s.hq k n ∧ ((t.core k).se.ctx x.toNat).pc = cx.pc ∧
         ((t.core k).se.ctx x.toNat).waitKind = 1 ∧
         ∃ v, (t.core k).se.waits = [v] ∧ v.endpoint.toNat = x.toNat + 1 ∧ v.hq.toNat = n ∧ v.acq = false ∧ v.since = s.tick)) ∧
  (∀ (l : SiteNo) (c : CoreNo) (n : BitVec 5) (s : State) (k : Nat) (rest : List Notice), s.key l c = some k →
     (∀ m g pk, s.notices = m :: rest → m.push = false → m.site = l → m.core = c → m.hq = n →
       (s.hq k n.toNat).cfg = some g → s.key g.rsite g.rcore = some pk →
       ∃ t, exec (.releaseNotice l c n) s = .next t ∧ t.notices = rest ∧ OnlyCore pk { s with notices := rest } t ∧
         { t.core pk with se := (s.core pk).se } = s.core pk ∧
         { (t.core pk).se with remotes := (s.core pk).se.remotes } = (s.core pk).se ∧
         ∀ key, sget (fun _ => 0) (t.core pk).se.remotes key = if key = remoteKey l.toNat c.toNat n.toNat
           then (if m.start then 0 else sget (fun _ => 0) (s.core pk).se.remotes key) + m.credits
           else sget (fun _ => 0) (s.core pk).se.remotes key) ∧
     (∀ m, s.notices = m :: rest → m.push = true → m.site = l → m.core = c → m.hq = n → (s.hq k n.toNat).heldP ≠ 0 →
       ∃ t, exec (.remotePush l c n) s = .next t ∧ t.notices = rest ∧ OnlyCore k { s with notices := rest } t ∧
         (t.hq k n.toNat).pushes = (s.hq k n.toNat).pushes + 1 ∧
         (t.hq k n.toNat).stamps = (s.hq k n.toNat).stamps ++ [s.tick] ∧
         (∀ j, j ≠ n.toNat → t.hq k j = s.hq k j) ∧ (t.core k).sp = (s.core k).sp))

/-- 07 R197–R201, R227: SP.XFER whose descriptors its context holds a valid copy of, used as they stand (no
buffer-relative base), makes its transfers, behind those the context had. With mesh credit it issues them into free
slots: with all of them issued the context goes on to the next instruction; while some wait for slots it shows wait_kind
5. Without mesh credit they all wait, with wait_kind 7. Neither the scratchpad nor any queue changes until they land. 07
R201, R220, 02 R65: the oldest transfer of a context lands: its writes are in place and nothing else of the memories
changes; once no protected block of it waits for parity it leaves the context and the transfer count is one up. (It met
no absent site, no closure and no poison, its sites are still in service, 01 R27, and no other stream has a write to its
bytes on its way, 06 R179.) -/
def Obligations.SpTransfers : Prop :=
  (∀ (l : SiteNo) (c : CoreNo) (x : BitVec 3) (s : State) (k : Nat) (w : DWord) (a b : RDesc) (credit : Bool),
     s.key l c = some k → AtInstr s k x.toNat w → spOp w = 0x3 → xSrcRel w = false → xDstRel w = false →
     resolvePair (fun i => (((s.core k).se.ctx x.toNat).held.find? (fun h => h.1 == i)).map Prod.snd) false (xSrc w) (xDst w) =
       some (a, b) →
     let old := (s.core k).se.ctx x.toNat
     ∃ t, exec (.spXfer l c x ⟨credit, []⟩) s = .next t ∧ (∀ j, j ≠ k → t.core j = s.core j) ∧
       (t.core k).sp = (s.core k).sp ∧ (t.core k).me = (s.core k).me ∧ (t.core k).cc = (s.core k).cc ∧
       (t.core k).se.hqs = (s.core k).se.hqs ∧ (∀ y, y ≠ x.toNat → (t.core k).se.ctx y = (s.core k).se.ctx y) ∧
       let new := (t.core k).se.ctx x.toNat
       (credit = true → new.toIssue = [] → new.pc = old.pc + 1 ∧ new.waitKind = 0) ∧
       (credit = true → new.toIssue ≠ [] → new.pc = old.pc ∧ new.waitKind = 5) ∧
       (credit = false → new.pc = old.pc ∧ new.waitKind = 7 ∧ new.inflight = old.inflight) ∧
       ∃ ts, ts ≠ [] ∧ new.inflight ++ new.toIssue = old.inflight ++ ts ∧ ∀ f ∈ ts, f.landed = false) ∧
  (∀ (l : SiteNo) (c : CoreNo) (x : BitVec 3) (s : State) (k : Nat) (f : Xfer) (rest : List Xfer),
     s.key l c = some k → ((s.core k).se.ctx x.toNat).inflight = f :: rest → f.landed = false → f.poison = false →
     f.lost = false → f.sealedOut = false → ((s.core k).se.ctx x.toNat).ending = false →
     (∀ w ∈ f.writes, ∀ i o, s.cell w.a = some (2, i, o) → o < 0x400000) →
     (∀ p ∈ f.srcs, s.present p = true) → (∀ w ∈ f.writes, s.wrGone w = false) →
     (∀ w ∈ f.writes, w.meets (s.othersOnWay (.se k x.toNat)) = false) →
     ∃ t, exec (.transferComplete l c x) s = .next t ∧ Landed f.writes s t ∧
       (t.core k).cc = { (s.core k).cc with
         numStat := (s.core k).cc.numStat.set ((s.core k).se.ctx x.toNat).tag
           ((((s.core k).se.ctx x.toNat).q.map QEntry.order).getD 0) s.tick f.nan f.inf f.sat } ∧
       (∀ j, (t.core j).me = (s.core j).me) ∧ (t.core k).se.hqs = (s.core k).se.hqs ∧
       (t.protBusy f.writes = true → ((t.core k).se.ctx x.toNat).inflight = { f with landed := true } :: rest ∧
         (t.core k).se.xferCnt = (s.core k).se.xferCnt) ∧
       (t.protBusy f.writes = false → (t.core k).se.xferCnt = (s.core k).se.xferCnt + 1 ∧
         ((t.core k).se.ctx x.toNat).inflight ++ ((t.core k).se.ctx x.toNat).toIssue =
           rest ++ ((s.core k).se.ctx x.toNat).toIssue))

/-! ## The orrery (13) -/

/-- 13 R404, 08 R255: a MARK completes once nothing before it is open, and touches nothing but its entry. A START, its
context running and its period reached, starts the CC of every core it names that stands in state 0, 6 or 7 at the
entry's pc and bank, the registers keeping their values, and its commands are of the context's newest step (02 R56); it
is then a started entry, with the log counts of its cores, and nothing else of the machine changes; an earlier entry
keeps what it left on the cores that this one takes. With no such entry to start, or before its period, each changes
nothing. 13 R404, 09 R266, R280, R298: a STEP whose policy record is in range begins its step: the record shows the
entry's step number in phase FWD under the scale exponent carried from the step before, every core of the context has
the 16-byte step header in its DMEM at the policy's offset and its nan, inf and sat cleared, and the named cores start;
a step before it that is committed and not DONE goes on in UPD beside it. A policy out of range stops the context with
outcome 5 and ends the entry with status 2. 13 R403, R405: ENTRY_FINISHED reports the first finished entry: its 32-byte
record goes into the completion ring and the producer index after it, the irq flag raises the context's PLIC source, and
the entry is gone. Beside the two, GDDR7 stands. 13 R404, 14 R429, 08 R250: a LOAD is measured first, through channel 1
of the security block; then its image is written on every core it names, into DMEM or into the IMEM bank its target
names, whose version it sets; on a core where that bank is active nothing is written and the entry completes with status
3, else with status 0. 14 R435: one claimed before its context was keyed is refused with status 3. 13 R398: nothing
starts or is reported while the context's orrery core is out of service. -/
def Obligations.EntriesAndSteps : Prop :=
  (∀ (ctx : BitVec 4) (s : State) (e : Entry),
     (s.nextEntry ctx.toNat 4 = some e → ∃ t, exec (.mark ctx) s = .next t ∧ { t with ctxs := s.ctxs } = s ∧
       OnlyCtx ctx.toNat s t ∧ t.ctx ctx.toNat = { s.ctx ctx.toNat with
         entries := (s.ctx ctx.toNat).entries.map (fun f =>
           if f.index = e.index then { f with started := true, finished := true } else f) }) ∧
     (s.nextEntry ctx.toNat 4 = none → exec (.mark ctx) s = .next s) ∧
     (s.nextEntry ctx.toNat 2 = none ∨ s.paceReached ctx.toNat = false → exec (.start ctx) s = .next s) ∧
     (s.nextEntry ctx.toNat 2 = some e → s.paceReached ctx.toNat = true →
       ∃ t, exec (.start ctx) s = .next t ∧ { t with ctxs := s.ctxs, cores := s.cores } = s ∧ OnlyCtx ctx.toNat s t ∧
         t.ctx ctx.toNat = { s.ctx ctx.toNat with
           entries := (s.ctx ctx.toNat).entries.map (fun f => if f.index = e.index then { f with
               started := true, logAt := (if e.logAt = [] then (s.entryCores e).map (fun x => (x.2.2, (s.core x.2.2).cc.errSeq))
                 else e.logAt) }
             else if f.started = true ∧ f.finished = false ∧ f.kind ≠ 1 then { f with doneOn := f.doneOn ++ s.takenBy f e }
             else f) } ∧
         (∀ k, (∀ x ∈ s.entryCores e, x.2.2 ≠ k) → t.core k = s.core k) ∧
         ∀ x ∈ s.entryCores e, { t.core x.2.2 with cc := (s.core x.2.2).cc, stepNo := (s.core x.2.2).stepNo } = s.core x.2.2 ∧
           (t.core x.2.2).stepNo = (s.srec ctx.toNat).step ∧ (t.core x.2.2).cc.regs = (s.core x.2.2).cc.regs ∧ (t.core x.2.2).cc.dmem = (s.core x.2.2).cc.dmem ∧
           (((s.core x.2.2).cc.st = .stopped ∨ (s.core x.2.2).cc.st = .halted ∨ (s.core x.2.2).cc.st = .fault) →
             (t.core x.2.2).cc.st = (if (s.core x.2.2).cc.ctl.pause then .paused else .running) ∧
             (t.core x.2.2).cc.pc = e.pc ∧ (t.core x.2.2).cc.bank = e.bank ∧ (t.core x.2.2).cc.loops = []))) ∧
  (∀ (ctx : BitVec 4) (s : State) (e : Entry), s.nextEntry ctx.toNat 3 = some e → s.heldMember ctx.toNat = false →
     s.epochHolds ctx.toNat = false → s.trellisReady ctx.toNat = true → s.paceReached ctx.toNat = true →
     areaOk (s.ctx ctx.toNat).desc.policyAddr 128 = true → (∀ x ∈ s.entryCores e, (s.core x.2.2).idle = true) →
     ((s.ctx ctx.toNat).upd = none ∨ (s.srec ctx.toNat).phase ≠ 4) →
     let n := ctx.toNat
     let r := s.srec n
     (∀ p, readPolicy (s.oread (s.ctx n).desc.policyAddr 64) = some p →
       ∃ t, exec (.step ctx) s = .next t ∧ OnlyCtx n s t ∧ t.sites = s.sites ∧ t.grid = s.grid ∧ t.fab = s.fab ∧
         (t.ctx n).policy = some p ∧ (t.srec n).step = e.step ∧ (t.srec n).phase = 1 ∧ (t.srec n).outcome = 0 ∧
         (t.srec n).sigma = (if r.started then r.sigma else p.sigmaInit) ∧ (t.srec n).commit = none ∧
         (t.srec n).goodSteps = r.goodSteps ∧ (t.srec n).repeats = r.repeats ∧
         ((t.srec n).repeated = true ↔ r.started = true ∧ r.step = e.step ∧ r.phase = 6) ∧
         (t.ctx n).upd = (if r.started = true ∧ r.phase = 4 then some r else (s.ctx n).upd) ∧
         (∀ f ∈ (t.ctx n).entries, f.index = e.index → f.started = true) ∧
         (∀ k, (∀ x ∈ s.ctxCores n, x.2.2 ≠ k) → (∀ x ∈ s.entryCores e, x.2.2 ≠ k) → t.core k = s.core k) ∧
         (∀ x ∈ s.ctxCores n, (t.core x.2.2).cc.numStat.nan = false ∧ (t.core x.2.2).cc.numStat.inf = false ∧
           (t.core x.2.2).cc.numStat.sat = false ∧ (t.core x.2.2).sp = (s.core x.2.2).sp ∧
           (t.core x.2.2).me = (s.core x.2.2).me ∧ (t.core x.2.2).cc.regs = (s.core x.2.2).cc.regs ∧
           ∀ a, (t.core x.2.2).cc.dmem.get a = if p.hdr.toNat ≤ a ∧ a < p.hdr.toNat + 16
             then (headerBytes e.step (t.srec n).sigma).getD (a - p.hdr.toNat) 0 else (s.core x.2.2).cc.dmem.get a) ∧
         (∀ x ∈ s.entryCores e, ((s.core x.2.2).cc.st = .stopped ∨ (s.core x.2.2).cc.st = .halted ∨
             (s.core x.2.2).cc.st = .fault) →
           (t.core x.2.2).cc.st = (if (s.core x.2.2).cc.ctl.pause then .paused else .running) ∧
           (t.core x.2.2).cc.pc = e.pc ∧ (t.core x.2.2).cc.bank = e.bank)) ∧
     (readPolicy (s.oread (s.ctx n).desc.policyAddr 64) = none →
       ∃ t, exec (.step ctx) s = .next t ∧ t.cores = s.cores ∧ t.sites = s.sites ∧ OnlyCtx n s t ∧
         (t.ctx n).st = .stopped ∧ (t.srec n).outcome = 5 ∧
         ∀ f ∈ (t.ctx n).entries, f.index = e.index → f.finished = true ∧ f.status = 2)) ∧
  (∀ (ctx : BitVec 4) (s : State) (e : Entry), s.served ctx.toNat = true →
     (s.ctx ctx.toNat).entries.find? (fun e => e.finished || s.startOver ctx.toNat e) = some e →
     let n := ctx.toNat
     let d := (s.ctx n).desc
     0 < d.cplN → areaOk d.cplAddr (128 + 32 * d.cplN) = true →
     let runs := [(ringAt d.cplAddr 32 d.cplN (s.ctx n).cplProd, s.entryRecord e), (d.cplAddr, leBytes 8 ((s.ctx n).cplProd + 1))]
     ∃ t, exec (.entryFinished ctx) s = .next t ∧ OnlyRecords s { t with ctxs := s.ctxs } ∧ OnlyCtx n s t ∧
       t.ctx n = { s.ctx n with
         entries := (s.ctx n).entries.filter (fun f => f.index != e.index), cplProd := (s.ctx n).cplProd + 1 } ∧
       t.orr = s.orr ∧ OnlyRuns runs s t ∧ Holds t runs ∧ (e.irq = true → t.host.plic.getLsbD (1 + n) = true)) ∧
  (∀ (ctx : BitVec 4) (s : State), s.served ctx.toNat = false → ∀ i ∈ [Instr.mark ctx, .start ctx, .step ctx, .load ctx, .entryFinished ctx],
     exec i s = .next s) ∧
  (∀ (ctx : BitVec 4) (s : State) (e : Entry), s.nextEntry ctx.toNat 1 = some e → s.entryRefused ctx.toNat e = true →
     ∃ t, exec (.load ctx) s = .next t ∧ { t with ctxs := s.ctxs } = s ∧ OnlyCtx ctx.toNat s t ∧
       t.ctx ctx.toNat = { s.ctx ctx.toNat with entries := (s.ctx ctx.toNat).entries.map (fun f =>
         if f.index = e.index then { f with finished := true, status := 3 } else f) }) ∧
  (∀ (ctx : BitVec 4) (s : State) (e : Entry), s.nextEntry ctx.toNat 1 = some e → s.entryRefused ctx.toNat e = false →
     s.sec.ch1.busy = false → areaOk e.src e.len = true →
     let n := ctx.toNat
     let img := s.oread e.src e.len
     (e.measured = false → ∃ t, exec (.load ctx) s = .next t ∧ t.cores = s.cores ∧ t.sites = s.sites ∧ OnlyCtx n s t ∧
       t.sec.ch1.busy = true ∧ bfld t.sec.ch1.record 0 1 = 0x11 ∧ bfld t.sec.ch1.record 1 1 = n ∧
       bfld t.sec.ch1.record 8 8 = e.src % 2 ^ 64 ∧ bfld t.sec.ch1.record 32 8 = e.len % 2 ^ 64 ∧
       (t.ctx n).entries = (s.ctx n).entries.map (fun f => if f.index = e.index then { f with measured := true } else f)) ∧
     (e.measured = true → ∃ t, exec (.load ctx) s = .next t ∧ OnlyCtx n s t ∧ t.sites = s.sites ∧ t.grid = s.grid ∧
       t.trellis = s.trellis ∧
       (∀ k, (∀ x ∈ s.entryCores e, x.2.2 ≠ k) → t.core k = s.core k) ∧
       (∀ x ∈ s.entryCores e, (t.core x.2.2).sp = (s.core x.2.2).sp ∧ (t.core x.2.2).cc.regs = (s.core x.2.2).cc.regs ∧
         (t.core x.2.2).cc.st = (s.core x.2.2).cc.st ∧
         (e.target = 1 → ((s.core x.2.2).cc.dmemNarrow e.dst img.length = false → ∀ a, (t.core x.2.2).cc.dmem.get a = if e.dst ≤ a ∧ a < e.dst + img.length
             then img.getD (a - e.dst) 0 else (s.core x.2.2).cc.dmem.get a) ∧
           (t.core x.2.2).cc.imemA = (s.core x.2.2).cc.imemA ∧ (t.core x.2.2).cc.imemB = (s.core x.2.2).cc.imemB) ∧
         ∀ bank, loadBank (s.core x.2.2).cc e.target = some bank → (t.core x.2.2).cc.dmem = (s.core x.2.2).cc.dmem ∧
           ((s.core x.2.2).cc.activeBank = some bank → (t.core x.2.2).cc.imemA = (s.core x.2.2).cc.imemA ∧
             (t.core x.2.2).cc.imemB = (s.core x.2.2).cc.imemB ∧ (t.core x.2.2).cc.verA = (s.core x.2.2).cc.verA ∧
             (t.core x.2.2).cc.verB = (s.core x.2.2).cc.verB) ∧
           ((s.core x.2.2).cc.activeBank ≠ some bank → (s.core x.2.2).cc.imemBusy = [] →
             (if bank then (t.core x.2.2).cc.verB else (t.core x.2.2).cc.verA) = e.ver ∧
             ∀ a, (if bank then (t.core x.2.2).cc.imemB else (t.core x.2.2).cc.imemA).get a =
               if e.dst ≤ a ∧ a < e.dst + img.length then img.getD (a - e.dst) 0
               else (if bank then (s.core x.2.2).cc.imemB else (s.core x.2.2).cc.imemA).get a)) ∧
       ∀ f ∈ (t.ctx n).entries, f.index = e.index → f.finished = true ∧
         (f.status = 3 ↔ ∃ x ∈ s.entryCores e, ∃ bank, loadBank (s.core x.2.2).cc e.target = some bank ∧
           (s.core x.2.2).cc.activeBank = some bank) ∧ (f.status = 0 ∨ f.status = 3)))

/-- 11 R354, 13 R401: PACED_PERIOD_END, once the period's length is over and every paced queue has popped its handle,
begins the next period at that length's end, or at the last paced pop if that came later, which is one Almanac entry (a
deadline miss); before then it changes nothing. QUANTUM_EXPIRY of a running context whose quantum is over, its orrery core in service, makes it leave
when a waiting context that displaces it shares its sites: a lean one is marked as leaving, of another the CCs of its
cores pause too; in every other case it changes nothing. 13 R396, R397, R403, R407, 01 R35: SCHEDULING_TICK of an
in-service orrery core whose tick has come (the first after its start, then every 1,880 ticks) restarts its watchdog.
Serving one running context, with no new submission it claims nothing and the cores stay; with one new good entry, and
room for its record, it claims that entry, and the consumer index in memory follows. The lead's tick also sees a change
of the driver's heartbeat. A core out of service, without firmware, or before its time does nothing. 13 R400, R401,
R402: a waiting context whose cores are all free and hold nothing saved of it is given them at the tick: it runs from
now, every core of its sites holds it, and the cores are otherwise as they were. (Its rings hold nothing new, or the
module is draining and polls none.) 13 R398, R421: an in-service orrery core that has not restarted its watchdog for the
limit is failed, its count one up (it stays at FFFF₁₆), orr_wdog is set and a takeover core chosen: the lowest spare of
its die that no other crash has taken, else the lowest such spare, else the in-service core with the fewest contexts,
the lowest on a tie; one that has restarted it in time, or is out of service, stands. TAKEOVER_COMPLETE of that core
moves every context of the failed one to it, and the lead with them; of a core that takes nothing over it changes
nothing. No core, site or record of a context changes else. -/
def Obligations.SchedulingAndWatch : Prop :=
  (∀ (ctx : BitVec 4) (s : State),
     let n := ctx.toNat
     let c := s.ctx n
     let due := c.pStart.toNat + c.pLen.toNat
     let leaves := s.served n = true ∧ c.st = .running ∧ s.quantumOver n = true ∧
       ∃ m, m < 16 ∧ m ≠ n ∧ s.wants m = true ∧ s.overlaps n m = true ∧ s.displaces m n = true
     (c.desc.paced = true → c.paceOn = true → due ≤ s.tick.toNat → s.periodPopped n = true →
       ∃ t, exec (.pacedPeriodEnd ctx) s = .next t ∧ OnlyRecords s { t with ctxs := s.ctxs } ∧ OnlyCtx n s t ∧
         { t.ctx n with period := c.period, pStart := c.pStart, pLen := c.pLen, pStarts := c.pStarts } = c ∧
         (t.ctx n).period = BitVec.ofNat 64 (c.period.toNat + 1) ∧
         (t.ctx n).pStart = BitVec.ofNat 64 (max due c.pFinish.toNat) ∧
         (t.ctx n).pLen = BitVec.ofNat 64 (periodLen c.desc (c.period.toNat + 1) (max due c.pFinish.toNat)) ∧
         (∀ k, sget (fun _ => none) (t.ctx n).pStarts k = if k = c.period.toNat + 1
           then some (BitVec.ofNat 64 (max due c.pFinish.toNat)) else sget (fun _ => none) c.pStarts k) ∧
         (c.pFinish.toNat ≤ due → { t with ctxs := s.ctxs } = s) ∧
         (due < c.pFinish.toNat → t.almHead = s.almHead + 1)) ∧
     (c.desc.paced = false ∨ c.paceOn = false ∨ s.tick.toNat < due ∨ s.periodPopped n = false →
       exec (.pacedPeriodEnd ctx) s = .next s) ∧
     (leaves → c.switching = false → bitAt (s.gis.halted ||| s.pwr.redo).toNat n = false →
       ∃ t, exec (.quantumExpiry ctx) s = .next t ∧ { t with ctxs := s.ctxs, cores := s.cores } = s ∧ OnlyCtx n s t ∧
         t.ctx n = { c with switching := true } ∧
         ∀ k, t.core k = if c.desc.lean = false ∧ (∃ x ∈ s.ctxCores n, x.2.2 = k)
           then { s.core k with cc := { (s.core k).cc with
             ctl := { (s.core k).cc.ctl with pause := true },
             st := if (s.core k).cc.st.fetches then .paused else (s.core k).cc.st } }
           else s.core k) ∧
     (¬leaves ∨ c.switching = true ∨ bitAt (s.gis.halted ||| s.pwr.redo).toNat n = true →
       exec (.quantumExpiry ctx) s = .next s)) ∧
  (∀ (oc : BitVec 5) (n : Nat) (s : State), oc.toNat < 20 →
     ((s.oc oc.toNat).role ≠ 0 ∨ s.fwRuns = false ∨ s.tickDue oc.toNat = false → exec (.schedulingTick oc) s = .next s) ∧
     ((s.oc oc.toNat).role = 0 → s.fwRuns = true → s.tickDue oc.toNat = true →
     ((∀ m, m < 16 → (s.ctx m).st = .free) → s.fab.proposal = none → s.fab.provisional = false →
       s.orr.stopping = false → s.orr.draining = false →
       ∃ t, exec (.schedulingTick oc) s = .next t ∧ { t with orr := s.orr } = s ∧ (t.oc oc.toNat).restarted = s.tick ∧
         (t.oc oc.toNat).ticked = true ∧ (∀ j, j ≠ oc.toNat → t.oc j = s.oc j) ∧
         (if s.orr.lead = oc ∧ s.orr.drvHb ≠ s.orr.drvHbSeen
           then t.orr.drvHbSeen = s.orr.drvHb ∧ t.orr.drvHbTick = s.tick ∧ t.orr.hbChanged = true
           else { t.orr with cores := s.orr.cores } = s.orr)) ∧
     (s.orr.draining = false → s.orr.stopping = false → s.orr.hold = false → s.orr.lead ≠ oc → n < 16 →
     (∀ m, m < 16 → ((s.ctx m).st ≠ .free ∧ (s.ctx m).oc = oc ↔ m = n)) →
     let c := s.ctx n
     let cc := s.onat (c.desc.cplAddr + 64) 8
     c.st = .running → c.destroying = false → c.held = false → s.stalledWait n = false →
     areaOk c.desc.subAddr (128 + 64 * c.desc.subN) = true → areaOk c.desc.cplAddr (128 + 32 * c.desc.cplN) = true →
     cc ≤ c.cplProd → c.cplProd ≤ cc + c.desc.cplN →
     (s.onat c.desc.subAddr 8 = c.subCons → ∃ t, exec (.schedulingTick oc) s = .next t ∧
       OnlyRecords s { t with ctxs := s.ctxs } ∧ t.gddr = s.gddr ∧ (t.oc oc.toNat).restarted = s.tick ∧
       (t.oc oc.toNat).ticked = true ∧ OnlyCtx n s t ∧ t.ctx n = { c with snapshot := c.subCons }) ∧
     (s.onat c.desc.subAddr 8 = c.subCons + 1 → 1 ≤ c.desc.subN → c.cplProd - cc + c.entries.length < c.desc.cplN →
       let b := ((s.oseen c.desc.subAddr 8).oseen (c.desc.cplAddr + 64) 8).oread
         (ringAt c.desc.subAddr 64 c.desc.subN c.subCons) 64
       entryBad c.desc b (readEntry b c.subCons) = false → s.entryRefused n (readEntry b c.subCons) = false →
       ∃ t, exec (.schedulingTick oc) s = .next t ∧ OnlyRecords s { t with ctxs := s.ctxs } ∧ OnlyCtx n s t ∧
         t.ctx n = { c with
           entries := c.entries ++ [readEntry b c.subCons], subCons := c.subCons + 1, snapshot := c.subCons + 1 } ∧
         (t.oc oc.toNat).restarted = s.tick ∧ (t.oc oc.toNat).ticked = true ∧
         Holds t [(c.desc.subAddr + 64, leBytes 8 (c.subCons + 1))] ∧
         OnlyRuns [(c.desc.subAddr + 64, leBytes 8 (c.subCons + 1))] s t)))) ∧
  (∀ (oc : BitVec 5) (n : Nat) (s : State), oc.toNat < 20 → (s.oc oc.toNat).role = 0 → s.fwRuns = true →
     s.tickDue oc.toNat = true → s.orr.hold = false → s.orr.lead ≠ oc → n < 16 →
     (∀ m, m < 16 → ((s.ctx m).st ≠ .free ∧ (s.ctx m).oc = oc ↔ m = n)) → (s.ctx n).desc.prio < 8 →
     s.wants n = true → s.occupants n = [] → s.stalledWait n = false → (s.ctx n).saved = [] →
     let d := (s.ctx n).desc
     let cc := s.onat (d.cplAddr + 64) 8
     (s.orr.draining = true ∨ s.orr.stopping = true ∨ (s.ctx n).held = true ∨
       (areaOk d.subAddr 128 = true ∧ areaOk d.cplAddr 128 = true ∧ s.onat d.subAddr 8 = (s.ctx n).subCons ∧
         cc ≤ (s.ctx n).cplProd ∧ (s.ctx n).cplProd ≤ cc + d.cplN)) →
     ∃ t, exec (.schedulingTick oc) s = .next t ∧ OnlyCtx n s t ∧ t.sites = s.sites ∧ t.grid = s.grid ∧
       (t.ctx n).st = .running ∧ (t.ctx n).sliceStart = s.tick ∧ (t.ctx n).entries = (s.ctx n).entries ∧
       (t.ctx n).saved = [] ∧ (t.ctx n).switching = false ∧ (t.oc oc.toNat).restarted = s.tick ∧
       (∀ x ∈ s.ctxCores n, t.core x.2.2 = { s.core x.2.2 with ctx := some (BitVec.ofNat 4 n) }) ∧
       ∀ k, (∀ x ∈ s.ctxCores n, x.2.2 ≠ k) → t.core k = s.core k) ∧
  (∀ (oc tk : BitVec 5) (s : State), oc.toNat < 20 →
     let spare (j : Nat) : Prop := j < 20 ∧ (s.oc j).role = 1 ∧ ∀ i, i < 20 → (s.oc i).takeover ≠ some (BitVec.ofNat 5 j)
     ((s.oc oc.toNat).role ≠ 0 ∨ s.fwRuns = false ∨ s.tick.toNat < (s.oc oc.toNat).restarted.toNat + s.orr.wdogLimit.toNat →
       exec (.watchdogExpiry oc) s = .next s) ∧
     ((s.oc oc.toNat).role = 0 → s.fwRuns = true → (s.oc oc.toNat).restarted.toNat + s.orr.wdogLimit.toNat ≤ s.tick.toNat →
       ∃ t, exec (.watchdogExpiry oc) s = .next t ∧ OnlyRecords s t ∧ t.orr.cause.getLsbD 0 = true ∧
         (t.oc oc.toNat).role = 2 ∧
         (t.oc oc.toNat).wdogCnt = (if (s.oc oc.toNat).wdogCnt = 0xFFFF then 0xFFFF else (s.oc oc.toNat).wdogCnt + 1) ∧
         (∀ j, j ≠ oc.toNat → t.oc j = s.oc j) ∧
         (∀ j, spare j → ocDie j = ocDie oc.toNat → (∀ i, i < j → spare i → ocDie i ≠ ocDie oc.toNat) →
           (t.oc oc.toNat).takeover = some (BitVec.ofNat 5 j)) ∧
         (∀ j, spare j → (∀ i, spare i → ocDie i ≠ ocDie oc.toNat ∧ j ≤ i) →
           (t.oc oc.toNat).takeover = some (BitVec.ofNat 5 j)) ∧
         (∀ j, (∀ i, ¬spare i) → j < 20 → j ≠ oc.toNat → (s.oc j).role = 0 →
           (∀ i, i < 20 → i ≠ oc.toNat → (s.oc i).role = 0 → (s.ocCtxs j).length ≤ (s.ocCtxs i).length ∧
             ((s.ocCtxs j).length = (s.ocCtxs i).length → j ≤ i)) →
           (t.oc oc.toNat).takeover = some (BitVec.ofNat 5 j))) ∧
     ((∀ i, i < 20 → (s.oc i).takeover ≠ some tk) → exec (.takeoverComplete tk) s = .next s) ∧
     (tk.toNat < 20 → tk ≠ oc → (s.oc oc.toNat).takeover = some tk →
       (∀ i, i < 20 → (s.oc i).takeover = some tk → i = oc.toNat) →
       ∃ t, exec (.takeoverComplete tk) s = .next t ∧ OnlyRecords s { t with ctxs := s.ctxs } ∧
         t.orr.cause.getLsbD 1 = true ∧ (t.oc tk.toNat).role = 0 ∧ (t.oc tk.toNat).restarted = s.tick ∧
         (t.oc oc.toNat).takeover = none ∧ t.orr.lead = (if s.orr.lead = oc then tk else s.orr.lead) ∧
         ((s.oc tk.toNat).role ≠ 1 → t.orr.cause.getLsbD 2 = true) ∧
         ∀ n, n < 16 → t.ctx n = (if (s.ctx n).st ≠ .free ∧ (s.ctx n).oc = oc then { s.ctx n with oc := tk } else s.ctx n)))

/-- 13 R399, R406: CTX_CREATE with a good descriptor for a free context makes it ready with that descriptor, no entry
claimed and nothing saved, and completes with status 0; with a descriptor R399 refuses, for a context that is not free,
for a sealed context that its sites or an unencrypted port refuse, or with a descriptor outside the driver's memory it
completes with status 3 and creates nothing. 13 R406, 14 R441: CTX_DESTROY stops the work of a context's cores at
command boundaries and marks it; the ring waits while one of them is not idle. Once they are idle, a sealed context is
erased first, through channel 1 of the security block, and the ring waits; one that is not sealed is freed: its cores
hold no context and read zero, its entries are reported and gone, and the entry completes with status 0. Other contexts
and cores stay. A free context completes with status 3. 13 R408, 09 R294: CTX_HOLD keeps a context with a started entry
from starting another until that has finished, and then holds it; of a context that is neither ready, running nor saved
it completes with status 3. CTX_RESUME returns a held context to ready, and one that max_repeats stopped, its sites
being present, with its repeats at 0; any other, and every one while the module is in hold, completes with status 3. -/
def Obligations.ContextAdmin : Prop :=
  (∀ (s : State) (b : List Byte), AdminEntry s 0x01 b → zeroBut [(8, 14)] b = true →
     (areaOk (bfld b 8 6) 128 = false → ∃ t, exec .ctxCreate s = .next t ∧ AdminDone s t b 3 ∧ OnlyRecords s t) ∧
     (areaOk (bfld b 8 6) 128 = true →
     let db := s.adminSeen.oread (bfld b 8 6) 128
     let n := bfld db 0 1
     (s.descBad db (readDesc db) = false → (s.ctx n).st = .free → s.sealBad (readDesc db) = false →
       ∃ t, exec .ctxCreate s = .next t ∧ AdminDone s t b 0 ∧ t.sites = s.sites ∧ t.grid = s.grid ∧ t.trellis = s.trellis ∧
         (t.ctx n).st = .ready ∧ (t.ctx n).desc = readDesc db ∧ (t.ctx n).entries = [] ∧ (t.ctx n).saved = [] ∧
         (t.ctx n).subCons = 0 ∧ (t.ctx n).cplProd = 0 ∧ t.seal n = SealSt.init ∧
         (∀ m, m ≠ n → { t.ctx m with switching := (s.ctx m).switching } = s.ctx m) ∧
         ∀ k, (t.core k).sp = (s.core k).sp ∧ (t.core k).me = (s.core k).me ∧ (t.core k).ve = (s.core k).ve ∧
           (t.core k).cc.regs = (s.core k).cc.regs) ∧
     (s.descBad db (readDesc db) = true ∨ (s.ctx n).st ≠ .free ∨ s.sealBad (readDesc db) = true →
       ∃ t, exec .ctxCreate s = .next t ∧ AdminDone s t b 3 ∧ OnlyRecords s t))) ∧
  (∀ (s : State) (b : List Byte), AdminEntry s 0x02 b → zeroBut [(8, 9)] b = true →
     let n := bfld b 8 1
     let c := s.ctx n
     let now (k : Nat) : Core := if c.destroying then s.core k else (s.core k).stopStep
     let idle : Prop := ∀ x ∈ s.heldCores n, (now x.2.2).idle = true
     (16 ≤ n ∨ c.st = .free → ∃ t, exec .ctxDestroy s = .next t ∧ AdminDone s t b 3 ∧ OnlyRecords s t) ∧
     (n < 16 → c.st ≠ .free →
       (¬idle → ∃ t, exec .ctxDestroy s = .next t ∧ OnlyRecords s { t with ctxs := s.ctxs, cores := s.cores } ∧
         t.orr = s.orr ∧ t.gddr = s.gddr ∧ OnlyCtx n s t ∧ t.ctx n = { c with destroying := true } ∧
         ∀ k, t.core k = if ∃ x ∈ s.heldCores n, x.2.2 = k then now k else s.core k) ∧
       (idle → (s.seal n).state ≠ 0 → (s.seal n).state ≠ 3 → s.sec.ch1.busy = false →
         ∃ t, exec .ctxDestroy s = .next t ∧ t.orr.adminCons = s.orr.adminCons ∧ t.orr.adminProd = s.orr.adminProd ∧
           OnlyCtx n s t ∧ t.ctx n = { c with destroying := true } ∧ t.seal n = { s.seal n with state := 3 } ∧
           t.sec.ch1.busy = true ∧ bfld t.sec.ch1.record 0 1 = 0x12 ∧ bfld t.sec.ch1.record 1 1 = n) ∧
       (idle → (s.seal n).state = 0 →
         (c.entries = [] ∨ (0 < c.desc.cplN ∧ areaOk c.desc.cplAddr (128 + 32 * c.desc.cplN) = true)) →
         ∃ t, exec .ctxDestroy s = .next t ∧ AdminDone s t b 0 ∧ (c.desc.saveBed = false → t.sites = s.sites) ∧
           OnlyCtx n s t ∧ t.ctx n = Ctx.init ∧
           (∀ x ∈ s.heldCores n, (t.core x.2.2).ctx = none ∧ (t.core x.2.2).sp = Mem.zero ∧ (t.core x.2.2).me.tiles = [] ∧
             (t.core x.2.2).cc.regs = [] ∧ (t.core x.2.2).cc.dmem = Mem.zero ∧ (t.core x.2.2).cc.imemA = Mem.zero ∧
             (t.core x.2.2).cc.imemB = Mem.zero) ∧
           ∀ k, (∀ x ∈ s.heldCores n, x.2.2 ≠ k) → t.core k = s.core k))) ∧
  (∀ (s : State) (b : List Byte), zeroBut [(8, 9)] b = true →
     let n := bfld b 8 1
     let c := s.ctx n
     let live := c.st = .ready ∨ c.st = .running ∨ c.st = .saved
     let whole := c.st = .stopped ∧ ∀ l ∈ s.ctxSites n, (s.physOf l).isSome = true
     (AdminEntry s 0x03 b →
       (n < 16 → live → c.busy = true → ∃ t, exec .ctxHold s = .next t ∧ OnlyRecords s { t with ctxs := s.ctxs } ∧
         t.orr = s.orr ∧ t.gddr = s.gddr ∧ OnlyCtx n s t ∧
         t.ctx n = { c with held := true } ∧ ∀ kind, t.nextEntry n kind = none) ∧
       (n < 16 → live → c.busy = false → ∃ t, exec .ctxHold s = .next t ∧ AdminDone s t b 0 ∧
         OnlyRecords s { t with ctxs := s.ctxs } ∧ OnlyCtx n s t ∧ t.ctx n = { c with st := .held, held := false }) ∧
       (16 ≤ n ∨ ¬live → ∃ t, exec .ctxHold s = .next t ∧ AdminDone s t b 3 ∧ OnlyRecords s t)) ∧
     (AdminEntry s 0x04 b →
       (n < 16 → c.st = .held ∨ whole → s.orr.hold = false →
         ∃ t, exec .ctxResume s = .next t ∧ AdminDone s t b 0 ∧ t.sites = s.sites ∧
           t.ctx n = { c with
             st := .ready, srec := if c.st = .stopped then { c.srec with repeats := 0 } else c.srec } ∧
           ∀ m, m ≠ n → { t.ctx m with switching := (s.ctx m).switching } = s.ctx m) ∧
       (16 ≤ n ∨ ¬(c.st = .held ∨ whole) ∨ s.orr.hold = true →
         ∃ t, exec .ctxResume s = .next t ∧ AdminDone s t b 3 ∧ OnlyRecords s t)))

/-- 09 R279, 13 R406: STASH_SET of a free region that breaks no rule enables it and makes every byte of it zero; one
that breaks a rule completes with status 3; of an enabled region it only disables, any other change completing with
status 3; with en = 0 a disabled region is written. Nothing but GDDR7 and the ring changes. 13 R406, 11 R358, R361:
FAB_CFG writes its image of fabric registers, in order, and completes with status 0; an empty image, one outside the
driver's memory, one with a register that the driver may not configure, or one that leaves a window broken completes
with status 3 and writes none. 07 R204, 13 R391, R406: MCAST_SET sets the 64-bit site mask of one multicast group;
ETH_RING sets one descriptor ring with its cursor at 0. Each completes with status 0; the other groups and rings, and
all else but the ring, stay. A group or ring out of range completes with status 3. -/
def Obligations.ResourceAdmin : Prop :=
  (∀ (s : State) (b : List Byte), AdminEntry s 0x10 b → zeroBut [(8, 9), (16, 32)] b = true →
     let k := bfld b 8 1
     let v := bfld b 16 8
     let r : Stash := { en := bitAt v 0, elem := BitVec.ofNat 2 (fld v 1 2), base := BitVec.ofNat 28 (fld v 20 28),
                        sizeMib := BitVec.ofNat 18 (bfld b 24 8) }
     let old := sget (fun _ => Stash.init) s.gddr.stash k
     let at_ (t : State) (j : Nat) := sget (fun _ => Stash.init) t.gddr.stash j
     let writes := old.en = true ∧ r = { old with en := false } ∨ old.en = false ∧ r.en = false
     (k ≤ 3 → old.en = false → r.en = true → s.stashBad k r = false → ∃ t, exec .stashSet s = .next t ∧ AdminDone s t b 0 ∧
       OnlyRecords s t ∧ at_ t k = r ∧ (∀ j, j ≠ k → at_ t j = at_ s j) ∧
       (∀ a, r.base.toNat * mib ≤ a → a < (r.base.toNat + r.sizeMib.toNat) * mib →
         (∀ w ∈ adminRuns s b 0, ∀ i, i < w.2.length → (w.1 + i) / 64 ≠ a / 64) → t.gddr.mem.get a = 0)) ∧
     (k ≤ 3 → writes → ∃ t, exec .stashSet s = .next t ∧ AdminDone s t b 0 ∧
       OnlyRecords s t ∧ at_ t k = r ∧ (∀ j, j ≠ k → at_ t j = at_ s j) ∧ OnlyRuns (adminRuns s b 0) s t) ∧
     (3 < k ∨ old.en = true ∧ r ≠ { old with en := false } ∨ old.en = false ∧ r.en = true ∧ s.stashBad k r = true →
       ∃ t, exec .stashSet s = .next t ∧ AdminDone s t b 3 ∧ OnlyRecords s t ∧ (∀ j, at_ t j = at_ s j))) ∧
  (∀ (s : State) (b : List Byte), AdminEntry s 0x11 b → zeroBut [(8, 14), (16, 20)] b = true →
     let a := bfld b 8 6
     let n := bfld b 16 4
     let img := s.adminSeen.oread a (16 * n)
     let items := (List.range n).map (fun i => (bfld img (16 * i) 8, BitVec.ofNat 64 (bfld img (16 * i + 8) 8)))
     let done := fabItems items (s.adminSeen.oseen a (16 * n))
     (∀ u, n ≠ 0 → areaOk a (16 * n) = true → done = some u → (∀ w, w < 15 → u.winOk w = true) →
       ∃ t, exec .fabCfg s = .next t ∧ AdminDone u t b 0 ∧ t.fab = u.fab ∧ t.cores = s.cores ∧ t.sites = s.sites ∧
         t.ctxs = s.ctxs ∧ ∀ x, (t.xd x).fab.routes = (u.xd x).fab.routes ∧ (t.xd x).fab.groups = (u.xd x).fab.groups ∧
           (t.xd x).fab.stallLimit = (u.xd x).fab.stallLimit) ∧
     (n = 0 ∨ areaOk a (16 * n) = false ∨ done = none ∨ (∃ u, done = some u ∧ ∃ w, w < 15 ∧ u.winOk w = false) →
       ∃ t, exec .fabCfg s = .next t ∧ AdminDone s t b 3 ∧ OnlyRecords s t ∧ OnlyRuns (adminRuns s b 3) s t)) ∧
  (∀ (s : State) (b : List Byte),
     (AdminEntry s 0x12 b → zeroBut [(8, 9), (16, 24)] b = true → bfld b 8 1 ≤ 63 →
       ∃ t, exec .mcastSet s = .next t ∧ AdminDone s t b 0 ∧ OnlyRecords s { t with grid := s.grid } ∧
         { t.grid with mcast := s.grid.mcast } = s.grid ∧ OnlyRuns (adminRuns s b 0) s t ∧
         ∀ g, sget (fun _ => 0) t.grid.mcast g = if g = bfld b 8 1 then BitVec.ofNat 64 (bfld b 16 8)
           else sget (fun _ => 0) s.grid.mcast g) ∧
     (AdminEntry s 0x12 b → zeroBut [(8, 9), (16, 24)] b = true → 63 < bfld b 8 1 →
       ∃ t, exec .mcastSet s = .next t ∧ AdminDone s t b 3 ∧ OnlyRecords s t) ∧
     (AdminEntry s 0x13 b → zeroBut [(8, 10), (16, 28)] b = true → 2 < bfld b 8 1 ∨ 16 ≤ bfld b 9 1 ∨ bfld b 24 4 = 0 ∨
       65536 < bfld b 24 4 ∨ areaOk (bfld b 16 8) (16 * bfld b 24 4) = false →
       ∃ t, exec .ethRing s = .next t ∧ AdminDone s t b 3 ∧ OnlyRecords s t ∧ t.host.rings = s.host.rings) ∧
     (AdminEntry s 0x13 b → zeroBut [(8, 10), (16, 28)] b = true → bfld b 8 1 ≤ 2 → bfld b 9 1 < 16 →
       bfld b 24 4 ≠ 0 → bfld b 24 4 ≤ 65536 → areaOk (bfld b 16 8) (16 * bfld b 24 4) = true →
       ∃ t, exec .ethRing s = .next t ∧ AdminDone s t b 0 ∧ OnlyRecords s t ∧ OnlyRuns (adminRuns s b 0) s t ∧
         { t.host with rings := s.host.rings, plic := s.host.plic } = s.host ∧
         ∀ k, sget (fun _ => none) t.host.rings k =
           if k = ethKey (bfld b 8 1) (bitAt (bfld b 9 1) 3) (bfld b 9 1 % 8)
           then some { base := bfld b 16 8, count := bfld b 24 4, cursor := 0, polled := none, moving := false }
             else sget (fun _ => none) s.host.rings k))

/-- 13 R395, R414–R416: FW_LOAD from the ROM loader, and FW_UPDATE of running firmware to an image that can take over
its handoff record, start the image of the named slot when it passes every check: it is the image that runs, in fw_state
3, its confirm window opens for 28,200,000,000 ticks, and the entry completes with status 0. An image that fails a check
is not started: load_fail is set, the failed check is in ORR_LOAD_STAT.result (6: the handoff versions do not meet),
what ran goes on and the status is 3. FW_LOAD outside the ROM loader, FW_UPDATE without running firmware and a slot
above 1 complete with status 3. 13 R394: an ORR_LOAD_BLK notice of a block whose CRC-32C matches sets the block's bit in
its slot's map, one that does not match clears it and sets the cause; one whose length is no whole number of 64-byte
units up to 64 KiB changes nothing. -/
def Obligations.FirmwareIsLoaded : Prop :=
  (∀ (s : State) (b : List Byte) (i : Instr), zeroBut [(8, 9)] b = true →
     let r := s.adminSeen.slotImage (bfld b 8 1 == 1)
     let load := i = .fwLoad ∧ AdminEntry s 0x20 b
     let update := i = .fwUpdate ∧ AdminEntry s 0x21 b
     let meets (old : Image) : Prop := r.2.handMin ≤ old.handOut ∧ old.handOut ≤ r.2.handMax
     let starts := load ∧ s.orr.fwState = 0 ∨ update ∧ s.fwRuns = true ∧ ∃ old, s.orr.image = some old ∧ (r.1 = 0 → meets old)
     (bfld b 8 1 ≤ 1 → starts → r.1 = 0 → ∃ t, exec i s = .next t ∧ AdminDone s t b 0 ∧ t.cores = s.cores ∧ t.sites = s.sites ∧
       t.ctxs = s.ctxs ∧ t.orr.image = some r.2 ∧ t.orr.fwState = 3 ∧ t.orr.imgVersion = r.2.version ∧ t.orr.loadResult = 1 ∧
       t.orr.confirmed = false ∧ t.orr.confirmEnd = some (s.tick + 28200000000) ∧ t.flash = s.flash) ∧
     (bfld b 8 1 ≤ 1 → starts → r.1 ≠ 0 → ∃ t, exec i s = .next t ∧ AdminDone s t b 3 ∧ t.cores = s.cores ∧ t.sites = s.sites ∧
       t.ctxs = s.ctxs ∧ t.orr.image = s.orr.image ∧ t.orr.fwState = s.orr.fwState ∧
       t.orr.loadResult = BitVec.ofNat 4 (r.1 + 1) ∧ t.orr.cause.getLsbD 8 = true ∧ t.flash = s.flash) ∧
     (∀ old, bfld b 8 1 ≤ 1 → update → s.fwRuns = true → s.orr.image = some old → r.1 = 0 → ¬meets old →
       ∃ t, exec i s = .next t ∧ AdminDone s t b 3 ∧ OnlyRecords s t ∧ t.orr.image = s.orr.image ∧
         t.orr.fwState = s.orr.fwState ∧ t.orr.loadResult = 6 ∧ t.orr.cause.getLsbD 8 = true) ∧
     (load ∧ (s.orr.fwState ≠ 0 ∨ 1 < bfld b 8 1) ∨ update ∧ (s.fwRuns = false ∨ s.orr.image = none ∨ 1 < bfld b 8 1) →
       ∃ t, exec i s = .next t ∧ AdminDone s t b 3 ∧ OnlyRecords s t ∧ t.orr.image = s.orr.image ∧
         t.orr.fwState = s.orr.fwState)) ∧
  (∀ (v : DWord) (s : State),
     let i := fld v.toNat 0 8
     let len := fld v.toNat 8 17
     let slot := bitAt v.toNat 25
     (len % 64 ≠ 0 ∨ len < 64 ∨ 65536 < len → exec (.orrLoadBlk v) s = .next s) ∧
     (len % 64 = 0 → 64 ≤ len → len ≤ 65536 →
     let ok := (crc32c (s.oread (loadSlotBase slot + 65536 * i) len)).toNat = fld v.toNat 32 32
     ∃ t, exec (.orrLoadBlk v) s = .next t ∧ OnlyRecords s t ∧ t.gddr = s.gddr ∧ t.orr.loadSlot = slot ∧
       ((t.orr.loadMap slot).getLsbD i = true ↔ ok) ∧
       (∀ j, j ≠ i → (t.orr.loadMap slot).getLsbD j = (s.orr.loadMap slot).getLsbD j) ∧
       t.orr.loadMap (!slot) = s.orr.loadMap (!slot) ∧ (¬ok → t.orr.cause.getLsbD 7 = true)))

/-- 13 R406–R408: DETACH makes the module drain and clears attached; REATTACH mode 0 ends hold and returns every held
context to ready, mode 1 with no context left ends hold, another mode completes with status 3. ORR_ADMIN_BASE takes bits
[47:12] while no driver is attached and nothing after. ATTACH reads the indices of a good admin area and restarts the
heartbeat check, a bad area sets ring_fault, and with a driver attached it changes nothing; a driver that is silent for
longer than the limit is lost: the module drains, attached clears and the cause is set; else nothing changes. 13
R416–R418, 16 R488: an ORR_HEALTH_CONFIRM written by an orrery core that has met the conditions ends the confirm window,
lets contexts run, and writes an image that is not last-known-good yet as such where the flash takes writes; one of any
other requester, or before the conditions are met, changes nothing. When the window runs out the cause is set, every
context that is neither free nor stopped is held, a claimed entry that is not finished ends with status 4, and the
last-known-good image starts in fw_state 5; after a failed fallback the ROM loader stays. -/
def Obligations.DriverAndConfirmation : Prop :=
  (∀ (s : State) (b : List Byte) (v : DWord),
     (AdminEntry s 0x22 b → zeroBut [] b = true → ∃ t, exec .detach s = .next t ∧ AdminDone s t b 0 ∧ OnlyRecords s t ∧
       t.orr.draining = true ∧ t.orr.attached = false ∧ t.orr.hold = s.orr.hold) ∧
     (AdminEntry s 0x23 b → zeroBut [(8, 9)] b = true → bfld b 8 1 = 0 → ∃ t, exec .reattach s = .next t ∧
       AdminDone s t b 0 ∧ t.sites = s.sites ∧ t.orr.hold = false ∧ ∀ n, n < 16 → (t.ctx n).st =
         if (s.ctx n).st = .held then .ready else (s.ctx n).st) ∧
     (AdminEntry s 0x23 b → zeroBut [(8, 9)] b = true → bfld b 8 1 = 1 → (∀ n, n < 16 → (s.ctx n).st = .free) →
       ∃ t, exec .reattach s = .next t ∧ AdminDone s t b 0 ∧ t.cores = s.cores ∧ t.ctxs = s.ctxs ∧ t.orr.hold = false) ∧
     (AdminEntry s 0x23 b → zeroBut [(8, 9)] b = true → 2 ≤ bfld b 8 1 → ∃ t, exec .reattach s = .next t ∧
       AdminDone s t b 3 ∧ OnlyRecords s t ∧ t.orr.hold = s.orr.hold) ∧
     (∃ t, exec (.orrAdminBaseWrite v) s = .next t ∧ { t with orr := s.orr } = s ∧
       t.orr = if s.orr.attached then s.orr else { s.orr with adminBase := v.extractLsb' 12 36 }) ∧
     (s.orr.attached = true → exec .attach s = .next s) ∧
     (s.orr.attached = false → areaOk s.orr.adminAddr 41088 = true → ∃ t, exec .attach s = .next t ∧ OnlyRecords s t ∧
       t.host = s.host ∧ t.orr.attached = true ∧ t.orr.adminOk = true ∧
       t.orr.adminCons = s.onat (s.orr.adminAddr + 64) 8 ∧ t.orr.adminProd = s.onat s.orr.adminCpl 8 ∧
       t.orr.drvHbTick = s.tick ∧ t.orr.adminBase = s.orr.adminBase) ∧
     (s.orr.attached = false → areaOk s.orr.adminAddr 41088 = false → ∃ t, exec .attach s = .next t ∧ OnlyRecords s t ∧
       t.orr.attached = true ∧ t.orr.adminOk = false ∧ t.orr.cause.getLsbD 12 = true ∧ t.orr.drvHbTick = s.tick) ∧
     (s.orr.attached = true → s.fwRuns = true → s.orr.drvHb = s.orr.drvHbSeen →
       s.orr.drvHbTick.toNat + s.orr.hbLimit.toNat < s.tick.toNat → ∃ t, exec .driverHeartbeatLoss s = .next t ∧
         OnlyRecords s t ∧ t.orr.attached = false ∧ t.orr.draining = true ∧ t.orr.cause.getLsbD 5 = true) ∧
     (s.orr.attached = false ∨ s.fwRuns = false ∨ s.orr.drvHb ≠ s.orr.drvHbSeen ∨
       s.tick.toNat ≤ s.orr.drvHbTick.toNat + s.orr.hbLimit.toNat → exec .driverHeartbeatLoss s = .next s)) ∧
  (∀ (req : Requester) (s : State),
     ((∀ oc, req ≠ .orrery oc) ∨ s.orr.image = none ∨ s.confirmReady = false → exec (.orrHealthConfirm req) s = .next s) ∧
     (∀ oc img, req = .orrery oc → s.orr.image = some img → s.confirmReady = true → ∃ t,
       exec (.orrHealthConfirm req) s = .next t ∧ t.cores = s.cores ∧ t.sites = s.sites ∧ t.ctxs = s.ctxs ∧
       t.orr.confirmed = true ∧ t.orr.opened = true ∧ t.orr.confirmEnd = none ∧ t.orr.image = some img ∧
       t.orr.fwState = (if s.orr.fwState = 3 then 2 else s.orr.fwState) ∧
       (s.flash.lkg.map Image.digest ≠ some img.digest → s.pins.flashWpN = true →
         t.flash.lkg = some img ∧ t.orr.lkgVersion = img.version ∧ t.sec.svnOrr = max s.sec.svnOrr img.svn) ∧
       (s.flash.lkg.map Image.digest = some img.digest → t.flash = s.flash)) ∧
     (s.orr.confirmEnd = none ∨ (∃ e, s.orr.confirmEnd = some e ∧ s.tick.toNat < e.toNat) →
       exec .confirmWindowExpiry s = .next s) ∧
     (∀ e, s.orr.confirmEnd = some e → e.toNat ≤ s.tick.toNat →
       (∀ n, n < 16 → (s.ctx n).st = .free ∨ (s.srec n).started = false ∨ (s.srec n).atEnd = true) →
       ∃ t, exec .confirmWindowExpiry s = .next t ∧ t.cores = s.cores ∧ t.sites = s.sites ∧
         (∀ n, n < 16 → (t.ctx n).st = (if (s.ctx n).st = .free then .free
             else if (s.ctx n).st = .stopped then .stopped else .held) ∧
           (t.ctx n).desc = (s.ctx n).desc ∧ ((s.ctx n).st ≠ .free → (t.ctx n).entries = (s.ctx n).entries.map (fun f =>
             if f.finished then f else { f with finished := true, status := 4 }))) ∧
         t.orr.cause.getLsbD 9 = true ∧ t.orr.attached = false ∧ t.orr.hold = true ∧
         (∀ img, s.flash.lkg = some img → s.orr.fwState ≠ 5 → s.imgFails img.bytes = 0 →
           t.orr.fwState = 5 ∧ t.orr.image = some img ∧ t.orr.confirmEnd = some (s.tick + 28200000000)) ∧
         (s.flash.lkg = none ∨ s.orr.fwState = 5 → t.orr.fwState = 0 ∧ t.orr.image = none)))

/-! ## Training steps (09) -/

/-- 09 R266, R283: a forward-end beacon of this step moves it from FWD to BWD, and in a later phase is only taken from
the queue; with none nothing changes. When every core of the running context has stopped with idle engines, BWD_END sums
the answers of the cores (those with nan or inf, or with sat where the policy says so), asks for the tally and moves to
VOTE; before then, or in another phase, it changes nothing. Either change is recorded in the step record in memory, and
no core changes. 09 R282, R284, R291–R293, 15 R450, 10 R300: the tally's result makes the module vote, once: its word is
finite when no core counted, mirror_ok when no core has a mirror pending, healthy when no graft runs and no fault
stands, its seen_commit and early_abort 0. A healthy module first waits until its exchange is complete, a vote for
commit until no step before it awaits DONE. A primary's node holds its own word and its children's; once it has them all
it sends their joined word up, and the root decides: commit when a word has seen a commit or all are for commit. A
shadow or a spare sends none. EARLY_ABORT of a core that has set nan or inf, where the policy has it, sends a word with
early_abort 1 and finite 0 up at once. 09 R284, R293: at the root, the vote word that makes the words of the root and
its children whole decides the step: commit when some word has seen a commit, or when every word is finite, complete,
healthy and mirror_ok and none asks for an early abort; else abort. A word with early_abort aborts at once unless a
commit was seen. 09 R284: a module that has voted and has no decision asks again each vote_timeout; a request is
answered by a module that holds the decision of that step, or knows the step is done, and passed up by one that does
not; of another epoch it is dropped. Nothing else changes. -/
def Obligations.StepVotes : Prop :=
  (∀ (ctx : BitVec 4) (s : State), areaOk (s.ctx ctx.toNat).desc.policyAddr 128 = true →
     let n := ctx.toNat
     let r := s.srec n
     let mine (b : BitVec 4 × Word) : Bool := b == (ctx, r.step)
     let taken (t : State) : Prop := t.orr.fwdBeacons = s.orr.fwdBeacons.filter (fun b => !mine b)
     (s.orr.fwdBeacons.any mine = false → exec (.forwardEndBeacon ctx) s = .next s) ∧
     (s.orr.fwdBeacons.any mine = true → r.phase ≠ 1 → ∃ t, exec (.forwardEndBeacon ctx) s = .next t ∧
       { t with orr := s.orr } = s ∧ { t.orr with fwdBeacons := s.orr.fwdBeacons } = s.orr ∧ taken t) ∧
     (s.orr.fwdBeacons.any mine = true → r.phase = 1 → ∃ t, exec (.forwardEndBeacon ctx) s = .next t ∧
       OnlyRecords s { t with ctxs := s.ctxs } ∧ OnlyCtx n s t ∧ t.ctx n = { s.ctx n with srec := { r with phase := 2 } } ∧
       taken t ∧ Holds t [((s.ctx n).desc.policyAddr + 64, (t.srec n).bytes)]) ∧
     ((s.ctx n).st ≠ .running ∨ (s.ctx n).policy = none ∨ (r.phase ≠ 1 ∧ r.phase ≠ 2) ∨ r.commit ≠ none ∨
       (∃ x ∈ s.ctxCores n, (s.core x.2.2).finished = false) → exec (.bwdEnd ctx) s = .next s) ∧
     (∀ p, (s.ctx n).policy = some p → (s.ctx n).st = .running → (r.phase = 1 ∨ r.phase = 2) → r.commit = none →
       (∀ x ∈ s.ctxCores n, (s.core x.2.2).finished = true) → ∃ t, exec (.bwdEnd ctx) s = .next t ∧
       OnlyRecords s { t with ctxs := s.ctxs, outbox := s.outbox } ∧ OnlyCtx n s t ∧
       t.outbox = s.outbox ++ [.tally ctx] ∧ (t.srec n).phase = 3 ∧ (t.srec n).step = r.step ∧
       (t.srec n).sigma = r.sigma ∧ (t.srec n).commit = none ∧
       (t.srec n).tally = ((s.ctxCores n).filter (fun x => (s.core x.2.2).cc.numStat.nan || (s.core x.2.2).cc.numStat.inf ||
         (p.satVotes && (s.core x.2.2).cc.numStat.sat))).length ∧
       (t.srec n).mirror = ((s.ctxCores n).map (fun x => (s.core x.2.2).cc.dmem.nat (p.hdr.toNat + 8) 4)).sum % 2 ^ 32 ∧
       Holds t [((s.ctx n).desc.policyAddr + 64, (t.srec n).bytes)])) ∧
  (∀ (ctx : BitVec 4) (s : State),
     let n := ctx.toNat
     let r := s.srec n
     let me := s.ctxSelf n
     me.rank < 65536 →
     let v := s.voteOf n false
     let vs := r.votes.filter (fun w => w.rank != v.rank) ++ [v]
     let need := me.rank :: treeChildren me.n me.rank
     let ws := need.filterMap (fun k => vs.find? (fun w => w.rank.toNat == k))
     let waits := v.healthy = true ∧ v.complete = false ∨ (s.ctx n).upd.isSome = true ∧ voteWants v = true
     let votes := r.phase = 3 ∧ r.voted = false ∧ r.commit = none ∧ ¬waits
     let gone := { r with voted := true, voteTick := s.tick }
     (¬votes → exec (.tallyResult ctx) s = .next s) ∧
     (votes → me.role ≠ 0 → ∃ t, exec (.tallyResult ctx) s = .next t ∧ { t with ctxs := s.ctxs } = s ∧ OnlyCtx n s t ∧
       t.ctx n = { s.ctx n with srec := gone }) ∧
     (votes → me.role = 0 → ws.length < need.length → ∃ t, exec (.tallyResult ctx) s = .next t ∧
       { t with ctxs := s.ctxs } = s ∧ OnlyCtx n s t ∧ t.ctx n = { s.ctx n with srec := { gone with votes := vs } }) ∧
     (votes → me.role = 0 → 0 < me.rank → ws.length = need.length →
       ∃ t w, exec (.tallyResult ctx) s = .next t ∧ { t with ctxs := s.ctxs, outbox := s.outbox } = s ∧ OnlyCtx n s t ∧
         t.ctx n = { s.ctx n with srec := { gone with votes := vs } } ∧ t.outbox = s.outbox ++ [.vote w] ∧
         w.step = r.step ∧ w.epoch = r.epoch ∧ w.rank.toNat = me.rank ∧ w.finite = ws.all VoteWord.finite ∧
         w.complete = ws.all VoteWord.complete ∧ w.healthy = ws.all VoteWord.healthy ∧
         w.mirrorOk = ws.all VoteWord.mirrorOk ∧ w.seenCommit = ws.any VoteWord.seenCommit ∧
         w.earlyAbort = ws.any VoteWord.earlyAbort) ∧
     (∀ p, votes → me.role = 0 → me.rank = 0 → ws.length = need.length → (s.ctx n).policy = some p →
       areaOk (s.ctx n).desc.policyAddr 128 = true → ∃ t, exec (.tallyResult ctx) s = .next t ∧ OnlyCtx n s t ∧
         t.sites = s.sites ∧ (t.srec n).voted = true ∧
         (t.srec n).commit = some (ws.any VoteWord.seenCommit ||
           ws.all (fun w => w.finite && w.complete && w.healthy && w.mirrorOk && !w.earlyAbort))) ∧
     (v.finite = true ↔ r.tally = 0) ∧ (v.mirrorOk = true ↔ r.mirror = 0) ∧ v.seenCommit = (r.commit == some true) ∧
     v.earlyAbort = false ∧ (v.healthy = true ↔ s.grafting n = false ∧ r.faulted = false) ∧
     (∀ l c k p, s.key l c = some k → (s.core k).ctx = some ctx → (s.ctx n).policy = some p → p.earlyAbort = true →
       ((s.core k).cc.numStat.nan = true ∨ (s.core k).cc.numStat.inf = true) → 1 ≤ r.phase → r.phase ≤ 3 →
       r.voted = false → r.commit = none → me.role = 0 → 0 < me.rank →
       ∃ t w, exec (.earlyAbort l c) s = .next t ∧ { t with ctxs := s.ctxs, outbox := s.outbox } = s ∧ OnlyCtx n s t ∧
         t.outbox = s.outbox ++ [.vote w] ∧ w.step = r.step ∧ w.epoch = r.epoch ∧ w.earlyAbort = true ∧ w.finite = false ∧
         (t.srec n).voted = true ∧ (t.srec n).early = true ∧ (t.srec n).phase = r.phase)) ∧
  (∀ (ctx : BitVec 4) (v : VoteWord) (s : State) (p : Policy),
     let n := ctx.toNat
     let r := s.srec n
     let me := s.ctxSelf n
     (s.ctx n).policy = some p → areaOk (s.ctx n).desc.policyAddr 128 = true → r.started = true → r.open_ = true →
     me.rank = 0 → v.step = r.step → v.epoch = r.epoch →
     let vs := r.votes.filter (fun w => w.rank != v.rank) ++ [v]
     let ws := (0 :: treeChildren me.n 0).filterMap (fun k => vs.find? (fun w => w.rank.toNat == k))
     (v.earlyAbort = false → ws.length = 1 + (treeChildren me.n 0).length →
       ∃ t, exec (.voteWord ctx v) s = .next t ∧ OnlyCtx n s t ∧ t.sites = s.sites ∧
         (t.srec n).commit = some (ws.any VoteWord.seenCommit ||
           ws.all (fun w => w.finite && w.complete && w.healthy && w.mirrorOk && !w.earlyAbort)) ∧
         (t.srec n).phase = (if (t.srec n).commit = some true then 4 else 6) ∧ (t.srec n).decisionTick = s.tick) ∧
     (v.earlyAbort = false → ws.length < 1 + (treeChildren me.n 0).length →
       ∃ t, exec (.voteWord ctx v) s = .next t ∧ { t with ctxs := s.ctxs } = s ∧ OnlyCtx n s t ∧
         t.ctx n = { s.ctx n with srec := { r with votes := vs } }) ∧
     (v.earlyAbort = true → (∀ w ∈ vs, w.seenCommit = false) →
       ∃ t, exec (.voteWord ctx v) s = .next t ∧ OnlyCtx n s t ∧ (t.srec n).commit = some false ∧ (t.srec n).phase = 6)) ∧
  (∀ (ctx : BitVec 4) (s : State) (p : Policy) (step epoch : Word) (rank : Half),
     let n := ctx.toNat
     let r := s.srec n
     ((s.ctx n).policy = some p → r.voted = true → r.open_ = true → r.voteTick.toNat + p.voteTimeout ≤ s.tick.toNat →
       ∃ t, exec (.voteTimeout ctx) s = .next t ∧ { t with ctxs := s.ctxs, outbox := s.outbox } = s ∧ OnlyCtx n s t ∧
         t.outbox = s.outbox ++ [.decisionReq r.step r.epoch (BitVec.ofNat 16 (s.ctxSelf n).rank)] ∧
         t.ctx n = { s.ctx n with srec := { r with voteTick := s.tick } }) ∧
     ((s.ctx n).policy = none ∨ r.voted = false ∨ r.open_ = false → exec (.voteTimeout ctx) s = .next s) ∧
     ((s.ctx n).policy = some p → s.tick.toNat < r.voteTick.toNat + p.voteTimeout → exec (.voteTimeout ctx) s = .next s) ∧
     (epoch ≠ r.epoch → exec (.decisionRequest ctx step epoch rank) s = .next s) ∧
     (epoch = r.epoch → ∀ c, r.step = step → r.commit = some c → exec (.decisionRequest ctx step epoch rank) s =
       .next { s with outbox := s.outbox ++ [.decide { step := step, epoch := epoch, commit := c, bits := r.decBits }] }) ∧
     (epoch = r.epoch → r.step ≠ step → ∀ u c, (s.ctx n).upd = some u → u.step = step → u.commit = some c →
       exec (.decisionRequest ctx step epoch rank) s =
         .next { s with outbox := s.outbox ++ [.decide { step := step, epoch := epoch, commit := c, bits := u.decBits }] }) ∧
     (epoch = r.epoch → r.step ≠ step → (s.updRec n).step ≠ step → r.lastDone = some step → exec (.decisionRequest ctx step epoch rank) s =
       .next { s with outbox := s.outbox ++ [.decide { step := step, epoch := epoch, commit := true, bits := r.decBits }] }) ∧
     (epoch = r.epoch → r.step ≠ step → (s.updRec n).step ≠ step → r.lastDone ≠ some step → (s.ctxSelf n).rank ≠ 0 →
       exec (.decisionRequest ctx step epoch rank) s = .next { s with outbox := s.outbox ++ [.decisionReq step epoch rank] }))

/-- 09 R281, R284, R292–R294: a commit decision of the open step moves it to UPDATE, raises good_steps and, at the grow
interval, the scale exponent up to its maximum; an abort moves it to ABORTED, lowers the exponent after a non-finite
step, counts the repeat, stops the context's cores at their command boundaries and, at max_repeats, the context. A
decision of another step or epoch changes nothing. -/
def Obligations.DecisionMovesSigma : Prop :=
  ∀ (ctx : BitVec 4) (d : DecisionMsg) (s : State) (p : Policy),
    let n := ctx.toNat
    let r := s.srec n
    (s.ctx n).policy = some p → areaOk (s.ctx n).desc.policyAddr 128 = true →
    ((d.step ≠ r.step ∨ d.epoch ≠ r.epoch ∨ r.open_ = false) → exec (.decision ctx d) s = .next s) ∧
    (d.step = r.step → d.epoch = r.epoch → r.open_ = true → d.commit = true →
      ∃ t, exec (.decision ctx d) s = .next t ∧ OnlyRecords s { t with ctxs := s.ctxs, outbox := s.outbox } ∧
        OnlyCtx n s t ∧ (t.srec n).phase = 4 ∧ (t.srec n).commit = some true ∧ (t.srec n).outcome = 1 ∧
        (t.srec n).repeats = 0 ∧ (t.srec n).step = r.step ∧
        (let grow := p.growInterval ≠ 0 ∧ p.growInterval ≤ r.goodSteps + 1
         (t.srec n).sigma = (if grow then min (r.sigma + 1) p.sigmaMax else r.sigma) ∧
         (t.srec n).goodSteps = (if grow then 0 else r.goodSteps + 1)) ∧
        Holds t [((s.ctx n).desc.policyAddr + 64, (t.srec n).bytes)] ∧
        t.outbox = (if treeChildren (s.ctxSelf n).n (s.ctxSelf n).rank = [] then s.outbox else s.outbox ++ [.decide d])) ∧
    (d.step = r.step → d.epoch = r.epoch → r.open_ = true → d.commit = false →
      ∃ t, exec (.decision ctx d) s = .next t ∧ OnlyCtx n s t ∧ t.sites = s.sites ∧ t.grid = s.grid ∧
        t.fab = { s.fab with widen := false } ∧ (t.srec n).phase = 6 ∧ (t.srec n).commit = some false ∧ (t.srec n).repeats = min (r.repeats + 1) 255 ∧
        (let nf := d.bits.getLsbD 2 = true ∧ d.bits.getLsbD 0 = false
         (t.srec n).sigma = (if nf then max (r.sigma - p.dec) p.sigmaMin else r.sigma) ∧
         (t.srec n).goodSteps = (if nf then 0 else r.goodSteps) ∧
         (min (r.repeats + 1) 255 < p.maxRepeats → (t.srec n).outcome = (if nf then (if p.skip then 4 else 2) else 3))) ∧
        (p.maxRepeats ≤ min (r.repeats + 1) 255 → (t.ctx n).st = .stopped ∧ (t.srec n).outcome = 5) ∧
        (∀ x ∈ s.ctxCores n, (s.core x.2.2).ctx = some ctx → (t.core x.2.2).me.queue = [] ∧
          (t.core x.2.2).ve.queue = [] ∧ (t.core x.2.2).se.queue = [] ∧ (t.core x.2.2).cc.st.fetches = false ∧
          (t.core x.2.2).sp = (s.core x.2.2).sp ∧ (t.core x.2.2).cc.regs = (s.core x.2.2).cc.regs) ∧
        ∀ k, (s.core k).ctx ≠ some ctx → t.core k = s.core k)

/-- 09 R291, R266, R296, 10 R300: UPDATE_FINISHED, at the end of the update of the step in UPD (the latest, or the one
before it when the next runs behind the update), sends this primary's acknowledgement up, the root counting its own; a
shadow or a spare sends none. Before that end, with a fault that awaits its repair, or acknowledged already, it changes
nothing. The acknowledgement that is the last of the membership's, at the root, and DONE at another module, end that
step: cur flipped, its STEP entry finished with status 0, and it is the last done; the latest step is then in phase DONE
where it was the one in UPD, else it runs on. A module below the root passes an acknowledgement up. Nothing else of the
context changes, and no core. 09 R296: SHARD_RESTORE after a fault between commit and acknowledgement sets
flags.restored of that step and pauses the context's scheduling; given again, once no graft and no rebuild runs and the
step's cores have finished the copy from the mirror, it lets the update run again: the started entries of the update
between its STEP and the next are to start again, and with the Seedbank in use its state becomes 2, only parity shares
of the beds changing. Else it changes nothing. -/
def Obligations.UpdateEndsTheStep : Prop :=
  (∀ (ctx : BitVec 4) (s : State) (rank : Half) (step epoch : Word),
     let n := ctx.toNat
     let c := s.ctx n
     let u := s.updRec n
     let me := s.ctxSelf n
     let put (v : StepRec) : Ctx := if c.upd.isSome then { c with upd := some v } else { c with srec := v }
     let ended (t : State) : Prop := OnlyCtx n s t ∧ t.cores = s.cores ∧ t.sites = s.sites ∧ (t.ctx n).upd = none ∧
       (t.srec n).phase = (if c.upd.isSome then c.srec.phase else 5) ∧ (t.srec n).step = c.srec.step ∧
       (t.srec n).cur = (!c.srec.cur) ∧ (t.srec n).lastDone = some u.step ∧ (t.srec n).sigma = c.srec.sigma ∧
       (t.srec n).goodSteps = c.srec.goodSteps ∧ (t.ctx n).entries = c.entries.map (fun e =>
         if e.kind = 3 ∧ e.index = u.entry ∧ e.finished = false then { e with finished := true, status := 0 } else e)
     let counted (a : Half) (v : StepRec) (i : Instr) : Prop := me.role = 0 → me.rank = 0 → u.acks.contains a = false →
       (u.acks.length + 1 = me.n → areaOk c.desc.policyAddr 128 = true → ∃ t, exec i s = .next t ∧ ended t ∧
         t.outbox = (if 1 < me.n then s.outbox ++ [.doneMsg u.step u.epoch] else s.outbox)) ∧
       (u.acks.length + 1 < me.n → ∃ t, exec i s = .next t ∧ { t with ctxs := s.ctxs } = s ∧ OnlyCtx n s t ∧
         t.ctx n = put { v with acks := u.acks ++ [a] })
     (u.phase ≠ 4 ∨ u.acked = true ∨ u.faulted = true ∨ u.restore = 1 ∨ s.updOver n = false →
       exec (.updateFinished ctx) s = .next s) ∧
     (u.phase = 4 → u.acked = false → u.faulted = false → u.restore ≠ 1 → s.updOver n = true →
       (me.role = 0 → me.rank ≠ 0 → ∃ t, exec (.updateFinished ctx) s = .next t ∧
         { t with ctxs := s.ctxs, outbox := s.outbox } = s ∧ OnlyCtx n s t ∧ t.ctx n = put { u with acked := true } ∧
         t.outbox = s.outbox ++ [.ack u.step u.epoch (BitVec.ofNat 16 me.rank)]) ∧
       (me.role ≠ 0 → ∃ t, exec (.updateFinished ctx) s = .next t ∧ { t with ctxs := s.ctxs } = s ∧ OnlyCtx n s t ∧
         t.ctx n = put { u with acked := true }) ∧
       counted 0 { u with acked := true } (.updateFinished ctx)) ∧
     (u.phase = 4 → counted rank u (.commitAcknowledgement ctx u.step u.epoch rank)) ∧
     (me.rank ≠ 0 ∨ me.role ≠ 0 → exec (.commitAcknowledgement ctx u.step u.epoch rank) s =
       .next { s with outbox := s.outbox ++ [.ack u.step u.epoch rank] }) ∧
     (step ≠ u.step ∨ epoch ≠ u.epoch → exec (.commitAcknowledgement ctx step epoch rank) s = .next s) ∧
     (step ≠ u.step ∨ epoch ≠ u.epoch ∨ u.phase ≠ 4 → exec (.done ctx step epoch) s = .next s) ∧
     (u.phase = 4 → areaOk c.desc.policyAddr 128 = true → ∃ t, exec (.done ctx u.step u.epoch) s = .next t ∧ ended t)) ∧
  (∀ (ctx : BitVec 4) (s : State), areaOk (s.ctx ctx.toNat).desc.policyAddr 128 = true →
     let n := ctx.toNat
     let c := s.ctx n
     let u := s.updRec n
     let put (v : StepRec) : Ctx := if c.upd.isSome then { c with upd := some v } else { c with srec := v }
     let busy := s.grafting n = true ∨ s.sb.state = 3 ∨
       ∃ x ∈ s.ctxCores n, (s.core x.2.2).stepNo = u.step ∧ (s.core x.2.2).finished = false
     let parity := s.sb.en = true ∧ s.sb.state ≠ 1
     (u.phase ≠ 4 ∨ u.acked = true ∨ (u.restore ≠ 1 ∧ u.faulted = false) ∨ (u.restore = 1 ∧ busy) →
       exec (.shardRestore ctx) s = .next s) ∧
     (u.phase = 4 → u.acked = false → u.restore ≠ 1 → u.faulted = true → ∃ t, exec (.shardRestore ctx) s = .next t ∧
       OnlyRecords s { t with ctxs := s.ctxs } ∧ OnlyCtx n s t ∧
       t.ctx n = put { u with restored := true, restore := 1, restoreTick := s.tick } ∧
       (c.upd = none → Holds t [(c.desc.policyAddr + 64, (t.srec n).bytes)])) ∧
     (u.phase = 4 → u.acked = false → u.restore = 1 → ¬busy → ∃ t, exec (.shardRestore ctx) s = .next t ∧ t.cores = s.cores ∧
       OnlyCtx n s t ∧ t.ctx n = (put { u with faulted := false, restore := 2 }).againAfter u.entry ∧
       (∀ p a, a < parityBase → (t.site p).bed.get a = (s.site p).bed.get a) ∧
       (parity → t.sb.state = 2) ∧ (¬parity → t.sites = s.sites ∧ t.sb = s.sb) ∧
       (c.upd = none → Holds t [(c.desc.policyAddr + 64, (t.srec n).bytes)])))

/-! ## Trellis (10) -/

/-- 10 R307: a handoff of a good tag of the running step whose count still fits adds it to the tag's total, and the one
that makes the total the expected one puts the bucket, as it stands then, among the pending; any other handoff is
ignored with bad_handoff set. 10 R300, R306, R308, R309, R311: the oldest pending bucket takes one of the 64 slots of
its die, unless its record is written already; with none free, or none pending, nothing changes. A member sends each
segment to its owner, keeping those it owns in staging, and its notice, with the largest exponent of its elements, to
the head, which keeps its own; a spare sends nothing. A poisoned word makes the notice poisoned, sets the cause and
marks the step's record. 10 R301, R311–R313, R317: a member notice of the running step, or of one not begun, and of the
epoch in force enters its tag's open record at the head, the first of the bucket making the record, and, while a primary
is still missing and grace lasts, does nothing else; the one that makes the primaries whole closes the bucket, nobody
excluded, at the common scale of their exponents. A non-finite one sets nonfinite_in. A late notice of a rank that its
bucket closed without is recorded for folding where it still may be. A notice of another epoch is discarded with
stale_epoch set; at a module that is not the head it changes nothing. 10 R311: when grace runs out on an open bucket its
head sets the cause and settles the bucket: a missing rank whose shadow sent its notice is backed by it; with a rank
that sent neither, a strict tag stays open, and a lenient one is closed without the missing ranks, which is counted.
Before that, or for a bucket that is closed or settled already, nothing changes. -/
def Obligations.BucketsAreReduced : Prop :=
  (∀ (xd : BitVec 2) (bs : List Byte) (s : State),
     let x := xd.toNat
     let t := bfld bs 0 2
     let n := bfld bs 6 2
     let total := sget (fun _ => 0) (s.xd x).tr.totals t + n
     (∀ e c, bs.length = 64 → t < 4096 → t % 4 = x → bfld bs 8 56 = 0 → s.tag t = some e → s.trellis.cfg = some c → bfld bs 2 4 = s.trStep.toNat →
       1 ≤ n → n ≤ 2048 → total ≤ e.expect → ∃ u, exec (.trHandoff xd bs) s = .next u ∧
       { u with xds := s.xds, trellis := s.trellis } = s ∧ { u.trellis with handed := s.trellis.handed } = s.trellis ∧
       (total ≠ e.expect → u.trellis = s.trellis) ∧
       (total = e.expect → ∀ h ∈ u.trellis.handed, h.1.toNat = t → h.2 = s.bucketElems c.ctx.toNat e 0 e.units) ∧
       (∀ j, sget (fun _ => 0) (u.xd x).tr.totals j = if j = t then total else sget (fun _ => 0) (s.xd x).tr.totals j) ∧
       (u.xd (s.dieOf t)).tr.pendingTags = (if total = e.expect then (s.xd (s.dieOf t)).tr.pendingTags ++ [BitVec.ofNat 12 t]
         else (s.xd (s.dieOf t)).tr.pendingTags) ∧
       (u.xd x).tr.running = (s.xd x).tr.running ∧ (u.xd x).tr.cause = (s.xd x).tr.cause) ∧
     ((bs.length ≠ 64 ∨ 4096 ≤ t ∨ t % 4 ≠ x ∨ bfld bs 8 56 ≠ 0 ∨ s.tag t = none ∨ bfld bs 2 4 ≠ s.trStep.toNat ∨ n < 1 ∨ 2048 < n ∨
         ∃ e, s.tag t = some e ∧ e.expect < total) → ∃ u, exec (.trHandoff xd bs) s = .next u ∧
       { u with xds := s.xds, gis := s.gis } = s ∧ (u.xd (s.dieOf x)).tr.cause.getLsbD 1 = true ∧
       ∀ y, (u.xd y).tr.totals = (s.xd y).tr.totals ∧ (u.xd y).tr.pendingTags = (s.xd y).tr.pendingTags)) ∧
  (∀ (xd : BitVec 2) (s : State) (t : BitVec 12) (rest : List (BitVec 12)) (c : TrCfg) (e : TagEntry),
     let x := xd.toNat
     let me := s.self
     let sN := segCount me.n e.units
     let n := c.ctx.toNat
     let es := s.bucketElems n e 0 e.units
     let bad := es.any Prod.snd
     let mine (i : Nat) : Bool := me.role == 0 && segOwner me.n t.toNat sN i == me.rank
     let seg (i : Nat) : SegmentMsg :=
       { tag := t, step := s.trStep, epoch := me.epoch, seg := i, rank := BitVec.ofNat 16 me.rank, shadow := me.role == 1,
         data := (s.bucketElems n e (segUnits e.units sN i).1 (segUnits e.units sN i).2).map Prod.fst }
     let note : MemberNotice :=
       { step := s.trStep, epoch := me.epoch, tag := t, rank := BitVec.ofNat 16 me.rank, shadow := me.role == 1,
         nonfinite := es.any (fun v => g16NonFinite v.1), poison := bad, eMax := maxInt (es.map (fun v => g16Exp v.1)) }
     let running := if s.trellis.complete.contains (t, s.trStep) then (s.xd x).tr.running
       else (s.xd x).tr.running ++ [{ tag := t, step := s.trStep, started := s.tick }]
     ((s.xd x).tr.pendingTags = [] ∨ 64 ≤ (s.xd x).tr.running.length → exec (.bucketStart xd) s = .next s) ∧
     ((s.xd x).tr.pendingTags = t :: rest → (s.xd x).tr.running.length < 64 → s.trellis.cfg = some c → s.tag t.toNat = some e →
       (me.role = 2 → ∃ u, exec (.bucketStart xd) s = .next u ∧ { u with xds := s.xds } = s ∧
         (u.xd x).tr = { (s.xd x).tr with pendingTags := rest }) ∧
       (me.role ≠ 2 → (∀ h ∈ s.trellis.handed, h.1 = t → h.2 = es) → s.closedAt t s.trStep = none →
         (∀ q ∈ s.trellis.staging, ¬(q.tag = t ∧ q.step = s.trStep)) →
         (∀ q ∈ s.trellis.heads, ¬(q.tag = t ∧ q.step = s.trStep)) → (s.isHead t.toNat = true → 1 < me.n) →
         ∃ u, exec (.bucketStart xd) s = .next u ∧ u.cores = s.cores ∧
           (u.xd x).tr.pendingTags = rest ∧ (u.xd x).tr.running = running ∧
           u.outbox = s.outbox ++ ((List.range sN).filter (fun i => !mine i)).map (fun i =>
               .segment (segOwner me.n t.toNat sN i) (seg i)) ++
             (if s.isHead t.toNat then [] else [.notice (headRank me.n t.toNat e.units) note]) ∧
           u.trellis = { s.trellis with
             staging := s.trellis.staging ++ ((List.range sN).filter mine).map (fun i => contribOf (seg i)),
             heads := if s.isHead t.toNat then s.trellis.heads ++
               [{ tag := t, step := s.trStep, first := s.tick, notices := [note], graceDone := false, closed := false }]
               else s.trellis.heads } ∧
           (bad = false → u.ctxs = s.ctxs) ∧
           (bad = true → (u.xd x).tr.cause.getLsbD 10 = true ∧ ((s.srec n).step = s.trStep → (u.srec n).faulted = true))))) ∧
  (∀ (m : MemberNotice) (s : State) (h : HeadRec),
     let t := m.tag.toNat
     let h' := { h with notices := h.notices ++ [m] }
     let hs := s.trellis.heads.filter (fun q => q.tag == m.tag && q.step == m.step)
     let cause (u : State) (i : Nat) : Prop := (u.xd (s.dieOf t)).tr.cause.getLsbD i = true
     let mine := s.trellis.cfg.isSome = true ∧ m.epoch = s.self.epoch ∧ s.isHead t = true
     let opens := hs = [] ∧
         h = { tag := m.tag, step := m.step, first := s.tick, notices := [], graceDone := false, closed := false } ∨
       hs = [h] ∧ h.closed = false ∧ h.graceDone = false ∧ s.tick.toNat < h.first.toNat + (s.xd 0).tr.grace.toNat
     ((s.trellis.cfg = none ∨ m.epoch ≠ s.self.epoch) → ∃ u, exec (.memberNotice m) s = .next u ∧
       { u with xds := s.xds, gis := s.gis } = s ∧ cause u 2) ∧
     (s.trellis.cfg.isSome = true → m.epoch = s.self.epoch → s.isHead t = false → exec (.memberNotice m) s = .next s) ∧
     (mine → s.current m.step = true → opens → h.has m.shadow m.rank.toNat = none →
       ((∃ r, r < s.self.n ∧ h'.has false r = none) → ∃ u, exec (.memberNotice m) s = .next u ∧
         { u with trellis := s.trellis, xds := s.xds, gis := s.gis } = s ∧
         { u.trellis with heads := s.trellis.heads } = s.trellis ∧
         u.trellis.heads = s.trellis.heads.filter (fun q => !(q.tag == m.tag && q.step == m.step)) ++ [h'] ∧
         (m.nonfinite = false → u.xds = s.xds ∧ u.gis = s.gis) ∧ (m.nonfinite = true → cause u 9)) ∧
       ((∀ r, r < s.self.n → (h'.has false r).isSome = true) → ∃ u cm l, exec (.memberNotice m) s = .next u ∧
         u.outbox = s.outbox ++ Out.close cm :: l ∧ cm.tag = m.tag ∧ cm.step = m.step ∧ cm.epoch = m.epoch ∧ cm.excl = [] ∧
         cm.backups = [] ∧ cm.lenient = false ∧ cm.closeTick = s.tick ∧ (m.nonfinite = true → cause u 9) ∧
         ((s.xd 0).tr.fold = 0 → cm.folds = [] ∧
           cm.kc = commonScale ((List.range s.self.n).filterMap (fun r => (h'.has false r).map MemberNotice.eMax))))) ∧
     (mine → s.current m.step = false → m.shadow = false → m.nonfinite = false →
       s.exclAt m.tag m.step m.rank.toNat = some true → s.foldable m.tag m.step = true → s.foldUsed < s.foldSize →
       (∀ f ∈ s.trellis.folds, ¬(f.tag = m.tag ∧ f.rank = m.rank.toNat ∧ f.step = m.step)) →
       ∃ u, exec (.memberNotice m) s = .next u ∧ { u with trellis := s.trellis } = s ∧
         u.trellis = { s.trellis with folds := s.trellis.folds ++
           [{ tag := m.tag, rank := m.rank.toNat, step := m.step, epoch := m.epoch, eMax := m.eMax, used := none }] })) ∧
  (∀ (tag : BitVec 12) (step : Word) (s : State),
     let t := tag.toNat
     let found := s.trellis.heads.find? (fun h => h.tag.toNat == t && h.step == step)
     (found = none → exec (.bucketGraceExpiry ⟨tag, step⟩) s = .next s) ∧
     ∀ (h : HeadRec) (e : TagEntry), found = some h →
     (s.tick.toNat < h.first.toNat + (s.xd 0).tr.grace.toNat ∨ h.closed = true ∨ h.graceDone = true →
       exec (.bucketGraceExpiry ⟨tag, step⟩) s = .next s) ∧
     (s.tag t = some e → h.closed = false → h.graceDone = false → h.first.toNat + (s.xd 0).tr.grace.toNat ≤ s.tick.toNat →
       let missing := (List.range s.self.n).filter (fun r => (h.has false r).isNone)
       let gone := missing.filter (fun r => (h.has true r).isNone)
       let cause (u : State) (i : Nat) : Prop := (u.xd (s.dieOf t)).tr.cause.getLsbD i = true
       (gone ≠ [] → e.lenient = false → ∃ u, exec (.bucketGraceExpiry ⟨tag, step⟩) s = .next u ∧
         { u with trellis := s.trellis, xds := s.xds, gis := s.gis } = s ∧ cause u 3 ∧
         { u.trellis with heads := s.trellis.heads } = s.trellis ∧
         u.trellis.heads = s.trellis.heads.map (fun q => if q = h then { h with graceDone := true } else q)) ∧
       (gone = [] ∨ e.lenient = true → ∃ u cm l, exec (.bucketGraceExpiry ⟨tag, step⟩) s = .next u ∧
         u.outbox = s.outbox ++ Out.close cm :: l ∧ cause u 3 ∧
         cm.tag = h.tag ∧ cm.step = h.step ∧ cm.lenient = (!gone.isEmpty) ∧ cm.excl = gone ∧
         cm.backups = missing.filter (fun r => (h.has true r).isSome) ∧
         (gone ≠ [] → cause u 4) ∧ (cm.backups ≠ [] → cause u 5))))

/-- 10 R310, R313, R317: data of a segment that this module owns, for the running step or one not begun, of the epoch in
force, is kept in staging while there is room and counted; with the staging area full it waits; late data of a rank that
its bucket closed without goes into the fold area where it still may be folded; data of another epoch is discarded with
stale_epoch set; of a segment owned elsewhere it changes nothing. The first close notice of such a step, at a member
that owns none of the bucket's segments and has not yet all of them back, is kept as the tag's status, and marks the
step record lenient where it is; a second, or an earlier step's, changes nothing. 10 R315, R316, R301: write-back data
of the running step, or of one not begun, lands in the tag's retained area at its segment's place and is counted; when
it is the last segment of a tag whose close is known the tag is complete: its completion record is counted and its slot
is free. A segment that is retained already, or of an earlier step, changes nothing; one of another epoch sets
stale_epoch. -/
def Obligations.SegmentsAreReduced : Prop :=
  (∀ (m : SegmentMsg) (cm : CloseNotice) (s : State) (c : TrCfg) (e : TagEntry), s.trellis.cfg = some c →
     let t := m.tag.toNat
     let x := s.dieOf t
     let n := c.ctx.toNat
     let counted (u : State) : Prop := (u.xd x).tr.bytesIn = (s.xd x).tr.bytesIn + BitVec.ofNat 64 (2 * m.data.length)
     (m.epoch ≠ s.self.epoch → ∃ u, exec (.segmentData m) s = .next u ∧ { u with xds := s.xds, gis := s.gis } = s ∧
       (u.xd x).tr.cause.getLsbD 2 = true) ∧
     (m.epoch = s.self.epoch → s.tag t = none → exec (.segmentData m) s = .next s) ∧
     (s.tag t = some e → m.epoch = s.self.epoch →
       let room := s.stageUsed x + 2 * m.data.length ≤ c.stageMib * mib
       ((s.mySegs t e).contains m.seg = false → exec (.segmentData m) s = .next s) ∧
       ((s.mySegs t e).contains m.seg = true → s.current m.step = true → ¬room → exec (.segmentData m) s = .next s) ∧
       ((s.mySegs t e).contains m.seg = true → s.current m.step = true → room → s.closedAt m.tag m.step = none →
         (∀ q ∈ s.trellis.staging, ¬(q.tag = m.tag ∧ q.step = m.step ∧ q.seg = m.seg ∧ q.rank = m.rank.toNat)) →
         ∃ u, exec (.segmentData m) s = .next u ∧ { u with trellis := s.trellis, xds := s.xds } = s ∧
           u.trellis = { s.trellis with staging := s.trellis.staging ++ [contribOf m] } ∧ counted u) ∧
       ((s.mySegs t e).contains m.seg = true → s.current m.step = false → m.shadow = false →
         s.exclAt m.tag m.step m.rank.toNat = some true → s.foldable m.tag m.step = true →
         s.foldUsed + 2 * m.data.length ≤ s.foldSize →
         ∃ u, exec (.segmentData m) s = .next u ∧ { u with trellis := s.trellis, xds := s.xds } = s ∧
           u.trellis = { s.trellis with foldData := s.trellis.foldData ++ [contribOf m] } ∧ counted u)) ∧
     (cm.epoch ≠ s.self.epoch → ∃ u, exec (.closeNotice cm) s = .next u ∧ { u with xds := s.xds, gis := s.gis } = s ∧
       (u.xd (s.dieOf cm.tag.toNat)).tr.cause.getLsbD 2 = true) ∧
     (cm.epoch = s.self.epoch → s.current cm.step = false ∨ (s.closedAt cm.tag cm.step).isSome = true ∨
       s.tag cm.tag.toNat = none → exec (.closeNotice cm) s = .next s) ∧
     (s.tag cm.tag.toNat = some e → cm.epoch = s.self.epoch → s.current cm.step = true → s.closedAt cm.tag cm.step = none →
       (∀ q ∈ s.trellis.staging, q.tag = cm.tag → q.step = cm.step → cm.excl.contains q.rank = false) →
       s.mySegs cm.tag.toNat e = [] → (∀ q ∈ s.trellis.owed, ¬(q.1 = cm.tag ∧ q.2.1 = cm.step)) →
       (∃ i, i < segCount s.self.n e.units ∧ s.trellis.retained.contains (cm.tag, cm.step, i) = false) →
       ∃ u, exec (.closeNotice cm) s = .next u ∧ { u with trellis := s.trellis, ctxs := s.ctxs } = s ∧ OnlyCtx n s u ∧
         u.trellis.status = s.trellis.status ++ [(cm.tag, cm)] ∧ u.trellis.staging = s.trellis.staging ∧
         u.trellis.retained = s.trellis.retained ∧ u.trellis.complete = s.trellis.complete ∧
         u.ctx n = (if cm.lenient = true ∧ (s.srec n).step = cm.step
           then { s.ctx n with srec := { s.srec n with lenient := true } } else s.ctx n))) ∧
  (∀ (m : SegmentMsg) (s : State) (c : TrCfg) (e : TagEntry), s.trellis.cfg = some c →
     let t := m.tag.toNat
     let sN := segCount s.self.n e.units
     let lo := (segUnits e.units sN m.seg).1
     let runs := [(e.ret + 512 * lo, m.data.flatMap (fun h => leBytes 2 h.toNat))]
     (m.epoch ≠ s.self.epoch → ∃ u, exec (.writeBackData m) s = .next u ∧ { u with xds := s.xds, gis := s.gis } = s ∧
       (u.xd (s.dieOf t)).tr.cause.getLsbD 2 = true) ∧
     (m.epoch = s.self.epoch → s.current m.step = false ∨ s.trellis.retained.contains (m.tag, m.step, m.seg) = true →
       exec (.writeBackData m) s = .next s) ∧
     (s.tag t = some e → m.epoch = s.self.epoch → s.current m.step = true → (∀ i, s.sealedNow i = false) →
       e.ret + 512 * lo + 2 * m.data.length ≤ fwBase → s.trellis.retained.contains (m.tag, m.step, m.seg) = false →
       (s.closedAt m.tag m.step = none → ∃ u, exec (.writeBackData m) s = .next u ∧
         u.cores = s.cores ∧ u.sites = s.sites ∧ u.ctxs = s.ctxs ∧
         u.trellis = { s.trellis with retained := s.trellis.retained ++ [(m.tag, m.step, m.seg)] } ∧
         (u.xd (s.dieOf t)).tr.bytesIn = (s.xd (s.dieOf t)).tr.bytesIn + BitVec.ofNat 64 (2 * m.data.length) ∧
         OnlyRuns runs s u ∧ Holds u runs) ∧
       (∀ cm, s.closedAt m.tag m.step = some cm → s.trellis.complete.contains (m.tag, m.step) = false →
         (∀ i, i < sN → i ≠ m.seg → s.trellis.retained.contains (m.tag, m.step, i) = true) → cm.poison = false →
         areaOk c.complAddr (64 * c.complN) = true → 0 < c.complN →
         ∃ u, exec (.writeBackData m) s = .next u ∧ u.cores = s.cores ∧ u.sites = s.sites ∧
           u.trellis.complete = s.trellis.complete ++ [(m.tag, m.step)] ∧
           (u.ctx c.ctx.toNat).records = (s.ctx c.ctx.toNat).records + 1 ∧
           (u.xd (s.dieOf t)).tr.doneCnt = (s.xd (s.dieOf t)).tr.doneCnt + 1 ∧
           (u.xd (s.dieOf t)).tr.running = (s.xd (s.dieOf t)).tr.running.filter (fun b =>
             !(b.tag.toNat == t && b.step == m.step)))))

/-- 10 R318, 11 R349: each period a member sends one heartbeat to the module that watches it; a heartbeat of the epoch
in force resets its sender's watch, one of a rank 0 that is alone in another membership that of its address, and one of
another epoch sets stale_epoch; a watched rank, or such an address, that is silent for the limit counts as failed, once,
and is reported to the lodestar with cause 1; a module that finds the lodestar so begins the next generation as
provisional lodestar. 10 R319, 11 R349, R350, 09 R295: at the lodestar a report of a member, not yet known as failed, of
one of its memberships in the epoch it names makes it failed and proposes the next list, without it, to the other
members, unless the lodestar is provisional and waits for the step boundary; with a step of the context open at the root
and the member a primary, that step aborts unless a commit exists. Anywhere else, or of another epoch, a report changes
nothing. -/
def Obligations.MembersAreWatched : Prop :=
  (∀ (s : State) (src : BitVec 13) (rank : Half) (epoch step : Word) (sent : DWord),
     (s.tick.toNat < s.trellis.lastHb.toNat + (s.xd 0).tr.hbPeriod.toNat ∨ s.hbTarget = none →
       exec .heartbeatSend s = .next s) ∧
     (∀ a, s.trellis.lastHb.toNat + (s.xd 0).tr.hbPeriod.toNat ≤ s.tick.toNat → s.hbTarget = some a →
       exec .heartbeatSend s = .next { s with
         trellis := { s.trellis with lastHb := s.tick },
         outbox := s.outbox ++ [.heartbeat a (BitVec.ofNat 16 s.self.rank) s.self.epoch s.trStep s.tick] }) ∧
     (s.isLone src rank = false → epoch = s.self.epoch → ∃ t, exec (.heartbeat ⟨src, rank⟩ epoch step sent) s = .next t ∧
       { t with trellis := s.trellis } = s ∧ { t.trellis with watch := s.trellis.watch } = s.trellis ∧
       ∀ j, sget (fun _ => 0) t.trellis.watch j = if j = rank.toNat then s.tick else sget (fun _ => 0) s.trellis.watch j) ∧
     (s.isLone src rank = true → exec (.heartbeat ⟨src, rank⟩ epoch step sent) s = .next { s with
       trellis := { s.trellis with lone := s.trellis.lone.filter (fun l => l.1 != src) ++ [(src, epoch, s.tick)] } }) ∧
     (s.isLone src rank = false → s.membership.isSome = true → epoch ≠ s.self.epoch →
       ∃ t, exec (.heartbeat ⟨src, rank⟩ epoch step sent) s = .next t ∧ { t with xds := s.xds, gis := s.gis } = s ∧
         (t.xd (s.dieOf 0)).tr.cause.getLsbD 2 = true) ∧
     (let silent := s.watched.contains rank.toNat = true ∧ s.trellis.failed.contains rank.toNat = false ∧
        (sget (fun _ => 0) s.trellis.watch rank.toNat).toNat + (s.xd 0).tr.hbLimit.toNat ≤ s.tick.toNat
      (¬silent → exec (.heartbeatLimitExpiry ⟨rank, none⟩) s = .next s) ∧
      (silent → s.isLodestar = false → s.watchedAddr rank.toNat ≠ s.fab.lodestar →
        ∃ t, exec (.heartbeatLimitExpiry ⟨rank, none⟩) s = .next t ∧ t.cores = s.cores ∧ t.ctxs = s.ctxs ∧ t.fab = s.fab ∧
          t.trellis.failed = s.trellis.failed ++ [rank.toNat] ∧ (t.xd 0).tr.cause.getLsbD 8 = true ∧
          t.outbox = s.outbox ++ [.failure (s.watchedAddr rank.toNat) s.self.epoch rank 1] ∧
          exec (.heartbeatLimitExpiry ⟨rank, none⟩) t = .next t) ∧
      (silent → s.isLodestar = false → s.watchedAddr rank.toNat = s.fab.lodestar →
        ∃ t, exec (.heartbeatLimitExpiry ⟨rank, none⟩) s = .next t ∧ t.fab.generation = s.fab.generation + 1 ∧
          t.fab.lodestar = s.fab.addr ∧ t.fab.provisional = true ∧ t.fab.electTick = s.tick ∧
          t.trellis.failed = s.trellis.failed ++ [rank.toNat] ∧ (t.xd 0).tr.cause.getLsbD 8 = true)) ∧
     (∀ a, s.trellis.lone.find? (fun l => l.1 == a) = none → exec (.heartbeatLimitExpiry ⟨rank, some a⟩) s = .next s) ∧
     (∀ a q last, s.trellis.lone.find? (fun l => l.1 == a) = some (a, q, last) →
       (s.tick.toNat < last.toNat + (s.xd 0).tr.hbLimit.toNat → exec (.heartbeatLimitExpiry ⟨rank, some a⟩) s = .next s) ∧
       (last.toNat + (s.xd 0).tr.hbLimit.toNat ≤ s.tick.toNat → s.isLodestar = false → a ≠ s.fab.lodestar →
         ∃ t, exec (.heartbeatLimitExpiry ⟨rank, some a⟩) s = .next t ∧ t.cores = s.cores ∧ t.ctxs = s.ctxs ∧
           t.trellis.lone = s.trellis.lone.filter (fun l => l.1 != a) ∧ (t.xd 0).tr.cause.getLsbD 8 = true ∧
           t.outbox = s.outbox ++ [.failure a q 0 1]))) ∧
  (∀ (s : State) (addr : BitVec 13) (epoch : Word) (rank : Half) (cause : Byte),
     let i : Instr := .failureReport addr epoch rank cause
     let known := s.memberCtx (fun m => m.epoch == epoch && m.members.any (fun e => e.addr == addr))
     (s.isLodestar = false ∨ s.fab.failedPeers.contains addr = true ∨ known = none → exec i s = .next s) ∧
     (∀ n m, s.isLodestar = true → s.fab.failedPeers.contains addr = false → known.isSome = true →
       s.memberCtx (fun q => q.members.any (fun e => e.addr == addr)) = some n → (s.ctx n).membership = some m →
       let aborts := (m.place addr).1 = 0 ∧ (s.srec n).started = true ∧ (s.srec n).open_ = true
       (¬aborts → s.fab.provisional = true → exec i s = .next { s with
         fab := { s.fab with failedPeers := s.fab.failedPeers ++ [addr] } }) ∧
       (¬aborts → s.fab.provisional = false → s.fab.proposal = none →
         ∃ t p, exec i s = .next t ∧ { t with fab := s.fab, outbox := s.outbox } = s ∧
         t.fab.failedPeers = s.fab.failedPeers ++ [addr] ∧ t.fab.proposal = some p ∧
         p.members = (m.without addr).members ∧ ((m.place addr).1 ≠ 0 → ∀ e ∈ p.members, e.addr ≠ addr) ∧
         ((∀ n q, (s.ctx n).membership = some q → q.epoch ≠ 0xFFFFFFFF) → m.epoch.toNat < p.epoch.toNat)) ∧
       (∀ p, aborts → (s.ctxSelf n).rank = 0 → (s.ctx n).policy = some p → (∀ w ∈ (s.srec n).votes, w.seenCommit = false) →
         ∃ t, exec i s = .next t ∧ t.fab.failedPeers = s.fab.failedPeers ++ [addr] ∧
           (t.srec n).commit = some false ∧ (t.srec n).phase = 6)))

/-! ## Bluern and time (11) -/

/-- 11 R329, R335, R356: a port of an enabled die, of a module with an address, trains (state 1); trained, and with
encryption asked for by neither end, it comes up with the peer's address and 64 credits in every channel, in state 3, or
4 where a direction is narrow. With encryption it first exchanges reports (state 2): this module's link report goes out,
and from the higher-addressed module a fresh encapsulation key. Once the exchange is over it comes up encrypted,
counters 0, under keys from the shared secret and the digests of both reports, the higher-addressed module's first, only
when the peer passes the policy; else it is down with attest_fail set. While the entropy source is out such a port
waits. The other ports stay. 11 R332, R333: the first lane of a direction that fails on an up port starts the spare's
check, both ends switching to four lanes at the named flit; with the spare used up the direction narrows to four lanes
for good, or with fewer than four healthy ones the port is down; the spare lane's own failure marks it. The receiving
side reports the lane and the flit. A good check puts the spare in use, both ends switching back at the named flit, a
bad one marks it failed and narrows. A lane that has failed already, one above 8, a port that is not up and a check that
is not running change nothing. -/
def Obligations.PortsAndLanes : Prop :=
  (∀ (port : BitVec 4) (info : LinkUpInfo) (s : State),
     let p := port.toNat
     let x := portDie p
     let q := s.port p
     let enc := (s.xd x).fab.encReq || info.peerEncReq
     let may := q.state.toNat ≤ 2 ∧ (s.xd x).fab.en = true ∧ (s.xd x).fab.portEn.getLsbD (p % 4) = true ∧ s.fab.valid = true
     let higher := info.peer.toNat < s.fab.addr.toNat
     let theirs := digest64 (info.report.take 1024)
     let others (t : State) : Prop := t.cores = s.cores ∧ t.sites = s.sites ∧ t.fab = s.fab ∧ ∀ j, j ≠ p → t.port j = s.port j
     let up (t : State) : Prop := others t ∧ t.xds = s.xds ∧
       (t.port p).state = (if q.tx.narrow || q.rx.narrow || q.pruned then 4 else 3) ∧ (t.port p).peer = info.peer ∧
       (t.port p).cascade = info.cascade ∧ (t.port p).enc = enc ∧ (t.port p).txFrames = 0 ∧ (t.port p).rxFrames = 0 ∧
       (t.port p).tx = q.tx ∧ (t.port p).rx = q.rx ∧ ∀ cls vc, cls < 3 → (t.port p).credit cls vc = 64
     (¬may ∨ (info.trained = true ∧ enc = true ∧ s.sec.entropyBad = true) → exec (.linkUp port info) s = .next s) ∧
     (may → info.trained = false → ∃ t, exec (.linkUp port info) s = .next t ∧ { t with ports := s.ports } = s ∧ others t ∧
       t.port p = { q with state := 1 }) ∧
     (may → info.trained = true → enc = false → s.fab.waiting = [] → ∃ t, exec (.linkUp port info) s = .next t ∧ up t) ∧
     (may → info.trained = true → enc = true → s.sec.entropyBad = false →
       (q.state ≠ 2 ∨ info.attested = false → ∃ t r, exec (.linkUp port info) s = .next t ∧ others t ∧ t.xds = s.xds ∧
         (t.port p).state = 2 ∧ (t.port p).peer = info.peer ∧ t.sec.nonce = info.sent ∧ bfld r 6 1 = 2 ∧ cut r 16 64 = padTo 64 info.nonce ∧
         (if higher then ∃ k, t.outbox = s.outbox ++ [.linkReport port r, .kem port k]
           else t.outbox = s.outbox ++ [.linkReport port r])) ∧
       (q.state = 2 → info.attested = true →
         s.sec.peerOk info.chainOk info.peerKey info.report info.sent = true → s.fab.waiting = [] →
         ∃ t, exec (.linkUp port info) s = .next t ∧ up t ∧
           (if higher then (t.port p).keys = shake256 (Config.kemDecaps q.dk info.kem ++ q.own ++ theirs) 72
             else ∃ i, (t.port p).keys = shake256 ((Config.kemEncaps info.kem i).1 ++ theirs ++ q.own) 72 ∧
               t.outbox = s.outbox ++ [.kem port (Config.kemEncaps info.kem i).2])) ∧
       (q.state = 2 → info.attested = true →
         s.sec.peerOk info.chainOk info.peerKey info.report info.sent = false →
         ∃ t, exec (.linkUp port info) s = .next t ∧ others t ∧ t.port p = { q with state := 0 } ∧
           (t.xd x).fab.cause.getLsbD 6 = true))) ∧
  (∀ (port : BitVec 4) (tx : Bool) (lane : BitVec 4) (seq : Half) (s : State),
     let p := port.toNat
     let q := s.port p
     let l0 := q.lanes tx
     let l := { l0 with failed := setBit l0.failed lane.toNat true }
     let now := q.seqOf tx
     let four (l : Lanes) : Lanes := { (if l.four then { l with switch := none } else l.plan seq now true) with
       narrow := true, grafting := false }
     let others (t : State) : Prop := t.cores = s.cores ∧ t.fab = s.fab ∧ (∀ j, j ≠ p → t.port j = s.port j) ∧
       (tx = true ∨ q.tx.switch = none → (t.port p).lanes (!tx) = q.lanes (!tx))
     let cause (t : State) (i : Nat) : Prop := (t.xd (portDie p)).fab.cause.getLsbD i = true
     (q.up = false ∨ 8 < lane.toNat ∨ bitAt l0.failed.toNat lane.toNat = true → exec (.laneFail port tx ⟨lane, seq⟩) s = .next s) ∧
     (q.up = true → lane.toNat ≤ 8 → bitAt l0.failed.toNat lane.toNat = false →
       let spent := l0.narrow || l0.spareUsed || l0.spareBad || l0.grafting
       ∃ t, exec (.laneFail port tx ⟨lane, seq⟩) s = .next t ∧ others t ∧
         (spent = false → lane.toNat < 8 → (t.port p).lanes tx = { l.plan seq now true with grafting := true } ∧
           (t.port p).state = q.state) ∧
         (spent = false → lane.toNat = 8 → (t.port p).lanes tx = { l with spareBad := true } ∧ (t.port p).state = q.state) ∧
         (spent = true → l0.narrow = false → 4 ≤ l.healthy → (t.port p).lanes tx = four l ∧ (t.port p).state = 4 ∧ cause t 3) ∧
         (spent = true → l0.narrow = true → 4 ≤ l.healthy → (t.port p).lanes tx = l ∧ (t.port p).state = q.state) ∧
         (spent = true → l.healthy < 4 → (t.port p).state = 5 ∧ cause t 4) ∧
         (tx = true → t.outbox = s.outbox) ∧
         (tx = false → cause t 1 ∧ ∃ more, t.outbox = s.outbox ++ .laneReport port lane seq :: more)) ∧
     (∀ good, q.up = false ∨ l0.grafting = false → exec (.spareLaneCheckDone port tx ⟨good, seq⟩) s = .next s) ∧
     (q.up = true → l0.grafting = true →
       (∃ t, exec (.spareLaneCheckDone port tx ⟨true, seq⟩) s = .next t ∧ others t ∧
         (t.port p).lanes tx = { l0.plan seq now false with grafting := false, spareUsed := true } ∧ cause t 2 ∧
         (tx = true → t.outbox = s.outbox) ∧ (tx = false → ∃ more, t.outbox = s.outbox ++ .laneSwitch port seq :: more)) ∧
       (let l1 : Lanes := { l0 with failed := setBit l0.failed 8 true, grafting := false, spareBad := true }
        ∃ t, exec (.spareLaneCheckDone port tx ⟨false, seq⟩) s = .next t ∧ others t ∧
         (l0.narrow = false → 4 ≤ l1.healthy → (t.port p).state = 4 ∧ (t.port p).lanes tx = four l1 ∧ cause t 3) ∧
         (l1.healthy < 4 → (t.port p).state = 5 ∧ cause t 4))))

/-- 11 R330, R331, R335, R341, R342, R357: a flit on a port that is not up, or of the reserved type, or an idle flit
with a bad CRC, is dropped. A data or control flit with a bad CRC or out of sequence is discarded, nothing of it used:
crc_err is set and the expected flit asked for, once. A good idle flit gives credit back, up to 64. A good data or
control flit in sequence takes the next number. On an unencrypted port a data flit adds its payload to its channel's
packet and a flit gives the credit back; a whole packet with no hops left, for this module and well formed, is
delivered. On an encrypted port a flit joins its frame, and the eighth without an end of frame takes the port down with
link_auth set. 11 R331, R333: a resend request replays the flits from the one it names, an acknowledgement timeout all
of them, and counts them; after eight resends without an acknowledgement the port goes down with port_down set. A
request for a flit that is not kept, and a timeout that has not come, change nothing. -/
def Obligations.FlitsCross : Prop :=
  (∀ (port : BitVec 4) (f : List Byte) (s : State),
     let p := port.toNat
     let q := s.port p
     let type := bfld f 0 1 % 4
     let c := bfld f 6 1
     let good := q.up = true ∧ f.length = 512 ∧ type < 3 ∧ flitCrcOk f = true ∧ (type = 2 ∨ bfld f 2 2 = q.rxSeq.toNat)
     let others (t : State) : Prop := ∀ j, j ≠ p → t.port j = s.port j
     let rest (t : State) : Prop := { t.port p with
         rxPacket := q.rxPacket, rxFrame := q.rxFrame, rx := q.rx, replay := q.replay, resent := q.resent, lastAck := q.lastAck,
         credits := q.credits } = { q with rxSeq := q.rxSeq + 1, discarding := false }
     ((q.up = false ∨ f.length ≠ 512 ∨ type = 3 ∨ (type = 2 ∧ flitCrcOk f = false)) → exec (.flitReceive port f) s = .next s) ∧
     (q.up = true → f.length = 512 → type < 2 → (flitCrcOk f = false ∨ bfld f 2 2 ≠ q.rxSeq.toNat) →
       ∃ t, exec (.flitReceive port f) s = .next t ∧
         { t with ports := s.ports, xds := s.xds, gis := s.gis, outbox := s.outbox, freeCtr := s.freeCtr } = s ∧ others t ∧
         (t.xd (portDie p)).fab.cause.getLsbD 0 = true ∧ (t.port p).discarding = true ∧ (t.port p).rxSeq = q.rxSeq ∧
         (t.port p).rxPacket = q.rxPacket ∧ (q.txQueue = [] → (t.port p).credits = q.credits) ∧
         (q.discarding = true → t.ports = s.ports ∧ t.outbox = s.outbox) ∧
         (q.discarding = false → ∃ l, t.outbox = s.outbox ++ .resendReq port q.rxSeq :: l)) ∧
     (good → q.txQueue = [] → s.fab.waiting = [] →
       (type = 2 → ∃ t, exec (.flitReceive port f) s = .next t ∧ { t with ports := s.ports } = s ∧ others t ∧
         (t.port p).rxSeq = q.rxSeq ∧ (t.port p).rxPacket = q.rxPacket ∧
         (∀ cls vc, (t.port p).credit cls vc = if bitAt c 3 ∧ cls.toNat = c % 4 ∧ vc = bitAt c 2
           then min 64 (q.credit cls vc + bfld f 7 1) else q.credit cls vc)) ∧
       (type = 1 → q.enc = false → ∃ t, exec (.flitReceive port f) s = .next t ∧ { t with ports := s.ports } = s ∧ others t ∧
         rest t ∧ (t.port p).rxPacket = q.rxPacket) ∧
       (type = 0 → q.enc = false →
         let k := cvKey (BitVec.ofNat 2 (fld (bfld f 0 1) 2 2)) (bitAt (bfld f 0 1) 4)
         let buf := sget (fun _ => []) q.rxPacket k ++ (f.drop 16).take (16 * fld (bfld f 1 1) 0 5)
         let n := 32 + 16 * (bfld buf 14 1 + 1)
         let left := if buf.length < 32 ∨ buf.length < n then buf else buf.drop n
         (buf.length < 32 ∨ buf.length < n ∨ (n ≤ buf.length ∧ buf.length < n + 32 ∧
             routeNext (bfld buf 4 8 % 2 ^ 60) = none ∧ bfld buf 0 2 = s.fab.addr.toNat ∧ packetOk (buf.take n) = true)) →
         ∃ t l, exec (.flitReceive port f) s = .next t ∧ { t with ports := s.ports, outbox := s.outbox, fab := s.fab } = s ∧
           others t ∧ rest t ∧
           (∀ j, sget (fun _ => []) (t.port p).rxPacket j = if j = k then left else sget (fun _ => []) q.rxPacket j) ∧
           t.outbox = s.outbox ++ .flit port (flitOf (flitHead 2 0 false false q.keyPhase 0 0 q.rxSeq
             (fld (bfld f 0 1) 2 2 + 4 * bit (bitAt (bfld f 0 1) 4) + 8) 1) []) :: l ∧
           t.fab = (if buf.length < 32 ∨ buf.length < n then s.fab else { s.fab with
             inbox := s.fab.inbox ++ [(p, BitVec.ofNat 2 (fld (bfld f 0 1) 2 2), buf.take n)] })) ∧
       (type < 2 → q.enc = true → q.rxNext = none → bitAt (bfld f 0 1) 5 = false →
         (q.rxFrame.length + 1 < 8 → ∃ t, exec (.flitReceive port f) s = .next t ∧ { t with ports := s.ports } = s ∧ others t ∧
           rest t ∧ (t.port p).rxFrame = q.rxFrame ++ [f] ∧ (t.port p).rxPacket = q.rxPacket) ∧
         (8 ≤ q.rxFrame.length + 1 → ∃ t, exec (.flitReceive port f) s = .next t ∧ (t.port p).state = 5 ∧ others t ∧
           (t.xd (portDie p)).fab.cause.getLsbD 5 = true ∧ (t.xd (portDie p)).fab.cause.getLsbD 4 = true)))) ∧
  (∀ (port : BitVec 4) (seq : Half) (s : State) (i : Instr),
     let p := port.toNat
     let q := s.port p
     (q.up = false ∨ q.replay.any (fun r => r.1 == seq) = false → exec (.resendRequest port seq) s = .next s) ∧
     (q.up = false ∨ q.replay = [] ∨ s.tick.toNat < q.lastAck.toNat + (s.xd (portDie p)).fab.ackTimeout.toNat →
       exec (.ackTimeout port) s = .next s) ∧
     (q.up = true → q.replay ≠ [] →
     ∀ from_ : Nat, (i = .resendRequest port seq ∧ q.replay.any (fun r => r.1 == seq) = true ∧
         from_ = q.replay.findIdx (fun r => r.1 == seq) ∨
       i = .ackTimeout port ∧ q.lastAck.toNat + (s.xd (portDie p)).fab.ackTimeout.toNat ≤ s.tick.toNat ∧ from_ = 0) →
     let fs := q.replay.drop from_
     (q.resent < 8 → ∃ t, exec i s = .next t ∧ { t with ports := s.ports, xds := s.xds, outbox := s.outbox } = s ∧
       t.port p = { q with resent := q.resent + 1, lastAck := s.tick } ∧ (∀ j, j ≠ p → t.port j = s.port j) ∧
       t.outbox = s.outbox ++ fs.map (fun r => .flit port r.2) ∧
       (t.xd (portDie p)).fab.resendCnt = (s.xd (portDie p)).fab.resendCnt + BitVec.ofNat 64 fs.length) ∧
     (8 ≤ q.resent → ∃ t, exec i s = .next t ∧ (t.port p).state = 5 ∧ t.outbox = s.outbox ∧
       (t.xd (portDie p)).fab.cause.getLsbD 4 = true ∧ ∀ j, j ≠ p → t.port j = s.port j)))

/-- 11 R335, R337, R338, R340, R341: a class without credit, or a packet that waits, for the limit sets stall, else
nothing changes; a malformed send request sets bad_send and one to a destination without a route sets route_fault, with
nothing sent; any other is an outstanding send. The packet of an inline request carries its header and 64 bytes: it
waits while no port of its group is up, and goes out at once on a free unencrypted port with credit; the acknowledgement
of a send counts it. 11 R343, R344, 10 R300: a write packet that its window refuses changes no memory: win_fault is set
and the reason goes back to its sender, whose own REFUSAL row sets send_refused and drops the send. A write packet that
the window takes lands in GDDR7 at the window's base plus its offset, through window 15 in the orrery's own memory; the
last packet of a write with notice, in a window that notifies, counts it and writes the 16-byte notice into the named
core's DMEM, and any other only lands. -/
def Obligations.SendsAndWindows : Prop :=
  (∀ (s : State) (port : BitVec 4) (cls : BitVec 2) (vc : Bool) (req : Requester) (xd : BitVec 2) (b : List Byte),
     let p := port.toNat
     let q := s.port p
     let x := xd.toNat
     let lim := (s.xd (portDie p)).fab.stallLimit.toNat
     let stalls := (q.up = true ∧ q.credit cls vc = 0 ∧
         (sget (fun _ => 0) q.zeroSince (cvKey cls vc)).toNat + lim ≤ s.tick.toNat) ∨
       ∃ w ∈ s.fab.waiting, w.since.toNat + lim ≤ s.tick.toNat
     (stalls → ∃ t, exec (.fabStall port cls vc) s = .next t ∧ { t with xds := s.xds, gis := s.gis } = s ∧
         (t.xd (portDie p)).fab.cause.getLsbD 10 = true) ∧
     (¬stalls → exec (.fabStall port cls vc) s = .next s) ∧
     (s.sendReq req b = none → ∃ t, exec (.fabSend req xd b) s = .next t ∧ { t with xds := s.xds, gis := s.gis } = s ∧
       (t.xd x).fab.cause.getLsbD 9 = true ∧ ∀ y, (t.xd y).fab.sends = (s.xd y).fab.sends) ∧
     (∀ r, s.sendReq req b = some r →
       let e := sget (fun _ => (0 : DWord)) (s.xd x).fab.routes r.dst
       let sends := (s.xd x).fab.sends ++ [{ dst := BitVec.ofNat 13 r.dst, win := BitVec.ofNat 4 r.win, bytes := r.len }]
       (e.getLsbD 63 = false → ∃ t, exec (.fabSend req xd b) s = .next t ∧ { t with xds := s.xds, gis := s.gis } = s ∧
         (t.xd x).fab.cause.getLsbD 11 = true ∧ ∀ y, (t.xd y).fab.sends = (s.xd y).fab.sends) ∧
       (e.getLsbD 63 = true → ∃ t, exec (.fabSend req xd b) s = .next t ∧ (t.xd x).fab.sends = sends) ∧
       (∀ g rest, e.getLsbD 63 = true → r.inline = true → routeNext (routeCut e.toNat) = some (g, rest) →
         (s.groupPort x g s.fab.addr.toNat r.dst = none → ∃ t w, exec (.fabSend req xd b) s = .next t ∧
           { t with xds := s.xds, fab := s.fab } = s ∧ { t.fab with waiting := s.fab.waiting } = s.fab ∧
           t.fab.waiting = s.fab.waiting ++ [w] ∧ w.xd = x ∧ w.cls.toNat = r.cls ∧ w.since = s.tick ∧
           bfld w.bytes 0 2 = r.dst ∧ bfld w.bytes 2 2 = s.fab.addr.toNat ∧ bfld w.bytes 4 8 = routeCut e.toNat ∧
           bfld w.bytes 12 1 = bit r.notify ∧ bfld w.bytes 13 1 = r.win ∧ bfld w.bytes 14 1 = 3 ∧ bfld w.bytes 16 6 = r.off ∧
           w.bytes.drop 32 = cut b 64 64 ∧ (t.xd x).fab.sends = sends) ∧
         (∀ o, s.groupPort x g s.fab.addr.toNat r.dst = some o → s.fab.waiting = [] →
           s.flowBusy (8192 * s.fab.addr.toNat + r.dst) o = false → (s.port o).enc = false → (s.port o).txQueue = [] →
           (s.port o).replay.length < 512 →
           0 < (s.port o).credit (BitVec.ofNat 2 r.cls) (bitAt (s.xd (portDie o)).fab.dateline.toNat (o % 4)) →
           ∃ t f, exec (.fabSend req xd b) s = .next t ∧ t.outbox = s.outbox ++ [.flit (BitVec.ofNat 4 o) f] ∧
             f.length = 512 ∧ (t.port o).txSeq = (s.port o).txSeq + 1 ∧ (t.xd x).fab.sends = sends))) ∧
     ((s.xd x).fab.sends = [] → exec (.sendComplete xd) s = .next s) ∧
     (∀ a rest, (s.xd x).fab.sends = a :: rest → ∃ t, exec (.sendComplete xd) s = .next t ∧ { t with xds := s.xds } = s ∧
       t.xd x = { s.xd x with fab := { (s.xd x).fab with sends := rest, sentCnt := (s.xd x).fab.sentCnt + 1 } } ∧
       ∀ y, y ≠ x → t.xd y = s.xd y)) ∧
  (∀ (s : State) (port : BitVec 4) (p : WritePacket),
     let w := s.rxwin p.win.toNat
     let x := portDie port.toNat
     let refused := w.refuses p (s.port port.toNat).enc
     let runs := [(w.base.toNat + p.off.toNat, p.data)]
     let lands (i : Instr) : Prop := ∃ t, exec i s = .next t ∧ t.cores = s.cores ∧ t.sites = s.sites ∧ t.ctxs = s.ctxs ∧
       t.fab = s.fab ∧ OnlyRuns runs s t ∧ Holds t runs
     (∀ reason i, refused = some reason → (i = Instr.writePacket port p ∨ i = .writeWithNotice port p) →
       ∃ t, exec i s = .next t ∧ { t with xds := s.xds, gis := s.gis, outbox := s.outbox } = s ∧
         (t.xd x).fab.cause.getLsbD 7 = true ∧
         t.outbox = s.outbox ++ [.refuse p.src p.win (BitVec.ofNat 8 reason) p.off.toNat s.tick]) ∧
     (∀ src win reason off tick, ∃ t, exec (.refusal port src win reason off tick) s = .next t ∧
       { t with xds := s.xds, gis := s.gis } = s ∧ (t.xd x).fab.cause.getLsbD 8 = true ∧
       (t.xd x).fab.sends = dropSend src win.toNat (s.xd x).fab.sends) ∧
     (refused = none → w.base.toNat + p.off.toNat + p.data.length ≤ (if p.win = 15 then gddrBytes else fwBase) →
       (∀ i, s.sealedNow i = false) →
       lands (.writePacket port p) ∧
       (p.last = false ∨ w.notifyEn = false → lands (.writeWithNotice port p)) ∧
       (∀ k, p.last = true → w.notifyEn = true → s.key w.nsite w.ncore = some k → w.ndmem.toNat + 16 ≤ 65536 →
         ∃ t, exec (.writeWithNotice port p) s = .next t ∧ OnlyRuns runs s t ∧ Holds t runs ∧ t.sites = s.sites ∧
           t.ctxs = s.ctxs ∧ (t.rxwin p.win.toNat) = { w with notices := w.notices + 1 } ∧
           (∀ j, j ≠ k → t.core j = s.core j) ∧ (t.core k).sp = (s.core k).sp ∧ (t.core k).cc.regs = (s.core k).cc.regs ∧
           ∀ a, (t.core k).cc.dmem.get a = if w.ndmem.toNat ≤ a ∧ a < w.ndmem.toNat + 16
             then (leBytes 4 (w.notices + 1).toNat ++ leBytes 2 p.src.toNat ++ [0, 0] ++ leBytes 8 s.tick.toNat).getD
               (a - w.ndmem.toNat) 0 else (s.core k).cc.dmem.get a)))

/-- 11 R347–R349: each 9,400 ticks a module with an address says on every up port who it takes for the lodestar; it
adopts the lowest healthy address it hears in its generation, and a later generation begins from its own, provisional
where its count is locked; words of an earlier generation or of another cascade, a failed address, and a module without
an address change nothing. 10 R300, R326, 11 R349, R350: a proposal of the lodestar whose list in window 15 has the
proposed digest and epoch, and breaks no rule, is kept and accepted, and any other refused with its reason, a list that
breaks a rule setting bad_cfg; of another sender it changes nothing. At the lodestar an acceptance is counted, the last
one, at a step boundary of the list's context, installing the list and telling the members its first step; a refusal
makes it propose the list without the lost members. A commit of the kept epoch by the lodestar installs its list for the
list's context at its step boundary, with TR_EPOCH on every die where that context is bound, and ends the provisional
state; before that boundary it waits; other epochs change nothing. 11 R356, R357, 13 R408: a held notice adds its sender
to the held modules and a release takes it off, the lodestar passing a change on. A key replacement of an encrypted up
port exchanges reports afresh, the keys staying; once the peer's report passes, new keys, from the shared secret and
both digests, are in use with the sending counter at 0 and the phase toggled, the receiving side waiting for the peer's
toggle; a report that does not pass sets attest_fail and changes no key. -/
def Obligations.LodestarAndEpochs : Prop :=
  (∀ (s : State) (port : BitVec 4) (lowest : BitVec 13) (gen : Word),
     (s.fab.valid = true → s.fab.lastElect.toNat + 9400 ≤ s.tick.toNat → exec .electionSend s = .next { s with
       fab := { s.fab with lastElect := s.tick },
       outbox := s.outbox ++ ((List.range 16).filter (fun p => (s.port p).up)).map (fun p =>
         .election (BitVec.ofNat 4 p) s.fab.lodestar s.fab.generation) }) ∧
     (s.fab.valid = false ∨ s.tick.toNat < s.fab.lastElect.toNat + 9400 → exec .electionSend s = .next s) ∧
     ((s.fab.valid = false ∨ s.foreign port = true ∨ gen.toNat < s.fab.generation.toNat ∨
         s.fab.failedPeers.contains lowest = true) → exec (.election port lowest gen) s = .next s) ∧
     (s.fab.valid = true → s.foreign port = false → s.fab.failedPeers.contains lowest = false →
       s.fab.generation.toNat ≤ gen.toNat →
       let later := s.fab.generation.toNat < gen.toNat
       ∃ t, exec (.election port lowest gen) s = .next t ∧ { t with fab := s.fab } = s ∧
         { t.fab with generation := s.fab.generation, lodestar := s.fab.lodestar, provisional := s.fab.provisional,
                      electTick := s.fab.electTick } = s.fab ∧
         t.fab.generation = gen ∧ t.fab.lodestar.toNat = min lowest.toNat
           (if later then s.fab.addr.toNat else s.fab.lodestar.toNat) ∧
         (t.fab.provisional = true ↔ s.fab.provisional = true ∨ (later ∧ s.fab.locked = true)) ∧
         t.fab.electTick = if later then s.tick else s.fab.electTick)) ∧
  (∀ (s : State) (epoch first : Word) (digest : List Byte) (src : BitVec 13) (reason : Byte),
     let a := (s.rxwin 15).base.toNat
     let u := s.oseen a (s.listLen a)
     let prop : Instr := .epochProposal ⟨src, epoch⟩ digest
     let good := src = s.fab.lodestar ∧ shake256 (u.oread a (u.listLen a)) 32 = digest
     let answers (v : State) (ok : Bool) (why : Byte) : State := { v with outbox := v.outbox ++ [.answer epoch ok why] }
     (u.cores = s.cores ∧ u.ctxs = s.ctxs ∧ u.trellis = s.trellis ∧ u.fab = s.fab ∧ u.outbox = s.outbox) ∧
     (src ≠ s.fab.lodestar → exec prop s = .next s) ∧
     (src = s.fab.lodestar → ¬good → exec prop s = .next (answers u false 1)) ∧
     (good → u.listAt a u.epochInForce = none → ∃ t, exec prop s = .next t ∧ t.outbox = s.outbox ++ [.answer epoch false 2] ∧
       t.fab = s.fab ∧ t.ctxs = s.ctxs ∧ ∃ x, x < 4 ∧ (t.xd x).tr.cause.getLsbD 0 = true) ∧
     (∀ m, good → u.listAt a u.epochInForce = some m → m.epoch ≠ epoch → exec prop s = .next (answers u false 2)) ∧
     (∀ m, good → u.listAt a u.epochInForce = some m → m.epoch = epoch → exec prop s = .next (answers { u with
       fab := { u.fab with proposal := some m, answers := [], committed := false } } true 0)) ∧
     (∀ ok, s.fab.proposal = none ∨ s.isLodestar = false ∨ (∃ m, s.fab.proposal = some m ∧ m.epoch ≠ epoch) →
       exec (.proposalAnswer src epoch ok reason) s = .next s) ∧
     (∀ m, s.fab.proposal = some m → s.isLodestar = true → m.epoch = epoch →
       let now := s.fab.answers.filter (fun x => x.1 != src) ++ [(src, true)]
       ((∃ o ∈ s.others m, (o, true) ∉ now) → exec (.proposalAnswer src epoch true reason) s = .next { s with
         fab := { s.fab with answers := now } }) ∧
       (∀ n, (∀ o ∈ s.others m, (o, true) ∈ now) → s.epochCtx m = some n → (s.ctx n).atEnd = true →
         ∃ t, exec (.proposalAnswer src epoch true reason) s = .next t ∧ OnlyCtx n s t ∧
           t.ctx n = { s.ctx n with membership := some m } ∧ t.fab.proposal = none ∧ t.fab.provisional = false ∧
           t.outbox = s.outbox ++ [.epochCommit m.epoch (if (s.srec n).started = true ∧ (s.srec n).phase = 5
             then (s.srec n).step + 1 else (s.srec n).step)]) ∧
       (∃ t p, exec (.proposalAnswer src epoch false reason) s = .next t ∧ { t with fab := s.fab, outbox := s.outbox } = s ∧
         t.fab.proposal = some p ∧ p.members = (s.fab.failedPeers.foldl Membership.without m).members ∧ t.fab.answers = [])) ∧
     (s.fab.proposal = none ∨ src ≠ s.fab.lodestar → exec (.epochCommit ⟨src, epoch⟩ first) s = .next s) ∧
     (∀ m n, s.fab.proposal = some m → src = s.fab.lodestar → s.epochCtx m = some n →
       (m.epoch ≠ epoch → exec (.epochCommit ⟨src, epoch⟩ first) s = .next s) ∧
       (m.epoch = epoch → s.epochDue m = false → exec (.epochCommit ⟨src, epoch⟩ first) s = .next { s with
         fab := { s.fab with committed := true, firstStep := first } }) ∧
       (m.epoch = epoch → (s.ctx n).atEnd = true → ∃ t, exec (.epochCommit ⟨src, epoch⟩ first) s = .next t ∧
         t.cores = s.cores ∧ t.sites = s.sites ∧ OnlyCtx n s t ∧ t.ctx n = { s.ctx n with membership := some m } ∧
         t.fab = { s.fab with proposal := none, answers := [], firstStep := first, provisional := false, committed := false } ∧
         (s.bound n = true → ∀ x, x < 4 → epochOf (t.xd x).tr.epoch = m.epoch)))) ∧
  (∀ (s : State) (src : BitVec 13) (held : Bool) (port : BitVec 4) (info : LinkUpInfo),
     let p := port.toNat
     let q := s.port p
     let i : Instr := .keyReplacement port info
     let may := q.up = true ∧ q.enc = true ∧ s.sec.entropyBad = false
     let higher := q.peer.toNat < s.fab.addr.toNat
     let theirs := digest64 (info.report.take 1024)
     let ok := s.sec.peerOk info.chainOk info.peerKey info.report info.sent
     (∃ t, exec (.heldNotice src held) s = .next t ∧ { t with fab := s.fab, outbox := s.outbox } = s ∧
       { t.fab with held := s.fab.held } = s.fab ∧ (∀ a, a ∈ t.fab.held ↔ (a = src ∧ held = true) ∨ (a ≠ src ∧ a ∈ s.fab.held)) ∧
       t.outbox = (if s.isLodestar = true ∧ s.fab.held.contains src ≠ held then s.outbox ++ [.held src held] else s.outbox)) ∧
     (¬may → exec i s = .next s) ∧
     (may → info.attested = false → ∃ t r, exec i s = .next t ∧ t.xds = s.xds ∧ t.fab = s.fab ∧ t.cores = s.cores ∧
       (∀ j, j ≠ p → t.port j = s.port j) ∧ { t.port p with own := q.own, dk := q.dk } = q ∧ t.sec.nonce = info.sent ∧
       bfld r 6 1 = 2 ∧ cut r 16 64 = padTo 64 info.nonce ∧
       (if higher then ∃ k, t.outbox = s.outbox ++ [.linkReport port r, .kem port k]
         else t.outbox = s.outbox ++ [.linkReport port r])) ∧
     (may → info.attested = true → ok = false → ∃ t, exec i s = .next t ∧ t.ports = s.ports ∧ t.fab = s.fab ∧
       (t.xd (portDie p)).fab.cause.getLsbD 6 = true) ∧
     (may → info.attested = true → ok = true → ∃ t k, exec i s = .next t ∧ t.xds = s.xds ∧ t.fab = s.fab ∧
       (∀ j, j ≠ p → t.port j = s.port j) ∧
       t.port p = { q with keys := k, txFrames := 0, keyPhase := !q.keyPhase, rxNext := some k } ∧
       (if higher then k = shake256 (Config.kemDecaps q.dk info.kem ++ q.own ++ theirs) 72
         else ∃ j, k = shake256 ((Config.kemEncaps info.kem j).1 ++ theirs ++ q.own) 72 ∧
           t.outbox = s.outbox ++ [.kem port (Config.kemEncaps info.kem j).2])))

/-- 11 R347, R351, R352: the lodestar sends the count each 4,700 ticks; the first time message sets the count, with the
link's delay, and locks it; later ones of its branch move it by one tick at most, no oftener than each 1,024 ticks, and
not while SYNC_IN gives the alignment; each is passed on with one hop more. The lodestar, a module without an address,
and messages of another branch, cascade or an earlier generation change nothing. Delay requests are answered with both
stamps, and the answer gives the link's delay. 11 R349, R351–R353, R360: 47,000 ticks without a time message put the
module into holdover under a new generation with time_lost set; SYNC_IN, where it is the source, ends holdover and
steers the count; two missed pulses fall back to time messages with sync_lost set; SYNC_OUT pulses at multiples of
65,536; the lodestar takes PTP's offset and rate. In every other case each of them changes nothing. -/
def Obligations.TimeIsKept : Prop :=
  (∀ (s : State) (port : BitVec 4) (m : TimeMsg) (t1 t2 t3 : DWord),
     let target := m.count + (s.port port.toNat).delay
     let heard := s.fab.valid = true ∧ s.isLodestar = false ∧ s.foreign port = false ∧
       s.fab.generation.toNat ≤ m.generation.toNat ∧ s.fab.onBranch port m = true
     (s.isLodestar = true → s.fab.lastSend.toNat + 4700 ≤ s.tick.toNat → exec .timeMessageSend s = .next { s with
       fab := { s.fab with lastSend := s.tick },
       outbox := s.outbox ++ [.time {
         lodestar := s.fab.addr, hops := 0, generation := s.fab.generation, count := s.tick, ptpOffset := s.fab.ptpOffset,
         ptpRate := s.fab.ptpRate }] }) ∧
     (s.isLodestar = false ∨ s.tick.toNat < s.fab.lastSend.toNat + 4700 → exec .timeMessageSend s = .next s) ∧
     (heard → s.fab.locked = false → exec (.timeMessage port m) s = .next { s with
         tick := target,
         fab := { s.fab with
           locked := true, lastTime := target, holdover := false, timePort := port, timeHops := m.hops,
           ptpOffset := m.ptpOffset, ptpRate := m.ptpRate },
         outbox := s.outbox ++ [.time { m with hops := m.hops + 1, count := target }] }) ∧
     (heard → s.fab.locked = true → ∃ t, exec (.timeMessage port m) s = .next t ∧
         { t with fab := s.fab, outbox := s.outbox } = s ∧ t.fab.lastTime = s.tick ∧ t.fab.holdover = false ∧
         t.fab.timePort = port ∧ t.fab.timeHops = m.hops ∧ t.fab.ptpOffset = m.ptpOffset ∧ t.fab.ptpRate = m.ptpRate ∧
         t.outbox = s.outbox ++ [.time { m with hops := m.hops + 1, count := s.tick }] ∧
         t.fab.adjust = (if s.fab.bySync = true ∨ target = s.tick ∨ s.tick.toNat < s.fab.lastAdjust.toNat + 1024
           then s.fab.adjust else if target.toNat < s.tick.toNat then -1 else 1) ∧
         (t.fab.adjust ≠ s.fab.adjust → t.fab.lastAdjust = s.tick)) ∧
     (¬heard → exec (.timeMessage port m) s = .next s) ∧
     ((s.port port.toNat).up = false → exec (.delayRequest port t1) s = .next s ∧
       exec (.delayResponse port t1 t2 t3) s = .next s) ∧
     ((s.port port.toNat).up = true → exec (.delayRequest port t1) s =
         .next { s with outbox := s.outbox ++ [.delayResp port t1 s.tick s.tick] } ∧
       ∃ t, exec (.delayResponse port t1 t2 t3) s = .next t ∧ { t with ports := s.ports } = s ∧
         t.port port.toNat = { s.port port.toNat with
           delayAsked := false, delay := BitVec.ofNat 64 (((s.tick - t1) - (t3 - t2)).toNat / 2) } ∧
         ∀ j, j ≠ port.toNat → t.port j = s.port j)) ∧
  (∀ (s : State) (offset : DWord) (rate : Word),
     (s.fab.valid = true → s.isLodestar = false → s.fab.holdover = false → s.fab.locked = true →
       s.fab.lastTime.toNat + 47000 ≤ s.tick.toNat → ∃ t, exec .timeLost s = .next t ∧
         { t with fab := s.fab, xds := s.xds, gis := s.gis } = s ∧ t.fab.holdover = true ∧
         t.fab.generation = s.fab.generation + 1 ∧ t.fab.lodestar = s.fab.addr ∧ t.fab.provisional = true ∧
         t.fab.electTick = s.tick ∧ (t.xd 0).fab.cause.getLsbD 13 = true) ∧
     (s.fab.valid = false ∨ s.isLodestar = true ∨ s.fab.holdover = true ∨ s.fab.locked = false ∨
       s.tick.toNat < s.fab.lastTime.toNat + 47000 → exec .timeLost s = .next s) ∧
     (s.fab.src = false → exec .syncIn s = .next s) ∧
     (s.fab.src = true → ∃ t, exec .syncIn s = .next t ∧ { t with fab := s.fab } = s ∧ t.fab.syncMissed = 0 ∧
       t.fab.lastSync = s.tick ∧ t.fab.holdover = false ∧
       (s.fab.locked = false → t.fab.adjust = s.fab.adjust) ∧
       (s.fab.locked = true → s.fab.lastAdjust.toNat + 1024 ≤ s.tick.toNat →
         ((t.fab.adjust = -1 ↔ syncTarget s.tick.toNat s.fab.syncDly.toNat < s.tick.toNat ∨
           syncTarget s.tick.toNat s.fab.syncDly.toNat = s.tick.toNat ∧ s.fab.adjust = -1)))) ∧
     (s.fab.src = true → s.fab.syncMissed < 2 → s.fab.lastSync.toNat + 131072 ≤ s.tick.toNat → ∃ t, exec .syncLost s = .next t ∧
       { t with fab := s.fab, xds := s.xds, gis := s.gis } = s ∧ t.fab = { s.fab with syncMissed := 2 } ∧
       t.fab.bySync = false ∧ (t.xd 0).fab.cause.getLsbD 12 = true) ∧
     (s.fab.bySync = false ∨ s.tick.toNat < s.fab.lastSync.toNat + 131072 → exec .syncLost s = .next s) ∧
     (s.fab.syncOutEn = true → s.tick.toNat % 65536 = 0 → exec .syncOut s = .next { s with
       pins := { s.pins with syncOut := true }, outbox := s.outbox ++ [.syncPulse s.tick] }) ∧
     (s.fab.syncOutEn = false ∨ s.tick.toNat % 65536 ≠ 0 → exec .syncOut s = .next s) ∧
     (s.fab.ptpEn = true → s.isLodestar = true → exec (.ptpMessage offset rate) s = .next { s with
       fab := { s.fab with ptpOffset := offset, ptpRate := rate } }) ∧
     ((s.fab.ptpEn = false ∨ s.isLodestar = false) → exec (.ptpMessage offset rate) s = .next s))

/-! ## Beds, Seedbank, GDDR7 (12) -/

/-- 12 R363, R368, R369: the patrol scrub leaves a clean word, counts a corrected one for BED_CE_CNT and for its row in
this pass, and rebuilds an uncorrectable one that parity covers: the 64-bit word becomes the XOR of the same word of the
other members of its group and of the parity, free of poison, bed_sb_fix counts it and its row falls due. A word out of
reach of parity, or one whose sources are poisoned, is poisoned with bed_ue; a parity word that cannot be read is
poisoned too. SEEDBANK_REPAIR treats a word alike. With scrubbing off, on an absent site or beyond the bed nothing
happens. 12 R363: a row with as many corrections as the threshold moves to a spare row of its bank while one is left,
its contents unchanged; each repair is recorded in boot flash, and where the flash does not take the record the contexts
stop at their boundaries (13 R388). With no spare row left it stays in use with no_spare set. A row with fewer
corrections stays. 12 R375, R376, R383, 16 R478: a CRC error of a device is counted and retried, with its device and
block in MC_ERR_INFO; the eighth in a row, or the 64th in 940,000 ticks, fails the device, as does a retraining whose
eye stays closed; a second failed device of a die is a double fault. Retraining is due 94,000,000 ticks after the last
or on a temperature change; it runs when the device is idle, or 940,000 ticks later in a forced slot, and not at all for
a failed device or with retrain_en = 0. In P4 an idle die self-refreshes. -/
def Obligations.BedsAndDevicesAreMended : Prop :=
  (∀ (site : SiteNo) (off : BitVec 30) (ok : Bool) (e : Ecc) (s : State),
     let p := site.toNat
     let o := off.toNat
     let b := o / 8 * 8
     let pass := s.tick.toNat / 2 ^ 33
     let others (t : State) : Prop := t.cores = s.cores ∧ ∀ j, j ≠ p → t.site j = s.site j
     let poisoned (t : State) : Prop := (t.site p).bed = (s.site p).bed ∧
       sget (fun _ => false) (t.site p).bedPoison (o / 8) = true ∧ (t.site p).bedCause.getLsbD 1 = true
     (exec (.patrolScrub site off .clean) s = .next s) ∧
     ((s.present p = false ∨ bedSize ≤ o) →
       exec (.patrolScrub site off e) s = .next s ∧ exec (.seedbankRepair site ⟨off, ok⟩) s = .next s) ∧
     ((s.site p).scrubEn = false → exec (.patrolScrub site off e) s = .next s) ∧
     (s.present p = true → o < bedSize → (s.site p).scrubEn = true →
       ∃ t, exec (.patrolScrub site off .corrected) s = .next t ∧ others t ∧ (t.site p).bed = (s.site p).bed ∧
         (t.site p).bedCe = (s.site p).bedCe + 1 ∧ (t.site p).bedCause.getLsbD 0 = true ∧
         sget (fun _ => 0) (t.site p).rowCe (rowOf o) = sget (fun _ => 0) ((s.site p).passCounts pass) (rowOf o) + 1 ∧
         ((s.site p).repairThr.toNat ≤ sget (fun _ => 0) (t.site p).rowCe (rowOf o) → (t.site p).repairBusy = true)) ∧
     (s.present p = true → o < bedSize → ∀ i, (i = Instr.seedbankRepair site ⟨off, ok⟩ ∨
         i = .patrolScrub site off .uncorrectable ∧ (s.site p).scrubEn = true) →
       (s.covered p o = false → ∃ t, exec i s = .next t ∧ others t ∧ poisoned t) ∧
       (∀ l, s.covered p o = true → s.logicalOf p = some l → (∀ q, (s.site q).writes = []) →
         (s.rebuildBad l b = true → (ok = true ∨ i = .patrolScrub site off .uncorrectable) →
           ∃ t, exec i s = .next t ∧ others t ∧ poisoned t) ∧
         (∀ h, ok = false → i = .seedbankRepair site ⟨off, ok⟩ → s.physOf (s.holder (s.groupOf l) (o / chunkSize)) = some h →
           ∃ t, exec i s = .next t ∧ t.cores = s.cores ∧ (∀ j, j ≠ p → j ≠ h → t.site j = s.site j) ∧ poisoned t ∧
             sget (fun _ => false) (t.site h).bedPoison (parityOff o / 8) = true) ∧
         (s.rebuildBad l b = false → (ok = true ∨ i = .patrolScrub site off .uncorrectable) →
           ∃ t, exec i s = .next t ∧ others t ∧ (t.site p).bedFix = (s.site p).bedFix + 1 ∧
             (t.site p).bedCause.getLsbD 2 = true ∧ (t.site p).rowIsDue (rowOf o) = true ∧ (t.site p).repairBusy = true ∧
             (∀ a, (t.site p).bed.get a = if b ≤ a ∧ a < b + 8 then xorAt (s.rebuildSrc l b) (a - b)
               else (s.site p).bed.get a) ∧
             ∀ w, sget (fun _ => false) (t.site p).bedPoison w =
               (sget (fun _ => false) (s.site p).bedPoison w && decide (w ≠ o / 8)))))) ∧
  (∀ (site : SiteNo) (md : Bool) (bank : BitVec 6) (row : Nat) (recOk : Bool) (s : State),
     let p := site.toNat
     let r := (row * 64 + bank.toNat) * 2 + bit md
     let t0 := s.site p
     (sget (fun _ => 0) t0.rowCe r < t0.repairThr.toNat → exec (.rowRepair site md bank row recOk) s = .next s) ∧
     (t0.repairThr.toNat ≤ sget (fun _ => 0) t0.rowCe r → ∃ t, exec (.rowRepair site md bank row recOk) s = .next t ∧
       t.cores = s.cores ∧ (∀ j, j ≠ p → t.site j = s.site j) ∧ (t.site p).bed = t0.bed ∧
       sget (fun _ => 0) (t.site p).rowCe r = 0 ∧
       (sget (fun _ => 0) t0.sparesUsed (bankOfRow r) < 32 → (t.site p).repaired = t0.repaired ++ [r] ∧
         sget (fun _ => 0) (t.site p).sparesUsed (bankOfRow r) = sget (fun _ => 0) t0.sparesUsed (bankOfRow r) + 1 ∧
         (t.site p).bedCause.getLsbD 5 = true ∧
         (recOk = true → t.flash = { s.flash with rowRecord := s.flash.rowRecord ++ [(p, r)] } ∧ t.orr = s.orr) ∧
         (recOk = false → t.flash = s.flash ∧ t.orr.stopping = true)) ∧
       (32 ≤ sget (fun _ => 0) t0.sparesUsed (bankOfRow r) → (t.site p).repaired = t0.repaired ∧
         (t.site p).bedCause.getLsbD 6 = true ∧ t.flash = s.flash))) ∧
  (∀ (xd : BitVec 2) (ch : BitVec 4) (row : BitVec 24) (moved idle eye : Bool) (s : State),
     let x := xd.toNat
     let m := (s.xd x).mc
     let d := sget (fun _ => Device.init) m.devs ch.toNat
     let near := ∃ t, d.errTicks.getLast? = some t ∧ s.tick.toNat - t.toNat ≤ 3760
     let consec := if near then d.consec + 1 else 1
     let recent := (d.errTicks.filter (fun t => decide (s.tick.toNat - t.toNat < 940000))).length + 1
     let failed (t : State) : Prop := (t.xd x).mc.devFailed.getLsbD ch.toNat = true ∧ (t.xd x).mc.cause.getLsbD 1 = true ∧
       (m.devFailed ≠ 0 → (t.xd x).mc.doubleFault = true)
     let e := if moved = true ∧ d.hot = none then { d with hot := some s.tick } else d
     let due := e.lastTrain.toNat + 94000000 ≤ s.tick.toNat ∨ ∃ h, e.hot = some h ∧ h.toNat ≤ s.tick.toNat
     let forced := e.dueTick + 940000 ≤ s.tick.toNat
     (13 ≤ ch.toNat → exec (.gddr7CrcRetry xd ⟨ch, row⟩) s = .next s) ∧
     (ch.toNat < 13 → ∃ t, exec (.gddr7CrcRetry xd ⟨ch, row⟩) s = .next t ∧ { t with xds := s.xds, gis := s.gis } = s ∧
       (∀ y, y ≠ x → t.xd y = s.xd y) ∧ (t.xd x).mc.crcCnt = m.crcCnt + 1 ∧ (t.xd x).mc.cause.getLsbD 0 = true ∧
       (m.cause = 0 → (t.xd x).mc.errInfo = reg64 [(ch.toNat, 0), (0, 4), (fld (deviceAddr x ch.toNat row.toNat) 8 40, 8)]) ∧
       (t.xd x).mc.retryCnt = (if 8 ≤ consec then m.retryCnt else m.retryCnt + 1) ∧
       (sget (fun _ => Device.init) (t.xd x).mc.devs ch.toNat).consec = consec ∧
       ((8 ≤ consec ∨ 64 ≤ recent) → m.devFailed.getLsbD ch.toNat = false → failed t) ∧
       (consec < 8 → recent < 64 → (t.xd x).mc.devFailed = m.devFailed)) ∧
     ((13 ≤ ch.toNat ∨ m.retrainEn = false ∨ m.devFailed.getLsbD ch.toNat = true) →
       exec (.deviceRetrain xd ch ⟨moved, idle⟩ eye) s = .next s) ∧
     (ch.toNat < 13 → m.retrainEn = true → m.devFailed.getLsbD ch.toNat = false →
       ∃ t, exec (.deviceRetrain xd ch ⟨moved, idle⟩ eye) s = .next t ∧
         { t with xds := s.xds, gis := s.gis, freeCtr := s.freeCtr } = s ∧
         (due → (idle = true ∨ forced) →
           sget (fun _ => Device.init) (t.xd x).mc.devs ch.toNat = { e with lastTrain := s.tick, hot := none } ∧
           (idle = false → (t.xd x).mc.cause.getLsbD 3 = true) ∧
           (eye = true → (t.xd x).mc.devFailed = m.devFailed) ∧ (eye = false → failed t)) ∧
         (¬ (due ∧ (idle = true ∨ forced)) → sget (fun _ => Device.init) (t.xd x).mc.devs ch.toNat = e ∧
           t.gis = s.gis ∧ (t.xd x).mc.devFailed = m.devFailed ∧ (t.xd x).mc.cause = m.cause)) ∧
     (s.pwr.level = 4 → ∃ t, exec (.gddr7IdleSelfRefresh xd) s = .next t ∧ { t with xds := s.xds } = s ∧
       t.xd x = { s.xd x with mc := { m with selfRefresh := true } } ∧ ∀ y, y ≠ x → t.xd y = s.xd y) ∧
     (s.pwr.level ≠ 4 → exec (.gddr7IdleSelfRefresh xd) s = .next s))

/-- 12 R366: the oldest acknowledged write of a site lands in its bed; with none acknowledged the oldest write that can
go sends the XOR of the old and the new block to the parity's holder and waits for it, or where the holder is absent is
written without parity. The holder XORs the oldest delta into its parity and acknowledges its write. During the
initialisation pass, and at the spare that a rebuild fills, the writes are held. 12 R367, R382: setting SB_CTL.en starts
the initialisation pass with the chunks given while en was 0; its end makes the state 2 and the parity chunk that each
present holder keeps the XOR of that chunk of every present member of its group, no other bed byte changing, with the
words poisoned that are poisoned in a member (R369; model choice, assumption 38). Clearing en ends all parity: the state
is 0 and beds below the parity share keep what was written. 12 R370: at the end of a rebuild the spare's protected
chunks are the XOR of the other members of its group and the parity, poisoned where one of these is (R369), the state is
2 again, the progress whole and SB_REBUILD_TICKS the ticks since the failure; other beds keep their contents where no
write is held. With no rebuild under way nothing happens. -/
def Obligations.SeedbankKeepsParity : Prop :=
  (∀ (site : SiteNo) (s : State),
     let p := site.toNat
     let t0 := s.site p
     (s.sb.state = 1 → exec (.protectedWrite site) s = .next s) ∧
     (s.sb.state = 3 → s.sb.rebuildSite = site → exec (.protectedWrite site) s = .next s) ∧
     (t0.writes = [] → exec (.protectedWrite site) s = .next s) ∧
     (t0.deltas = [] → exec (.parityDelta site) s = .next s) ∧
     (∀ w, s.protHeld p = false → t0.writes.find? ProtWrite.acked = some w → ∃ t, exec (.protectedWrite site) s = .next t ∧
       { t with sites := s.sites } = s ∧ (∀ j, j ≠ p → t.site j = s.site j) ∧
       t.site p = { t0.landWrite w with writes := dropFirst (fun x => x == w) t0.writes }) ∧
     (∀ w rest l, s.protHeld p = false → t0.writes = w :: rest → (∀ v ∈ t0.writes, v.acked = false) → w.sent = false →
       s.logicalOf p = some l →
       (s.physOf (s.holder (s.groupOf l) (w.off / chunkSize)) = none → ∃ t, exec (.protectedWrite site) s = .next t ∧
         { t with sites := s.sites } = s ∧ (∀ j, j ≠ p → t.site j = s.site j) ∧
         t.site p = { t0 with writes := { w with sent := true, acked := true } :: rest }) ∧
       (∀ h, s.physOf (s.holder (s.groupOf l) (w.off / chunkSize)) = some h → h ≠ p →
         ∃ t, exec (.protectedWrite site) s = .next t ∧ { t with sites := s.sites } = s ∧
           (∀ j, j ≠ p → j ≠ h → t.site j = s.site j) ∧ t.site p = { t0 with writes := { w with sent := true } :: rest } ∧
           t.site h = { s.site h with deltas := (s.site h).deltas ++ [{
             src := site, srcOff := w.off, off := parityOff w.off,
             bytes := List.zipWith (· ^^^ ·) (t0.bed.bytes w.off 64) ((landBlock t0.bed w).bytes w.off 64) }] })) ∧
     (∀ d rest, t0.deltas = d :: rest → d.src ≠ site → d.bytes.length = 64 → ∃ t, exec (.parityDelta site) s = .next t ∧
       { t with sites := s.sites } = s ∧ (∀ j, j ≠ p → j ≠ d.src.toNat → t.site j = s.site j) ∧
       { t.site p with bed := t0.bed } = { t0 with deltas := rest } ∧
       (∀ a, (t.site p).bed.get a = if d.off ≤ a ∧ a < d.off + 64 then t0.bed.get a ^^^ d.bytes.getD (a - d.off) 0
         else t0.bed.get a) ∧
       t.site d.src.toNat = { s.site d.src.toNat with
         writes := updFirst (fun w => w.sent && !w.acked && w.off == d.srcOff) (fun w => { w with acked := true })
           (s.site d.src.toNat).writes })) ∧
  (∀ (v : DWord) (s : State),
     (s.sb.en = false → v.getLsbD 0 = true → ∃ t, exec (.sbCtlWrite v) s = .next t ∧ { t with sb := s.sb } = s ∧
       t.sb = { s.sb with en := true, state := 1, started := s.tick, protChunks := v.extractLsb' 1 4 }) ∧
     (s.sb.en = true → v.getLsbD 0 = true → exec (.sbCtlWrite v) s = .next s) ∧
     (s.sb.en = false → v.getLsbD 0 = false →
       exec (.sbCtlWrite v) s = .next { s with sb := { s.sb with protChunks := v.extractLsb' 1 4 } }) ∧
     (s.sb.en = true → v.getLsbD 0 = false → (∀ p, (s.site p).writes = []) → ∃ t, exec (.sbCtlWrite v) s = .next t ∧
       t.cores = s.cores ∧ t.sb = { s.sb with en := false, state := 0, unprot := 0 } ∧
       ∀ p a, a < parityBase → (t.site p).bed.get a = (s.site p).bed.get a) ∧
     (s.sb.state ≠ 1 → exec .initPassEnd s = .next s) ∧
     (s.sb.state = 1 → 1 ≤ s.groups → (∀ l m p, s.physOf l = some p → s.physOf m = some p → l = m) →
       ∃ t, exec .initPassEnd s = .next t ∧ t.cores = s.cores ∧ t.sb.state = 2 ∧ t.sb.cause.getLsbD 0 = true ∧
         t.sb.unprot = BitVec.ofNat 4 s.unprotNow ∧
         (∀ g k h i, g < s.groups → k < s.prot → s.physOf (s.holder g k) = some h → i < chunkSize →
           (t.site h).bed.get (parityBase + i) =
             ((s.groupSites g).filterMap s.bedAt).foldl (fun b m => b ^^^ m.get (chunkSize * k + i)) 0) ∧
         (∀ g k h w, g < s.groups → k < s.prot → s.physOf (s.holder g k) = some h → w < chunkSize / 8 →
           sget (fun _ => false) (t.site h).bedPoison (parityBase / 8 + w) = (s.chunkPoison (s.groupSites g) k).contains w) ∧
         ∀ p a, (a < parityBase ∨ parityBase + chunkSize ≤ a) → (t.site p).bed.get a = (s.site p).bed.get a)) ∧
  (∀ (s : State),
     let p := s.sb.rebuildSite.toNat
     (s.sb.state ≠ 3 → exec .rebuildEnd s = .next s) ∧
     (∀ l, s.sb.state = 3 → s.logicalOf p = some l → (∀ q, (s.site q).writes = []) → s.physOf l = some p →
       (∀ m, s.physOf m = some p → m = l) → 1 < s.groups →
       ∃ t, exec .rebuildEnd s = .next t ∧ t.cores = s.cores ∧ t.sb.state = 2 ∧ t.sb.progress = s.sb.protChunks ∧
         t.sb.cause.getLsbD 1 = true ∧ t.sb.ticks = (s.tick - s.sb.started).setWidth 32 ∧
         (∀ j a, j ≠ p → (t.site j).bed.get a = (s.site j).bed.get a) ∧
         (∀ k w, k < s.prot → w < chunkSize / 8 →
           sget (fun _ => false) (t.site p).bedPoison (chunkSize * k / 8 + w) = (s.rebuildLost l k).contains w) ∧
         ∀ k i, k < s.prot → i < chunkSize → (t.site p).bed.get (chunkSize * k + i) = xorAt (s.rebuildSrc l (chunkSize * k)) i))

/-- 12 R379: a memory access to an address in no range reads 0 and drops its write, and its address enters SYS_MAP_FAULT
while that is free, with hole set, as does one to the bed, a core or the registers of an absent site (00 R5); the
register reads the address in [47:0], hole in [63] and 0 between, and a write clears hole with a 1 in [63] and changes
nothing else. An address in a range is not recorded, and a register access to no range reads 0 and writes nothing (R13).
-/
def Obligations.HolesAreRecorded : Prop :=
  ∀ (addr : Addr) (n : Nat) (bs : List Byte) (v : DWord) (s : State),
    let absent : Prop := ∃ l, s.physOf l = none ∧ ((∃ o, place addr.toNat = .bed l o) ∨
      (∃ c o, place addr.toNat = .core l c o) ∨ ∃ r, place addr.toNat = .siteReg l r)
    (place addr.toNat = .none ∨ absent → ∃ t, { t with gis := s.gis } = s ∧
      (s.gis.mapHole = true → t = s) ∧ (s.gis.mapHole = false → t.gis = { s.gis with mapHole := true, mapAddr := addr }) ∧
      exec (.unmappedAccess addr (.read n)) s = .next { t with outbox := s.outbox ++ [.reply (List.replicate n 0)] } ∧
      exec (.unmappedAccess addr (.write bs)) s = .next t) ∧
    (¬ (place addr.toNat = .none ∨ absent) → ∀ acc, exec (.unmappedAccess addr acc) s = .next s) ∧
    s.regRead .host 0x320000005000 = s.gis.mapAddr.setWidth 64 ||| (if s.gis.mapHole then 0x8000000000000000 else 0) ∧
    ((∀ m, m < 16 → s.sealedNow m = false) → exec (.registerWrite .host 0x320000005000 v) s =
      .next { s with gis := { s.gis with mapHole := s.gis.mapHole && !v.getLsbD 63 } }) ∧
    ((∀ m, m < 16 → s.sealedNow m = false) → place addr.toNat = .none →
      s.regRead .host addr.toNat = 0 ∧ exec (.registerWrite .host addr v) s = .next s)

/-! ## The security block (14) -/

/-- 14 R432, R433: a channel serves one request at a time, and while both have one the channels take turns. With no
request of its code waiting, or in the other channel's turn, a security command changes nothing; a request whose
reserved bytes are not 0 ends with result 1 and changes nothing else. A request that draws a key waits while the entropy
source is out. Serving reads memory areas, and that changes only what GDDR7, the fault latches and the orrery's cause
record. 14 R427, R428, R430, R431: OWNER_SET burns the next owner slot and extends M6 when the current owner signed it,
or there is none; after slot 4 it ends with result 5. PEER_POLICY loads a policy that the owner signed and extends M6.
EXTEND extends M7 with its 64 bytes. SVN_COMMIT moves a counter forward to the running image's svn, never backward. 14
R423, R443: ENTROPY_FAIL raises entropy_fail and KEY_UE raises key_ue, both urgent, into the urgent latch with their
tick; KEY_UE leaves its slot without a key, and a slot above 16 is none. -/
def Obligations.SecurityRequests : Prop :=
  (∀ (chan : Bool) (s : State), (∀ p ∈ secCommands chan,
     ((s.chan chan).busy = false ∨ (readReq (s.chan chan).record).code ≠ p.1 ∨ s.sec.otherTurn chan = true →
       exec p.2 s = .next s) ∧
     (∀ q, (s.chan chan).busy = true → readReq (s.chan chan).record = q → q.code = p.1 → q.reserved = true →
       s.sec.otherTurn chan = false → s.sec.entropyBad = false → SecRefuses p.2 s chan 1 [] q) ∧
     (s.sec.entropyBad = true → (p.1 = 0x02 ∨ p.1 = 0x05) → exec p.2 s = .next s)) ∧
     (s.sec.otherTurn chan = true ↔ (s.chan (!chan)).busy = true ∧ s.sec.last = some chan) ∧
     ∀ areas, (∀ a ∈ areas, a.1 + a.2 ≤ gddrBytes) →
       let u := s.secSaw chan areas
       { u with sec := s.sec, xds := s.xds, gis := s.gis, freeCtr := s.freeCtr, orr := s.orr } = s ∧
       u.sec = { s.sec with last := some chan } ∧ { u.orr with cause := s.orr.cause } = s.orr) ∧
  (∀ (chan : Bool) (s : State) (q : SecReq),
     let m6 (c : Sec) : Prop := ∃ d, (c.meas.getD 6 []) = extend (s.sec.meas.getD 6 (List.replicate 64 0)) d ∧ d = c.m6
     let kept (c : Sec) : Prop := ∀ j, j < 8 → j ≠ 6 → c.meas.getD j [] = s.sec.meas.getD j (List.replicate 64 0)
     (SecAsked s chan 0x06 q → gddrBytes < q.a0 + 3842 → SecRefuses (.ownerSet chan) s chan 1 [] q) ∧
     (SecAsked s chan 0x06 q → q.a0 + 3842 ≤ gddrBytes →
       let u := s.secSaw chan [(q.a0, 3842)]
       let b := s.secRead q.a0 3842
       let signed := ∀ o, s.sec.owner = some o →
         Config.falconVerify o.key (digest64 (b.take 1794)) (cut b 1796 (min 2046 (bfld b 1794 2))) = true
       (4 ≤ bfld b 1793 1 → SecRefuses (.ownerSet chan) s chan 1 [(q.a0, 3842)] q) ∧
       (bfld b 1793 1 < 4 → 4 ≤ s.sec.owners.length → ∃ t, exec (.ownerSet chan) s = .next t ∧
         { t with sec := u.sec, gis := u.gis } = u ∧ SecEnds s t chan 5 q ∧ t.sec.owners = s.sec.owners ∧
         t.sec.cause.getLsbD 7 = true) ∧
       (bfld b 1793 1 < 4 → s.sec.owners.length < 4 → ¬ signed → ∃ t, exec (.ownerSet chan) s = .next t ∧
         { t with sec := u.sec } = u ∧ SecEnds s t chan 2 q ∧ t.sec.owners = s.sec.owners ∧ t.sec.cause.getLsbD 2 = true) ∧
       (bfld b 1793 1 < 4 → s.sec.owners.length < 4 → signed → ∃ t, exec (.ownerSet chan) s = .next t ∧
         { t with sec := u.sec } = u ∧ SecEnds s t chan 0 q ∧ m6 t.sec ∧ kept t.sec ∧
         t.sec.owners = s.sec.owners ++ [{
           key := b.take 1793, digest := digest32 (b.take 1793),
           cosign := bitAt (bfld b 1793 1) 0, peerReq := bitAt (bfld b 1793 1) 1 }])) ∧
     (SecAsked s chan 0x07 q → gddrBytes < q.a0 + 2564 → SecRefuses (.peerPolicy chan) s chan 1 [] q) ∧
     (SecAsked s chan 0x07 q → q.a0 + 2564 ≤ gddrBytes →
       let u := s.secSaw chan [(q.a0, 2564)]
       let b := s.secRead q.a0 2564
       let inOrder := bfld b 1 1 ≤ 8 ∧ bfld b 2 1 ≤ 1 ∧ bfld b 3 1 = 0
       let signed (o : Owner) := Config.falconVerify o.key (digest64 (b.take 516)) (cut b 518 (min 2046 (bfld b 516 2))) = true
       (¬ inOrder → SecRefuses (.peerPolicy chan) s chan 1 [(q.a0, 2564)] q) ∧
       (inOrder → s.sec.owner = none → SecRefuses (.peerPolicy chan) s chan 3 [(q.a0, 2564)] q) ∧
       (∀ o, inOrder → s.sec.owner = some o → ¬ signed o → ∃ t, exec (.peerPolicy chan) s = .next t ∧
         { t with sec := u.sec } = u ∧ SecEnds s t chan 2 q ∧ t.sec.policy = s.sec.policy ∧ t.sec.cause.getLsbD 2 = true) ∧
       (∀ o, inOrder → s.sec.owner = some o → signed o →
         ∃ t, exec (.peerPolicy chan) s = .next t ∧ { t with sec := u.sec } = u ∧ SecEnds s t chan 0 q ∧ m6 t.sec ∧ kept t.sec ∧
           t.sec.owners = s.sec.owners ∧ t.sec.policy = some {
             minSvn := bfld b 0 1, images := (List.range (bfld b 1 1)).map (fun i => cut b (4 + 64 * i) 64),
             noDbg := bitAt (bfld b 2 1) 0, digest := digest64 (b.take 516) })) ∧
     (SecAsked s chan 0x08 q → gddrBytes < q.a0 + 64 → SecRefuses (.extendM7 chan) s chan 1 [] q) ∧
     (SecAsked s chan 0x08 q → q.a0 + 64 ≤ gddrBytes → ∃ t, exec (.extendM7 chan) s = .next t ∧
       { t with sec := (s.secSaw chan [(q.a0, 64)]).sec } = s.secSaw chan [(q.a0, 64)] ∧
       SecEnds s t chan 0 q ∧ ∀ j, j < 8 → t.sec.meas.getD j [] =
         if j = 7 then extend (s.sec.meas.getD 7 (List.replicate 64 0)) (s.secRead q.a0 64)
         else s.sec.meas.getD j (List.replicate 64 0)) ∧
     (SecAsked s chan 0x09 q → (q.ctx = 1 ∨ q.ctx = 2) → ∃ t, exec (.svnCommit chan) s = .next t ∧ { t with sec := s.sec } = s ∧
       SecEnds s t chan 0 q ∧ t.sec.svnOrr = s.sec.svnOrr ∧
       t.sec.svnS1 = (if q.ctx = 1 then max s.sec.svnS1 s.sec.runS1 else s.sec.svnS1) ∧
       t.sec.svnLd = (if q.ctx = 2 then max s.sec.svnLd s.sec.runLd else s.sec.svnLd) ∧
       ((t.sec.svnS1, t.sec.svnLd) = (s.sec.svnS1, s.sec.svnLd) → t.sec.meas = s.sec.meas) ∧
       ((t.sec.svnS1, t.sec.svnLd) ≠ (s.sec.svnS1, s.sec.svnLd) → m6 t.sec)) ∧
     (SecAsked s chan 0x09 q → q.ctx ≠ 1 → q.ctx ≠ 2 → SecRefuses (.svnCommit chan) s chan 1 [] q)) ∧
  (∀ (s : State),
     (∃ t, exec .entropyFail s = .next t ∧ { t with sec := s.sec, gis := s.gis } = s ∧ t.sec.entropyBad = true ∧
       t.sec.cause = s.sec.cause ||| 0x40 ∧
       t.gis = { s.gis with urgent := s.gis.urgent ++ [{ leaf := .sec, bit := 6, tick := s.tick, arg := 0 }] }) ∧
     ∀ slot : BitVec 5, (16 < slot.toNat → exec (.keyUe slot) s = .next s) ∧
       (slot.toNat ≤ 16 → ∃ t, exec (.keyUe slot) s = .next t ∧ { t with sec := s.sec, gis := s.gis, gddr := s.gddr } = s ∧
         t.sec.cause = s.sec.cause ||| 0x20 ∧ t.slotGen slot.toNat = 0 ∧
         (∀ k, k ≠ slot.toNat → t.slotGen k = s.slotGen k) ∧ t.gddr.mem = s.gddr.mem ∧
         t.gis = { s.gis with urgent := s.gis.urgent ++ [{ leaf := .sec, bit := 5, tick := s.tick, arg := 0 }] }))

/-- 14 R433, R434: a REPORT writes its report, signed over the digest of its body, at a1; a context report is remembered
for KEY_DELIVER, and carries the encapsulation key in seal state 1. The body is 1024 bytes with the fields of R434 at
their places. A context outside 0 to 15, or areas outside GDDR7, are malformed, and a context not created is refused
with 3. 14 R356, R429, R431, R441: LINK_ATTEST writes the module's signed link report and ends with 0 only where the
peer's chain, report and policy pass. CODE_MEASURE extends Cn with the digest of its bytes and nothing else. ERASE
clears the context's key slot, its content key and every region of it, writes zeros into its beds and core memories, and
leaves seal state 0. -/
def Obligations.ReportsAndErasure : Prop :=
  ((∀ (chan : Bool) (s : State) (q : SecReq), SecAsked s chan 0x01 q →
     let body := s.reportBody (if q.ctx = 0xFF then 0 else 1) q.ctx (s.secRead q.a0 64)
     (q.a0 + 64 ≤ gddrBytes → q.a1 + 8192 ≤ fwBase → (q.ctx = 0xFF ∨ q.ctx < 16 ∧ (s.ctx q.ctx).st ≠ .free) →
       ∃ t, exec (.report chan) s = .next t ∧ SecEnds s t chan 0 q ∧
         { t with sec := s.sec, gddr := s.gddr, xds := s.xds, gis := s.gis, freeCtr := s.freeCtr, orr := s.orr } = s ∧
         { t.orr with cause := s.orr.cause } = s.orr ∧ OnlyRuns [(q.a1, List.replicate 8192 0)] s t ∧
         Holds t [(q.a1, body ++ leBytes 2 (Config.falconSign s.part.idSeed (digest64 body)).length ++
           padTo 2046 (Config.falconSign s.part.idSeed (digest64 body)))] ∧
         (∀ m, (m = q.ctx → q.ctx = 0xFF) → t.seal m = s.seal m) ∧
         (q.ctx < 16 → t.seal q.ctx = { s.seal q.ctx with report := digest64 body } ∧
           ((s.seal q.ctx).state = 1 → Holds t [(q.a1 + 4096, padTo 1568 (s.seal q.ctx).ek)]))) ∧
     ((16 ≤ q.ctx ∧ q.ctx ≠ 0xFF ∨ gddrBytes < q.a0 + 64 ∨ gddrBytes < q.a1 + 8192) →
       SecRefuses (.report chan) s chan 1 [] q) ∧
     (q.a0 + 64 ≤ gddrBytes → q.a1 + 8192 ≤ gddrBytes → q.ctx < 16 → (s.ctx q.ctx).st = .free →
       SecRefuses (.report chan) s chan 3 [] q)) ∧
   (∀ (s : State) (kind ctx : Nat) (nonce : List Byte), kind < 3 →
     let b := s.reportBody kind ctx nonce
     b.length = 1024 ∧ bfld b 0 4 = 0x54505241 ∧ bfld b 4 2 = 1 ∧ bfld b 6 1 = kind ∧ bfld b 8 8 = s.tick.toNat ∧
       cut b 16 64 = padTo 64 nonce ∧ bfld b 80 4 = s.part.id.toNat % 2 ^ 32 ∧ bfld b 84 2 = s.fab.addr.toNat ∧
       cut b 88 32 = padTo 32 s.part.idDigest ∧ bfld b 152 1 = s.sec.runS1 % 256 ∧ bfld b 153 1 = s.sec.runLd % 256 ∧
       (bitAt (bfld b 7 1) 3 = s.sec.dbgUsed) ∧ cut b 160 512 = padTo 512 s.sec.meas.flatten ∧
       (kind = 1 → ctx < 16 → bfld b 736 1 = ctx ∧ bfld b 737 1 = (s.seal ctx).state.toNat ∧
         cut b 744 64 = padTo 64 (s.seal ctx).meas ∧ cut b 840 32 = padTo 32 (s.seal ctx).modelId) ∧
       (kind ≠ 1 → bfld b 736 1 = 0xFF ∧ bfld b 737 1 = 0 ∧ cut b 744 128 = List.replicate 128 0))) ∧
  (∀ (chan : Bool) (s : State) (q : SecReq),
     (SecAsked s chan 0x10 q → q.a0 + 9324 ≤ gddrBytes → q.a1 + 8192 ≤ fwBase → q.a2 + 64 ≤ gddrBytes →
       let b := s.secRead q.a0 9324
       let u := s.secSaw chan [(q.a0, 9324), (q.a2, 64)]
       ∃ t result, exec (.linkAttest chan) s = .next t ∧ SecEnds s t chan result q ∧
         { t with sec := s.sec, gddr := s.gddr, xds := s.xds, gis := s.gis, freeCtr := s.freeCtr, orr := s.orr } = s ∧
         { t.orr with cause := s.orr.cause } = s.orr ∧
         Holds t [(q.a1, s.signReport (s.reportBody 2 0 (u.secRead q.a2 64)))] ∧
         (result = 0 ↔ ∃ key, chainKey (cut b 3072 6252) = some key ∧
           s.sec.peerOk true key (b.take 3072) s.sec.nonce = true) ∧
         (result = 0 ∨ result = 2 ∨ result = 4)) ∧
     (SecAsked s chan 0x10 q → (gddrBytes < q.a0 + 9324 ∨ gddrBytes < q.a1 + 8192 ∨ gddrBytes < q.a2 + 64) →
       SecRefuses (.linkAttest chan) s chan 1 [] q) ∧
     (SecAsked s chan 0x11 q → (16 ≤ q.ctx ∨ gddrBytes < q.a0 + q.len) → SecRefuses (.codeMeasure chan) s chan 1 [] q) ∧
     (SecAsked s chan 0x11 q → q.ctx < 16 → q.a0 + q.len ≤ gddrBytes → ∃ t, exec (.codeMeasure chan) s = .next t ∧
       { t with sec := (s.secSaw chan [(q.a0, q.len)]).sec } = s.secSaw chan [(q.a0, q.len)] ∧ SecEnds s t chan 0 q ∧ (∀ m, m ≠ q.ctx → t.seal m = s.seal m) ∧
       t.seal q.ctx = { s.seal q.ctx with meas := extend (s.seal q.ctx).meas (digest64 (s.secRead q.a0 q.len)) }) ∧
     (SecAsked s chan 0x12 q → 16 ≤ q.ctx → SecRefuses (.erase chan) s chan 1 [] q) ∧
     (SecAsked s chan 0x12 q → q.ctx < 16 → (s.ctx q.ctx).desc.sealedCtx = false → SecRefuses (.erase chan) s chan 3 [] q) ∧
     (SecAsked s chan 0x12 q → q.ctx < 16 → (s.ctx q.ctx).desc.sealedCtx = true → ∃ t, exec (.erase chan) s = .next t ∧
       SecEnds s t chan 0 q ∧ { t with sec := s.sec, gddr := s.gddr, cores := s.cores, sites := s.sites } = s ∧
       t.gddr.mem = s.gddr.mem ∧ t.slotGen (q.ctx + 1) = 0 ∧ (∀ k, k ≠ q.ctx + 1 → t.slotGen k = s.slotGen k) ∧
       (∀ i g, sget (fun _ => none) t.gddr.regions i = some g → g.slot.toNat ≠ q.ctx + 1) ∧
       (∀ i g, sget (fun _ => none) s.gddr.regions i = some g → g.slot.toNat ≠ q.ctx + 1 →
         sget (fun _ => none) t.gddr.regions i = some g) ∧
       t.seal q.ctx = { SealSt.init with meas := (s.seal q.ctx).meas } ∧ (∀ m, m ≠ q.ctx → t.seal m = s.seal m) ∧
       (∀ k, (∀ x ∈ s.ctxCores q.ctx, x.2.2 ≠ k) → t.core k = s.core k) ∧
       (∀ x ∈ s.ctxCores q.ctx, (t.core x.2.2).sp = Mem.zero ∧ (t.core x.2.2).me.tiles = [] ∧
         (t.core x.2.2).cc.imemA = Mem.zero ∧ (t.core x.2.2).cc.imemB = Mem.zero ∧ (t.core x.2.2).cc.dmem = Mem.zero ∧
         (t.core x.2.2).ve.tables = [] ∧ (t.core x.2.2).cc.regs = (s.core x.2.2).cc.regs) ∧
       (∀ l ∈ s.ctxSites q.ctx, ∀ p, s.physOf l = some p → ∀ a, a < parityBase → (t.site p).bed.get a = 0) ∧
       (∀ p a, (∀ l ∈ s.ctxSites q.ctx, s.physOf l ≠ some p) → a < parityBase → (t.site p).bed.get a = (s.site p).bed.get a)))

/-- 14 R435, R436, R429: SEAL_CFG of a created, sealed, open context with a record of 1 to 8 ranges that none of the
refusals meets puts the closure in force: state 1 over those ranges, a new key in slot n + 1, one region each, a new key
pair, and Cn extended with the record's digest. What stood in the ranges is not rewritten. A context not so is refused
with 3. 14 R437: KEY_DELIVER to a configured context decapsulates, derives the wrapping key from the shared secret and
the digest of the last report's body, and unwraps the content key under nonce 0 with model_id as associated data: the
context is keyed. Where the tag fails the result is 4 with auth_fail, and no encapsulation key is left. The
decapsulation key is destroyed either way, and a second delivery is refused with 3. -/
def Obligations.SealingAndKeys : Prop :=
  (∀ (chan : Bool) (s : State) (q : SecReq), SecAsked s chan 0x02 q → s.sec.entropyBad = false →
     let n := q.ctx
     let b := s.secRead q.a0 q.len
     let rs := sealRanges b (q.len / 16)
     let u := s.secSaw chan [(q.a0, q.len)]
     ((16 ≤ n ∨ q.len % 16 ≠ 0 ∨ q.len < 16 ∨ 128 < q.len ∨ gddrBytes < q.a0 + q.len) → SecRefuses (.sealCfg chan) s chan 1 [] q) ∧
     (n < 16 → q.len % 16 = 0 → 16 ≤ q.len → q.len ≤ 128 → q.a0 + q.len ≤ gddrBytes →
       (((s.ctx n).st = .free ∨ (s.ctx n).desc.sealedCtx = false ∨ (s.seal n).state ≠ 0 ∨ (∃ r ∈ rs, s.rangeBad n r = true) ∨
         disjoint rs = false ∨ s.freeRegions.length < rs.length) → SecRefuses (.sealCfg chan) s chan 3 [(q.a0, q.len)] q) ∧
       ((s.ctx n).st ≠ .free → (s.ctx n).desc.sealedCtx = true → (s.seal n).state = 0 → (∀ r ∈ rs, s.rangeBad n r = false) →
         disjoint rs = true → rs.length ≤ s.freeRegions.length →
         ∃ t, exec (.sealCfg chan) s = .next t ∧ SecEnds s t chan 0 q ∧
           { t with sec := u.sec, gddr := u.gddr, freeCtr := u.freeCtr } = u ∧ t.gddr.mem = s.gddr.mem ∧
           (t.seal n).state = 1 ∧ (t.seal n).ranges = rs ∧ (t.seal n).ck = none ∧ (t.seal n).modelId = [] ∧
           ((t.seal n).ek, (t.seal n).dk) = Config.kemKeygen u.freeCtr ∧
           (t.seal n).meas = extend (s.seal n).meas (digest64 b) ∧ (∀ m, m ≠ n → t.seal m = s.seal m) ∧
           t.slotGen (n + 1) = s.sec.keyGen + 1 ∧ (∀ k, k ≠ n + 1 → t.slotGen k = s.slotGen k) ∧
           (∀ x ∈ s.freeRegions.zip rs, sget (fun _ => none) t.gddr.regions x.1 =
             some { base := x.2.1, limit := x.2.1 + x.2.2 - 4096, slot := BitVec.ofNat 5 (n + 1) }) ∧
           (∀ i, i ∉ (s.freeRegions.take rs.length) →
             sget (fun _ => none) t.gddr.regions i = sget (fun _ => none) s.gddr.regions i)))) ∧
  (∀ (chan : Bool) (s : State) (q : SecReq), SecAsked s chan 0x03 q →
     let n := q.ctx
     let x := s.seal n
     let b := s.secRead q.a0 1648
     let kek := digest32 (Config.kemDecaps x.dk (cut b 0 1568) ++ x.report)
     let opened := gcmOpen kek (List.replicate 12 0) (cut b 1616 32) (cut b 1568 32) (cut b 1600 16)
     let u := s.secSaw chan [(q.a0, 1648)]
     ((16 ≤ n ∨ gddrBytes < q.a0 + 1648) → SecRefuses (.keyDeliver chan) s chan 1 [] q) ∧
     (n < 16 → q.a0 + 1648 ≤ gddrBytes →
       ((x.state ≠ 1 ∨ x.dk = []) → SecRefuses (.keyDeliver chan) s chan 3 [] q) ∧
       (x.state = 1 → x.dk ≠ [] → (∀ m, m ≠ n → ∀ t, exec (.keyDeliver chan) s = .next t → t.seal m = s.seal m) ∧
         (∀ ck, opened = some ck → ∃ t, exec (.keyDeliver chan) s = .next t ∧ { t with sec := u.sec } = u ∧
           SecEnds s t chan 0 q ∧ t.seal n = { x with state := 2, ck := some ck, modelId := cut b 1616 32, dk := [] }) ∧
         (opened = none → ∃ t, exec (.keyDeliver chan) s = .next t ∧ { t with sec := u.sec, gis := u.gis } = u ∧
           SecEnds s t chan 4 q ∧ t.seal n = { x with dk := [], ek := [] } ∧ t.sec.cause.getLsbD 3 = true))))

/-- 14 R439: an IMPORT into a keyed context's closure, its header in order, works chunk by chunk: a chunk whose tag
verifies under the content key is written in plain text, one whose tag fails is written as zeros and ends the import
with result 4 and the chunk's number in SEC_IMPORT_POS. A single chunk into an unprotected bed of the context lands byte
for byte. 14 R440: an EXPORT from the closure of a keyed context to a recipient that passes seals the source under the
digest of the shared secret and model_id: the blob's header names its length, its model and the ciphertext, and the one
chunk of a source in a bed follows with its tag. A recipient that does not pass ends it with result 2 and sig_fail, a
source outside the closure with 3, and a malformed request with 1. -/
def Obligations.ImportAndExport : Prop :=
  ((∀ (chan : Bool) (s : State) (q : SecReq), SecAsked s chan 0x04 q →
     let n := q.ctx
     let x := s.seal n
     let h := s.secRead q.a0 4096
     let u := s.secSaw chan [(q.a0, 4096)]
     let inOrder := bfld h 0 4 = 0x42534C42 ∧ bfld h 4 8 = q.len ∧ cut h 12 32 = x.modelId ∧ (h.drop 44).any (· != 0) = false
     ((16 ≤ n ∨ q.len = 0 ∨ gddrBytes < q.a0 + blobBytes q.len) → SecRefuses (.importBlob chan) s chan 1 [] q) ∧
     (n < 16 → 0 < q.len → q.a0 + blobBytes q.len ≤ gddrBytes →
       (x.ck = none → SecRefuses (.importBlob chan) s chan 3 [] q) ∧
       (x.ck ≠ none → (x.state ≠ 2 ∨ s.inClosure n q.a1 q.len false = false) →
         SecRefuses (.importBlob chan) s chan 3 [(q.a0, 4096)] q) ∧
       (∀ ck, x.ck = some ck → x.state = 2 → s.inClosure n q.a1 q.len false = true →
         (¬ inOrder → SecRefuses (.importBlob chan) s chan 1 [(q.a0, 4096)] q) ∧
         (inOrder →
           let r := u.importChunks n q.a0 q.a1 ck x.modelId (h.take 44) (chunkCount q.len) 0 q.len
           (∃ t, exec (.importBlob chan) s = .next t ∧ { t with sec := r.1.sec, gis := r.1.gis } = r.1 ∧
             SecEnds s t chan (if r.2 then 4 else 0) q ∧ (r.2 = true → t.sec.cause.getLsbD 3 = true)) ∧
           (∀ l o p pt, q.len ≤ chunkBytes → p < 64 → place q.a1 = .bed l o → s.physOf l = some p → s.dark p = false →
             s.sb.en = false → s.closedBy (place q.a1) = some n → o + q.len ≤ parityBase → pt.length = q.len →
             gcmOpen ck (chunkNonce x.modelId 0) (h.take 44) (u.secRead (q.a0 + 4096) q.len)
               (u.secRead (q.a0 + 4096 + q.len) 16) = some pt →
             ∃ t, exec (.importBlob chan) s = .next t ∧ SecEnds s t chan 0 q ∧ t.cores = s.cores ∧ t.gddr.mem = s.gddr.mem ∧
               (∀ j, j ≠ p → t.site j = s.site j) ∧
               ∀ a, (t.site p).bed.get a = if o ≤ a ∧ a < o + q.len then pt.getD (a - o) 0 else (s.site p).bed.get a))))) ∧
   (∀ (s : State) (n a0 a1 : Nat) (ck mid aad : List Byte) (f i left : Nat),
     let k := min left chunkBytes
     let src := a0 + 4096 + 65552 * i
     (∀ pt, gcmOpen ck (chunkNonce mid i) aad (s.secRead src k) (s.secRead (src + k) 16) = some pt →
       s.importChunks n a0 a1 ck mid aad (f + 1) i left =
         ((s.secSeen src (k + 16)).writeNow .fabric (some n) (a1 + chunkBytes * i) (padTo k pt)).importChunks n a0 a1 ck mid aad f (i + 1) (left - k)) ∧
     (gcmOpen ck (chunkNonce mid i) aad (s.secRead src k) (s.secRead (src + k) 16) = none →
       (s.importChunks n a0 a1 ck mid aad (f + 1) i left).2 = true ∧
       (s.importChunks n a0 a1 ck mid aad (f + 1) i left).1.sec.importPos = BitVec.ofNat 40 i))) ∧
  (∀ (chan : Bool) (s : State) (q : SecReq), SecAsked s chan 0x05 q → s.sec.entropyBad = false →
     let wellFormed := q.ctx < 16 ∧ 0 < q.len ∧ q.a1 + blobBytes q.len ≤ gddrBytes ∧ q.a2 + 11980 ≤ gddrBytes ∧
       bfld (s.secRead q.a2 1) 0 1 ≤ 1
     let n := q.ctx
     let x := s.seal n
     let rec? := s.recipient (s.secRead q.a2 11980)
     let u := s.secSaw chan [(q.a2, 11980)]
     (¬ wellFormed → SecRefuses (.exportBlob chan) s chan 1 [] q) ∧
     (wellFormed → (x.state ≠ 2 ∨ s.inClosure n q.a0 q.len true = false) →
       SecRefuses (.exportBlob chan) s chan 3 [(q.a2, 11980)] q) ∧
     (wellFormed → x.state = 2 → s.inClosure n q.a0 q.len true = true →
       (rec? = none → ∃ t, exec (.exportBlob chan) s = .next t ∧ { t with sec := u.sec } = u ∧ SecEnds s t chan 2 q ∧
         t.sec.cause.getLsbD 2 = true) ∧
       (∀ ek, rec? = some ek → ∃ t, exec (.exportBlob chan) s = .next t ∧ SecEnds s t chan 0 q ∧ t.cores = s.cores ∧
         t.sites = s.sites ∧ t.ctxs = s.ctxs) ∧
       (∀ ek l o p, rec? = some ek → q.len ≤ chunkBytes → q.a1 + blobBytes q.len ≤ fwBase → place q.a0 = .bed l o →
         s.physOf l = some p → s.dark p = false → s.closedBy (place q.a0) = some n → o + q.len ≤ parityBase →
         let kc := Config.kemEncaps ek u.freeCtr
         let h := leBytes 4 0x42534C42 ++ leBytes 8 q.len ++ padTo 32 x.modelId ++ padTo 1568 kc.2
         let e := gcmSeal (digest32 (kc.1 ++ x.modelId)) (chunkNonce x.modelId 0) (h.take 44) ((s.site p).bed.bytes o q.len)
         ∃ t, exec (.exportBlob chan) s = .next t ∧ SecEnds s t chan 0 q ∧
           Holds t [(q.a1, padTo 4096 h), (q.a1 + 4096, padTo q.len e.1 ++ padTo 16 e.2)])))

/-! ## Faults (15) -/

/-- 15 R446, R447, R449: only a core that the urgent latch interrupts claims its oldest event, which then leaves the
latch and enters the Almanac with its register and value. The event of a block that needs no HALT changes nothing else;
one that loses data to a poisoned word gives its context healthy = 0; one that needs a graft adds its contexts to the
HALT in force and queues the graft; a failed edge halts the contexts of its sites and every running one, and leaves the
route tables. 15 R457,
R465, R467, 01 R30: a lost heartbeat of a present site, a core that misses its polls and a failed edge, between two
present sites or from a rim site to an I/O die, each set their cause and enter the urgent latch with their tick; of an
absent site, a core of a dark one, or an edge that has failed already, nothing happens. 15 R446, R467, R468, 13 R397,
R421, R422: a hardware error of a router, of an XD's logic, of the L2 or of orrery SRAM sets its leaf cause; an
uncorrectable one enters the urgent latch with its tick, and the claim of the latch follows. One of a core's code or
working memory is that core's crash: it is held, a takeover core is chosen. Which row brings them is the model's choice
(assumption 72). -/
def Obligations.FaultEvents : Prop :=
  (∀ (oc : BitVec 5) (s : State),
     ((s.gis.urgent = [] ∨ s.fwRuns = false ∨ oc.toNat ∉ s.urgentCores) → exec (.urgentLatch oc none) s = .next s) ∧
     ∀ u r, s.gis.urgent = u :: r → s.fwRuns = true → oc.toNat ∈ s.urgentCores →
       ∃ t, exec (.urgentLatch oc none) s = .next t ∧ (∃ new, t.gis.urgent = r ++ new) ∧
         sget (fun _ => Alm.init) t.alms (s.almHead.toNat % 4096) = {
           seq := s.almHead, tick := s.tick, kind := 0x02, sev := 3, ctx := 0, origin := originOc oc.toNat,
           payload := leBytes 8 (s.leafAddr u.leaf) ++ leBytes 8 (s.leaf u.leaf) ++ List.replicate 24 0 } ∧
         (u.leaf ∈ [Leaf.orr, .hc, .sec, .pwr, .clk, .therm, .sb] → OnlyRecords s t ∧ t.gis.halted = s.gis.halted) ∧
         (∀ k, (u.leaf = .ve k ∨ u.leaf = .se k ∨ (u.leaf = .me k ∧ u.bit ≠ 0) ∨ (u.leaf = .cc k ∧ u.bit ≠ 11)) →
           OnlyRecords s { t with ctxs := s.ctxs } ∧ t.gis.halted = s.gis.halted ∧
           (∀ n, (s.core k).ctx = some n → OnlyCtx n.toNat s t ∧
             t.ctx n.toNat = { s.ctx n.toNat with srec := { s.srec n.toNat with faulted := true } }) ∧
           ((s.core k).ctx = none → t.ctxs = s.ctxs)) ∧
         (∀ x, (u.leaf = .fab x ∨ u.leaf = .xdl x ∨ (u.leaf = .mc x ∧ u.bit ≠ 2) ∨ (u.leaf = .tr x ∧ u.bit ≠ 6 ∧ u.bit ≠ 10)) →
           OnlyRecords s t ∧ t.gis.halted = s.gis.halted) ∧
         (∀ x, u.leaf = .mc x → u.bit = 2 → OnlyRecords s { t with ctxs := s.ctxs } ∧ t.gis.halted = s.gis.halted ∧
           ∀ n, n < 16 → t.ctx n = if s.maskRunning.getLsbD n
             then { s.ctx n with srec := { s.srec n with faulted := true } } else s.ctx n) ∧
         (∀ p, u.leaf = .bed p → OnlyRecords s { t with ctxs := s.ctxs } ∧ t.gis.halted = s.gis.halted ∧
           ∀ n, n < 16 → t.ctx n = if (s.maskOf p).getLsbD n
             then { s.ctx n with srec := { s.srec n with faulted := true } } else s.ctx n) ∧
         (∀ g, graftFor s u = some g → t.gis.halted = s.gis.halted ||| g.mask ∧ (∀ k ∈ s.haltKeys g.mask, k ∈ t.gis.arrive) ∧
           (∃ h ∈ t.gis.grafts, h.site = g.site ∧ h.mask &&& g.mask = g.mask) ∧ (s.gis.grafts = [] → t.gis.grafts = [g])) ∧
         (∀ p, u.leaf = .site p → u.bit = 1 →
           (∀ q ∈ p :: (neighbour p u.arg).toList, ∀ n, (s.siteMask q).getLsbD n = true → t.gis.halted.getLsbD n = true) ∧
           t.grid.routeEdges = s.grid.edges ∧ t.grid.routeAvoid = (List.range 64).filter (fun q => !s.present q) ∧
           (2 ≤ s.edgesLost p → s.role p = .active → ∃ h ∈ t.gis.grafts, h.site = p))) ∧
  (∀ (site : SiteNo) (l : SiteNo) (c : CoreNo) (edge : BitVec 2) (s : State),
     let p := site.toNat
     let latched (t : State) (lf : Leaf) (b a : Nat) : Prop :=
       t.gis.urgent = s.gis.urgent ++ [{ leaf := lf, bit := b, tick := s.tick, arg := a }]
     let live := s.present p = true ∧ (∀ q, neighbour p edge.toNat = some q → s.present q = true) ∧
       edgePair p (farEnd p edge.toNat) ∉ s.grid.edges
     (s.present p = false → exec (.siteHeartbeatLoss site) s = .next s) ∧
     (s.present p = true → ∃ t, exec (.siteHeartbeatLoss site) s = .next t ∧ { t with gis := s.gis } = s ∧
       t.gis.siteLost = s.gis.siteLost ||| BitVec.ofNat 64 (2 ^ p) ∧ latched t .siteLost p 0) ∧
     (s.physOf l.toNat = none → exec (.coreLost l c) s = .next s) ∧
     (∀ q, s.physOf l.toNat = some q → s.dark q = true → exec (.coreLost l c) s = .next s) ∧
     (∀ q, s.physOf l.toNat = some q → s.dark q = false → ∃ t, exec (.coreLost l c) s = .next t ∧
       { t with sites := s.sites, gis := s.gis } = s ∧ (∀ j, j ≠ q → t.site j = s.site j) ∧
       { t.site q with cause := (s.site q).cause, errInfo := (s.site q).errInfo } = s.site q ∧
       (t.site q).cause.getLsbD 0 = true ∧ latched t (.site q) 0 c.toNat) ∧
     (live → ∃ t, exec (.edgeFail site edge) s = .next t ∧ { t with sites := s.sites, gis := s.gis, grid := s.grid } = s ∧
         t.grid = { s.grid with edges := s.grid.edges ++ [edgePair p (farEnd p edge.toNat)] } ∧
         (∀ j, j ≠ p → t.site j = s.site j) ∧ (t.site p).cause.getLsbD 1 = true ∧ latched t (.site p) 1 edge.toNat) ∧
     (¬ live → exec (.edgeFail site edge) s = .next s)) ∧
  (∀ (oc : BitVec 5) (ue : Bool) (s : State),
     let urgent (t : State) (lf : Leaf) (b : Nat) : Prop :=
       t.gis.urgent = s.gis.urgent ++ if ue then [{ leaf := lf, bit := b, tick := s.tick, arg := 0 }] else []
     (∀ p : SiteNo, s.present p.toNat = false → exec (.urgentLatch oc (some (.rtr p ue))) s = exec (.urgentLatch oc none) s) ∧
     (∀ p : SiteNo, s.present p.toNat = true → ∃ t, exec (.urgentLatch oc (some (.rtr p ue))) s = exec (.urgentLatch oc none) t ∧
       { t with sites := s.sites, gis := s.gis } = s ∧ (∀ j, j ≠ p.toNat → t.site j = s.site j) ∧
       (t.site p.toNat).cause.getLsbD (if ue then 3 else 2) = true ∧ urgent t (.site p.toNat) 3) ∧
     (∀ x : BitVec 2, ∃ t, exec (.urgentLatch oc (some (.xdl x ue))) s = exec (.urgentLatch oc none) t ∧
       { t with xds := s.xds, gis := s.gis } = s ∧ (∀ j, j ≠ x.toNat → t.xd j = s.xd j) ∧
       (t.xd x.toNat).xdlCause.getLsbD (if ue then 2 else 1) = true ∧ urgent t (.xdl x.toNat) 2) ∧
     (∃ t, exec (.urgentLatch oc (some (.l2 ue))) s = exec (.urgentLatch oc none) t ∧
       { t with host := { t.host with cause := s.host.cause }, gis := s.gis } = s ∧
       t.host.cause.getLsbD (if ue then 2 else 1) = true ∧ urgent t .hc 2) ∧
     (∀ m, ue = false ∨ m = none → ∃ t, exec (.urgentLatch oc (some (.sram ue m))) s = exec (.urgentLatch oc none) t ∧
       { t with orr := { t.orr with cause := s.orr.cause }, gis := s.gis } = s ∧
       t.orr.cause.getLsbD (if ue then 4 else 3) = true ∧ urgent t .orr 4) ∧
     (∀ c : BitVec 5, ue = true → c.toNat < 20 → s.fwRuns = true → (s.oc c.toNat).role = 0 →
       ∃ t, exec (.urgentLatch oc (some (.sram ue (some c)))) s = exec (.urgentLatch oc none) t ∧
         (t.oc c.toNat).role = 2 ∧ t.orr.cause.getLsbD 4 = true ∧ t.orr.cause.getLsbD 0 = true ∧
         ∀ d, d ≠ c.toNat → t.oc d = s.oc d))

/-- 15 R449, R450, R452: the orrery's write of SYS_HALT adds its mask to the contexts halted and to the HALT in force,
and the broadcast is on its way to every core whose running context it names; a write by any other requester is ignored.
A context of the mask whose step has no decision sends its vote at once with healthy 0 and early_abort 1; one whose step
commits is to be redone; its started STARTs, if it is on its cores, get status 2. Contexts outside the mask stand. 15 R449, 08 R258, 03 R94, 04
R138, 07 R221: when the broadcast reaches a core that runs a context of the HALT in force, its CC is halted from any
state, every queued command is dropped and counts as started and done, only stores of the ME go on, no chain, table load
or stream context is left. A core of another context goes on, and one it has already reached stands. -/
def Obligations.HaltStops : Prop :=
  (∀ (oc : BitVec 5) (mask : BitVec 16) (reason : Byte) (s : State),
     (∀ req, (∀ c, req ≠ .orrery c) → exec (.halt req mask reason) s = .next s) ∧
     ∃ t, exec (.halt (.orrery oc) mask reason) s = .next t ∧ t.gis.halted = s.gis.halted ||| mask ∧
       t.gis.inForce = (if s.gis.arrive = [] then 0 else s.gis.inForce) ||| mask ∧ t.gis.tick = s.tick ∧
       t.gis.grafts = s.gis.grafts ∧ (∀ k, k ∈ t.gis.arrive ↔ k ∈ s.gis.arrive ∨ k ∈ s.haltKeys mask) ∧
       ((∀ n, areaOk (s.ctx n).desc.policyAddr 128 = true) → t.sites = s.sites) ∧ t.grid = s.grid ∧
       (∀ n, n < 16 → mask.getLsbD n = false → t.ctx n = s.ctx n) ∧
       ∀ n, n < 16 → mask.getLsbD n = true →
         ((s.ctx n).saved = [] → ∀ e ∈ (s.ctx n).entries, e.kind = 2 → e.started = true → e.finished = false →
           ∃ f ∈ (t.ctx n).entries, f.index = e.index ∧ f.status = 2) ∧
         ((s.updRec n).phase = 4 → (t.updRec n).faulted = true ∧ (t.updRec n).phase = 4) ∧
         ((s.srec n).open_ = true → (s.srec n).voted = false → (t.srec n).voted = true ∧ (t.srec n).early = true) ∧
         ((s.srec n).open_ = true → (s.srec n).voted = false → (s.ctxSelf n).role = 0 → 0 < (s.ctxSelf n).rank →
           treeChildren (s.ctxSelf n).n (s.ctxSelf n).rank = [] → (s.ctxSelf n).rank < 65536 → ∃ v, Out.vote v ∈ t.outbox ∧
             v.step = (s.srec n).step ∧ v.healthy = false ∧ v.earlyAbort = true ∧ v.finite = false)) ∧
  (∀ (l : SiteNo) (c : CoreNo) (s : State) (k : Nat), s.key l c = some k →
     (k ∉ s.gis.arrive → exec (.haltArrival l c) s = .next s) ∧
     (k ∈ s.gis.arrive → (∀ n, (s.core k).ctx = some n → s.gis.inForce.getLsbD n.toNat = false) →
       exec (.haltArrival l c) s = .next { s with gis := { s.gis with arrive := s.gis.arrive.filter (· != k) } }) ∧
     (∀ n, k ∈ s.gis.arrive → (s.core k).ctx = some n → s.gis.inForce.getLsbD n.toNat = true →
       ∃ t, exec (.haltArrival l c) s = .next t ∧ (t.core k).cc.st = .halted ∧
         (t.core k).cc.cause.getLsbD 15 = true ∧ (t.core k).cc.regs = (s.core k).cc.regs ∧
         (t.core k).me.queue = [] ∧ (t.core k).ve.queue = [] ∧ (t.core k).se.queue = [] ∧
         (t.core k).me.jobs = (s.core k).me.jobs.filter (fun j => j.work.isStore) ∧
         (∀ j ∈ (s.core k).me.jobs, j.work.isStore = false → j.work.tile < 16 → (t.core k).me.haltedT.getLsbD j.work.tile = true) ∧
         (t.core k).ve.chain = none ∧ (t.core k).ve.tloads = [] ∧ (t.core k).ve.swaps = [] ∧
         (t.core k).ve.haltedV = ((s.core k).ve.haltedV || (s.core k).ve.chain.isSome) ∧ (t.core k).se.fence = none ∧
         (∀ x, x < 8 → ((t.core k).se.ctx x).running = false) ∧ (∀ j, j ≠ k → (t.core j).cc.st = (s.core j).cc.st ∧
           (t.core j).cc.regs = (s.core j).cc.regs ∧ (t.core j).me.queue = (s.core j).me.queue) ∧
         t.ctxs = s.ctxs ∧ t.gis.arrive = s.gis.arrive.filter (· != k) ∧
         ((s.core k).ve.chain = none → (∀ x, x < 8 → ((s.core k).se.ctx x).running = false) →
           OnlyCore k s { t with gis := s.gis, freeCtr := s.freeCtr } ∧ (t.core k).sp = (s.core k).sp ∧
           (t.core k).cc.dmem = (s.core k).cc.dmem)))

/-- 15 R453, 03 R71: a column graft in its turn, on a core whose ME is idle, whose self-test finds a new failed column
copies the result into ME_COLFAIL, clears bcast and records it in boot flash (where the flash does not take it the
contexts stop at their boundaries); with no new column the array stands; with 11 failed columns a core graft takes its
place. Tile 0 is the test's scratch and no other core changes. Out of turn, or with the ME busy, nothing happens. 15
R456: a core graft puts the lowest-numbered spare physical core in the failed core's place: the map of the presented
core names it, its engines are on, it runs the context, halted, and the failed core is recorded; other presented cores
and sites stand. With no spare core the site is grafted in its turn. Out of turn nothing happens. 15 R454, R455, R460,
01 R22, R26, 12 R370, R371: a site graft gives the failed site's logical ID to the nearest spare at one tick: the site
is retired, the spare active under that ID, the generation one up, the routes written anew, the retirement recorded; the
contexts of its cores run on the spare's, halted. A Seedbank that covers the site begins its rebuild into the spare,
counted from the failure; where parity cannot rebuild it, it enters state 4 with rebuild_fail. With no spare left the ID
is absent, its contexts stop, and the module enters hold. During a rebuild of an unrelated group the graft waits. 15
R512: a failed spare is retired once its turn has come: its role becomes retired, the generation stays, no ID moves, the
routes are written anew and the retirement is recorded; contexts, cores and beds stand. A spare put into service since
its fault is grafted as a site in its turn. -/
def Obligations.SitesCoresAndColumnsAreGrafted : Prop :=
  (∀ (l : SiteNo) (c : CoreNo) (fails : BitVec 130) (recOk : Bool) (s : State),
     (s.physOf l.toNat = none → exec (.columnGraft l c fails recOk) s = .next s) ∧
     ∀ p, s.physOf l.toNat = some p →
     let k := s.keyOf p c.toNat
     ((s.graftTurn 0 p c.toNat = none ∨ (s.core k).me.idle = false) → exec (.columnGraft l c fails recOk) s = .next s) ∧
     ∀ g, s.graftTurn 0 p c.toNat = some g → (s.core k).me.idle = true →
     let isNew : Prop := fails &&& ~~~(s.core k).me.colfail ≠ 0
     ∃ t, exec (.columnGraft l c fails recOk) s = .next t ∧ (∀ j, j ≠ k → t.core j = s.core j) ∧
       OnlyRecords s { t with cores := s.cores, flash := s.flash } ∧ { t.core k with me := (s.core k).me } = s.core k ∧
       (t.core k).me.test = fails ∧ (∀ i, i ≠ 0 →
         sget (fun _ => Tile.zero) (t.core k).me.tiles i = sget (fun _ => Tile.zero) (s.core k).me.tiles i) ∧
       (11 ≤ (onesOf 130 fails.toNat).length → (t.core k).me.colfail = (s.core k).me.colfail ∧ t.flash = s.flash ∧
         (s.gis.grafts = [g] → t.gis.grafts = [{ g with kind := 1 }])) ∧
       ((onesOf 130 fails.toNat).length < 11 → t.gis.grafts = s.gis.grafts.filter (· != g) ∧
         (t.core k).me.bcastReq = false ∧ (t.core k).me.bcastActive = false ∧
         (isNew → (t.core k).me.colfail = fails ∧ (recOk = false → t.flash = s.flash ∧ t.orr.stopping = true) ∧
           (recOk = true → t.flash = { s.flash with colRecord := s.flash.colRecord ++ [(k, fails)] })) ∧
         (¬ isNew → (t.core k).me.colfail = (s.core k).me.colfail ∧ t.flash = s.flash))) ∧
  (∀ (l : SiteNo) (c : CoreNo) (recOk : Bool) (s : State),
     (s.physOf l.toNat = none → exec (.coreGraft l c recOk) s = .next s) ∧
     ∀ p, s.physOf l.toNat = some p →
     (s.graftTurn 1 p c.toNat = none → exec (.coreGraft l c recOk) s = .next s) ∧
     ∀ g, s.graftTurn 1 p c.toNat = some g →
     let old := s.keyOf p c.toNat
     (∀ n rest, s.spareCores p = n :: rest →
       (∀ m, (s.core old).ctx = some m → ∀ e ∈ (s.ctx m.toNat).loads, areaOk e.src e.len = true) →
       ∃ t, exec (.coreGraft l c recOk) s = .next t ∧ t.ctxs = s.ctxs ∧ t.grid = s.grid ∧
       (∀ j, j ≠ p → t.site j = s.site j) ∧ (t.site p).physCore c.toNat = n ∧
       (∀ d, d ≠ c.toNat → (t.site p).physCore d = (s.site p).physCore d) ∧
       (t.site p).failed = setBit (s.site p).failed ((s.site p).physCore c.toNat) true ∧ (t.site p).cause.getLsbD 5 = true ∧
       (t.site p).bed = (s.site p).bed ∧ (∀ j, j ≠ old → j ≠ 64 * p + n → t.core j = s.core j) ∧
       t.core old = { s.core old with ctx := none } ∧ (t.core (64 * p + n)).ctx = (s.core old).ctx ∧
       (t.core (64 * p + n)).cc.eng = 0b111 ∧ ((s.core old).ctx ≠ none → (t.core (64 * p + n)).cc.st = .halted) ∧
       (recOk = true → t.flash = { s.flash with coreRecord := s.flash.coreRecord ++ [(p, old % 64)] }) ∧
       (recOk = false → t.flash = s.flash ∧ t.orr.stopping = true) ∧
       t.gis.grafts = s.gis.grafts.filter (· != g)) ∧
     (s.spareCores p = [] → s.role p = .active → s.gis.grafts = [g] → ∃ t, exec (.coreGraft l c recOk) s = .next t ∧
       (t.site p).failed = setBit (s.site p).failed ((s.site p).physCore c.toNat) true ∧ t.gis.halted = s.gis.halted ||| s.siteMask p ∧
       ∃ h ∈ t.gis.grafts, h.kind = 2 ∧ h.site = p)) ∧
  (∀ (site : SiteNo) (recOk : Bool) (s : State),
     let p := site.toNat
     ((s.graftTurn 2 p 0 = none ∨ s.logicalOf p = none) → exec (.siteGraft site recOk) s = .next s) ∧
     ∀ l g, s.graftTurn 2 p 0 = some g → s.logicalOf p = some l →
     let waits := s.sb.state = 3 ∧ s.sb.rebuildSite ≠ site ∧ s.related l = false
     let active := s.sb.en = true ∧ s.sb.protChunks ≠ 0 ∧ s.sb.state ≠ 0 ∧ s.sb.state ≠ 1
     let beyond := if s.sb.state = 3 then s.sb.rebuildSite ≠ site ∧ s.related l = true
       else s.sb.unprot.toNat.testBit (s.groupOf l) = true
     let noRebuild (t : State) : Prop := t.sb.state = 4 ∧ t.sb.cause.getLsbD 2 = true ∧
       (s.groupOf l < 4 → t.sb.unprot.getLsbD (s.groupOf l) = true)
     (waits → exec (.siteGraft site recOk) s = .next s) ∧
     (∀ q, s.nearestSpare p = some q → s.role q = .spare ∧ q ≠ p) ∧
     (∀ q, ¬ waits → s.nearestSpare p = some q → q < 64 → (onesOf 34 (s.site q).failed.toNat).length ≤ 2 →
       ∃ t, exec (.siteGraft site recOk) s = .next t ∧ t.ctxs = s.ctxs ∧ t.role p = .retired ∧ t.role q = .active ∧
         (∀ j, j ≠ p → j ≠ q → t.role j = s.role j) ∧ t.logicalOf q = some l ∧ (l < s.part.activeSites → t.physOf l = some q) ∧
         (∀ m, m ≠ l → t.physOf m = s.physOf m) ∧ t.grid.gen = s.grid.gen + 1 ∧ t.grid.commitTick = s.tick ∧
         t.grid.routeAvoid = (List.range 64).filter (fun j => !t.present j) ∧ t.grid.routeEdges = s.grid.edges ∧
         (recOk = true → t.flash = { s.flash with record := s.flash.record ++ [{
           phys := site, logical := some (BitVec.ofNat 6 l), spare := some (BitVec.ofNat 6 q) }] }) ∧
         (recOk = false → t.flash = s.flash ∧ t.orr.stopping = true) ∧
         (∀ c, c < 32 → (t.core (t.keyOf q c)).ctx = (s.core (s.keyOf p c)).ctx ∧ (t.core (t.keyOf q c)).cc.eng = 0b111 ∧
           ((s.core (s.keyOf p c)).ctx ≠ none → (t.core (t.keyOf q c)).cc.st = .halted)) ∧
         (∀ j, j / 64 ≠ p → j / 64 ≠ q → t.core j = s.core j) ∧
         ((s.sb.state = 3 → s.role s.sb.rebuildSite.toNat = .active) →
           (active → ¬ beyond → t.sb = { s.sb with
             state := 3, rebuildSite := BitVec.ofNat 6 q, progress := 0, started := g.tick, began := s.tick }) ∧
           (active → beyond → noRebuild t) ∧ (¬ active → t.sb = s.sb))) ∧
     (¬ waits → s.nearestSpare p = none → ∃ t, exec (.siteGraft site recOk) s = .next t ∧ t.role p = .retired ∧
       t.physOf l = none ∧ t.orr.hold = true ∧ t.grid.gen = s.grid.gen ∧
       (∀ j, j / 64 ≠ p → (t.core j).cc.regs = (s.core j).cc.regs) ∧
       (active → (beyond ∨ s.sb.state = 3 ∧ s.sb.rebuildSite = site) → noRebuild t) ∧
       ∀ n, n < 16 → (s.ctx n).st ≠ .free → (s.ctx n).desc.sites.getLsbD l = true →
         (t.ctx n).st = .stopped ∧ ((s.ctx n).membership = none → (t.srec n).outcome = 5))) ∧
  (∀ (site : SiteNo) (recOk : Bool) (s : State),
     (s.graftTurn 4 site.toNat 0 = none → exec (.spareSiteRetire site recOk) s = .next s) ∧
     (∀ g, s.graftTurn 4 site.toNat 0 = some g → s.role site.toNat = .active → s.gis.grafts = [g] →
       exec (.spareSiteRetire site recOk) s = .next { s with gis := { s.gis with grafts := [{ g with kind := 2 }] } }) ∧
     ∀ g, s.graftTurn 4 site.toNat 0 = some g → s.role site.toNat = .spare → ∃ t, exec (.spareSiteRetire site recOk) s = .next t ∧
       OnlyRecords s { t with grid := s.grid, flash := s.flash } ∧ t.role site.toNat = .retired ∧
       (∀ j, j ≠ site.toNat → t.role j = s.role j) ∧ t.grid.map = s.grid.map ∧ t.grid.gen = s.grid.gen ∧
       t.grid.routeAvoid = (List.range 64).filter (fun j => !t.present j) ∧
       (recOk = true → t.flash = { s.flash with record := s.flash.record ++ [{ phys := site, logical := none, spare := none }] }) ∧
       (recOk = false → t.flash = s.flash ∧ t.orr.stopping = true) ∧
       t.gis.grafts = s.gis.grafts.filter (· != g))

/-- 15 R452, R450: a context waits for every graft of its HALT, for the broadcast and for the rebuild; then an aborted
step begins again with the same number and the scale exponent it carries, its cores at the entry's pc and bank, and a
committed one starts its cores again under the exponent it used; the context leaves the masks. A step whose decision is
out waits. 15 R458, R459, 13 R385: a half of an I/O die that fails sets half_fail and the other half carries on; with
both lost, the die's running and pending buckets move to the next die with a live half, 64 running at most there (10
R306), and none is lost. A failed hart leaves service and the spare of its half, else of the other, takes its hart ID
and starts at the restart vector; hart_fail is raised. -/
def Obligations.RestartsAndReplacements : Prop :=
  (∀ (ctx : BitVec 4) (s : State) (e : Entry) (p : Policy),
     let n := ctx.toNat
     let r := s.srec n
     let freed (t : State) : Prop := t.gis.halted = setBit s.gis.halted n false ∧ t.gis.inForce = setBit s.gis.inForce n false ∧
       t.pwr.redo = setBit s.pwr.redo n false
     let started (t : State) : Prop := ∀ x ∈ s.entryCores e, ((s.core x.2.2).cc.st = .stopped ∨
       (s.core x.2.2).cc.st = .halted ∨ (s.core x.2.2).cc.st = .fault) →
         (t.core x.2.2).cc.st = (if (s.core x.2.2).cc.ctl.pause then .paused else .running) ∧
         (t.core x.2.2).cc.pc = e.pc ∧ (t.core x.2.2).cc.bank = e.bank
     (s.restartReady n = false → exec (.stepRestart ctx) s = .next s) ∧
     (s.restartReady n = true → (s.ctx n).policy = some p → (s.ctx n).st = .running →
       (s.ctx n).entries.find? (fun e => e.kind == 3 && e.started && !e.finished && e.index == r.entry) = some e →
       s.gis.grafts = [] → areaOk (s.ctx n).desc.policyAddr 128 = true →
       (r.phase = 6 → r.started = true → r.step = e.step → ∃ t, exec (.stepRestart ctx) s = .next t ∧ OnlyCtx n s t ∧
         t.sites = s.sites ∧ t.grid = s.grid ∧ freed t ∧ started t ∧ (t.srec n).step = e.step ∧ (t.srec n).phase = 1 ∧
         (t.srec n).sigma = r.sigma ∧ (t.srec n).repeated = true ∧ (t.srec n).commit = none ∧
         ∀ x ∈ s.ctxCores n, ∀ a, (t.core x.2.2).cc.dmem.get a = if p.hdr.toNat ≤ a ∧ a < p.hdr.toNat + 16
             then (headerBytes e.step r.sigma).getD (a - p.hdr.toNat) 0 else (s.core x.2.2).cc.dmem.get a) ∧
       (r.phase = 4 → ∃ t, exec (.stepRestart ctx) s = .next t ∧
         OnlyRecords s { t with cores := s.cores, pwr := s.pwr } ∧ freed t ∧ started t ∧
         ∀ x ∈ s.ctxCores n, ∀ a, (t.core x.2.2).cc.dmem.get a = if p.hdr.toNat ≤ a ∧ a < p.hdr.toNat + 16
             then (headerBytes r.step r.used).getD (a - p.hdr.toNat) 0 else (s.core x.2.2).cc.dmem.get a) ∧
       (r.phase ≠ 6 → r.phase ≠ 4 → r.open_ = true → exec (.stepRestart ctx) s = .next s)) ∧
     (s.restartReady n = true → (s.ctx n).entries.find? (fun e => e.kind == 3 && e.started && !e.finished && e.index == r.entry) = none →
       s.gis.grafts = [] → ∃ t, exec (.stepRestart ctx) s = .next t ∧ { t with gis := s.gis, pwr := s.pwr } = s ∧ freed t)) ∧
  (∀ (xd : BitVec 2) (half : Bool) (hart : BitVec 5) (s : State),
     let x := xd.toNat
     let d := s.xd x
     (d.halves.getLsbD (bit half) = true → exec (.halfFail xd half) s = .next s) ∧
     (d.halves = 0 → ∃ t, exec (.halfFail xd half) s = .next t ∧ { t with xds := s.xds, gis := s.gis } = s ∧
       (∀ y, y ≠ x → t.xd y = s.xd y) ∧ (t.xd x).xdlCause = d.xdlCause ||| 1 ∧ (t.xd x).tr = d.tr ∧
       (t.xd x).halves.getLsbD (bit half) = true ∧ (t.xd x).halves.getLsbD (bit (!half)) = false) ∧
     (∀ y, d.halves.getLsbD (bit half) = false → d.halves.getLsbD (bit (!half)) = true → y < 4 → y ≠ x →
       (s.xd y).halves ≠ 3 → (∀ z, 1 ≤ z → z < (y + 4 - x) % 4 → (s.xd ((x + z) % 4)).halves = 3) →
       ∃ t, exec (.halfFail xd half) s = .next t ∧ { t with xds := s.xds, gis := s.gis } = s ∧ (t.xd x).halves = 3 ∧
         (t.xd x).tr.running = [] ∧ (t.xd x).tr.pendingTags = [] ∧ (t.xd x).xdlCause.getLsbD 3 = true ∧
         (t.xd y).tr.running = ((s.xd y).tr.running ++ d.tr.running).take 64 ∧
         (t.xd y).tr.pendingTags = (((s.xd y).tr.running ++ d.tr.running).drop 64).map Bucket.tag ++
           (s.xd y).tr.pendingTags ++ d.tr.pendingTags) ∧
     (d.halves.getLsbD (bit half) = false → d.halves.getLsbD (bit (!half)) = true → (∀ y, y < 4 → y ≠ x → (s.xd y).halves = 3) →
       ∃ t, exec (.halfFail xd half) s = .next t ∧ { t with xds := s.xds, gis := s.gis } = s ∧ (t.xd x).halves = 3 ∧
         (t.xd x).tr = d.tr) ∧
     (s.host.inService.getLsbD hart.toNat = false → exec (.hartGraft hart) s = .next s) ∧
     (hart.toNat < 18 → s.host.inService.getLsbD hart.toNat = true → ∃ t, exec (.hartGraft hart) s = .next t ∧
       { t with host := s.host, gis := s.gis } = s ∧ t.host.inService.getLsbD hart.toNat = false ∧
       t.host.failedHarts.getLsbD hart.toNat = true ∧ t.host.cause.getLsbD 0 = true ∧
       (s.host.spareFor hart.toNat = none → t.host.harts = s.host.harts) ∧
       ∀ q i, s.host.spareFor hart.toNat = some q → i < 16 → s.host.physOf i = hart.toNat →
         (∀ j, j < i → s.host.physOf j ≠ hart.toNat) → t.host.physOf i = q ∧ t.host.inService.getLsbD q = true ∧
         (q = spareHart (decide (9 ≤ hart.toNat)) ∨ q = spareHart (decide (hart.toNat < 9))) ∧
         sget (fun _ => none) t.host.starts i = some ((s.host.boot.map BootRec.restart).getD 0, i) ∧
         ∀ j, j ≠ i → t.host.physOf j = s.host.physOf j))

/-! ## Ethernet (13) -/

/-- 13 R391: a frame of 64 to 9,216 bytes is held for the receive ring of its priority, ring 0 when untagged; a ring is
polled every 940 ticks, or at once while it moves data. While the port does not own the descriptor at the cursor nothing
moves; else the oldest frame held is written into that descriptor's buffer, cut to its size, and the descriptor is given
back with the length, own cleared, FCS error and truncation in the status; the cursor moves on and flag 2 raises the
port's interrupt. Another frame, or a ring that is not placed, changes nothing. 13 R391: a poll of a transmit ring stops
at a descriptor whose own bit is 0. One the port owns adds its buffer to the frame under way; end of frame sends the
frame and begins the next; own is cleared and the cursor moves on. A ring is polled every 940 ticks, or at once while it
moves data; a ring that is not placed, or not due, is left alone. -/
def Obligations.EthernetRings : Prop :=
  (∀ (port : BitVec 2) (prio : Option (BitVec 3)) (frame : List Byte) (fcs : Bool) (s : State),
     let ring := prio.getD 0
     let k := ethKey port.toNat true ring.toNat
     let fits := 64 ≤ frame.length ∧ frame.length ≤ 9216
     ((port.toNat = 3 ∨ ¬ fits ∨ s.ethRingAt k = none) → exec (.frameReceive port prio frame fcs) s = .next s) ∧
     ((port.toNat = 3 ∨ s.ethRingAt k = none) → exec (.descriptorPoll port true ring) s = .next s) ∧
     ∀ r i hold, port.toNat < 3 → s.ethRingAt k = some r →
       (i = Instr.frameReceive port prio frame fcs ∧ fits ∧ hold = s.host.rxHold ++ [(k, frame, fcs)] ∨
         i = .descriptorPoll port true ring ∧ hold = s.host.rxHold) →
       let at_ := r.base + 16 * r.cursor
       let d := s.readRun .ethernet at_ 16
       let size := bfld d 8 2
       let buf := bfld d 0 6
       let flags := bfld d 10 1
       (r.due s.tick = false → exec i s = .next { s with host := { s.host with rxHold := hold } }) ∧
       (r.due s.tick = true → (∀ n, n < 16 → s.sealedNow n = false) → areaOk at_ 16 = true →
         ((bitAt flags 0 = false ∨ ∀ x ∈ hold, x.1 ≠ k) → ∃ t, exec i s = .next t ∧ OnlyRecords s t ∧ t.orr = s.orr ∧
           t.host.rxHold = hold ∧ t.ethRingAt k = some { r with polled := some s.tick, moving := false } ∧
           (∀ j, j ≠ k → t.ethRingAt j = s.ethRingAt j) ∧ t.host.plic = s.host.plic ∧ t.gddr = s.gddr) ∧
         (∀ f fc, bitAt flags 0 = true → hold.find? (fun x => x.1 == k) = some (k, f, fc) →
           areaOk buf size = true → overlap buf size at_ 16 = false →
           ∃ t, exec i s = .next t ∧ OnlyRecords s t ∧ t.orr = s.orr ∧
             t.host.rxHold = hold.eraseIdx (hold.findIdx (fun x => x.1 == k)) ∧
             t.ethRingAt k = some { r with polled := some s.tick, moving := true, cursor := (r.cursor + 1) % r.count } ∧
             (∀ j, j ≠ k → t.ethRingAt j = s.ethRingAt j) ∧
             Holds t [(buf, f.take size), (at_ + 8, leBytes 2 f.length ++ leBytes 1 (flags / 4 * 4 + 2) ++
               leBytes 1 (bit fc + 2 * bit (decide (size < f.length))))] ∧
             t.host.plic = (if bitAt flags 2 then setBit s.host.plic (19 + port.toNat) true else s.host.plic)))) ∧
  (∀ (port : BitVec 2) (ring : BitVec 3) (s : State),
     let k := ethKey port.toNat false ring.toNat
     ((port.toNat = 3 ∨ s.ethRingAt k = none) → exec (.descriptorPoll port false ring) s = .next s) ∧
     ∀ r, port.toNat < 3 → s.ethRingAt k = some r →
       let at_ := r.base + 16 * r.cursor
       let d := s.readRun .ethernet at_ 16
       let n := bfld d 8 2
       let buf := bfld d 0 6
       let flags := bfld d 10 1
       (r.due s.tick = false → exec (.descriptorPoll port false ring) s = .next s) ∧
       (r.due s.tick = true → (∀ m, m < 16 → s.sealedNow m = false) → areaOk at_ 16 = true →
         (bitAt flags 0 = false → ∃ t, exec (.descriptorPoll port false ring) s = .next t ∧ OnlyRecords s t ∧ t.orr = s.orr ∧
           t.ethRingAt k = some { r with polled := some s.tick, moving := false } ∧ t.host.txFrame = s.host.txFrame ∧
           t.gddr = s.gddr) ∧
         (bitAt flags 0 = true → areaOk buf n = true → s.spanEv .ethernet none at_ 16 = [] →
           let f := sget (fun _ => []) s.host.txFrame k ++ s.readRun .ethernet buf n
           ∃ t, exec (.descriptorPoll port false ring) s = .next t ∧ OnlyRecords s { t with outbox := s.outbox } ∧ t.orr = s.orr ∧
             t.ethRingAt k = some { r with polled := some s.tick, moving := true, cursor := (r.cursor + 1) % r.count } ∧
             Holds t [(at_ + 8, leBytes 2 n ++ leBytes 1 (flags / 2 * 2) ++ leBytes 1 0)] ∧
             t.outbox = (if bitAt flags 1 then s.outbox ++ [.frame port f] else s.outbox) ∧
             sget (fun _ => []) t.host.txFrame k = (if bitAt flags 1 then [] else f))))

/-! ## Power, clocks, temperature, reset (16) -/

/-- 16 R476–R480: V_in is sampled every 94 ticks. After the release of hart 0, a sample that is, with the one before it,
below thresholds enters every level whose threshold lies above both, each in turn; P2 sends the held notice, P3 lets a
product in progress end and prunes the ports, P4 has running contexts redo their steps and clears the active sites'
cores, P5 begins the orderly off. Before that release V_in below 46.0 V switches every domain off (R470). 16 R476–R479,
11 R333: a level is left, one at a time, once V_in has stayed at its leave value for 94,000 ticks, and what it did is
undone: from P2 the held notice is taken back, from P3 compute goes on, the ports widen at the first step boundary (at
once where no step runs) and a waiting warm reset begins, from P4 the LOADs of the contexts to be redone are replayed.
P5 is never left; before that time, or without power, nothing changes. -/
def Obligations.PruningOrder : Prop :=
  (∀ (v : Half) (s : State),
     let worst := max v.toNat s.pwr.vin.toNat
     let lv := s.pwr.level.toNat
     let onlyVin (t : State) : Prop := { t with pwr := s.pwr } = s ∧ { t.pwr with
       vin := s.pwr.vin, vinAt := s.pwr.vinAt, overSince := s.pwr.overSince, aboveSince := s.pwr.aboveSince } = s.pwr
     (sampleDue s.pwr.vinAt 94 s.tick = false → exec (.vinSample v) s = .next s) ∧
     (sampleDue s.pwr.vinAt 94 s.tick = true →
     (s.powered = false → (s.starting = false ∨ 4600 ≤ v.toNat) → ∃ t, exec (.vinSample v) s = .next t ∧ onlyVin t ∧ t.pwr.vin = v) ∧
     (s.powered = true → lv ≤ 5 → ∃ t, exec (.vinSample v) s = .next t ∧ t.pwr.vin = v ∧
       t.pwr.level.toNat = max lv (enterAt.filter (fun th => decide (worst < th))).length) ∧
     (s.powered = true → (∀ th, enterAt[lv]? = some th → th ≤ worst) → ∃ t, exec (.vinSample v) s = .next t ∧
       onlyVin t) ∧
     (∀ th, s.powered = true → enterAt[lv]? = some th → worst < th → (∀ lo, enterAt[lv + 1]? = some lo → lo ≤ worst) →
       ∃ t, exec (.vinSample v) s = .next t ∧ t.pwr.level.toNat = lv + 1 ∧ t.pwr.cause.getLsbD 0 = true ∧
         (lv < 4 → t.pwr.levelCnt = s.pwr.levelCnt + 1) ∧
         (lv = 0 → { t with pwr := s.pwr } = s) ∧
         (lv = 1 → { t with pwr := s.pwr, outbox := s.outbox } = s ∧ t.outbox = s.outbox ++ [.held s.fab.addr true]) ∧
         (lv = 2 → { t with pwr := s.pwr, cores := s.cores, ports := s.ports, fab := s.fab } = s ∧
           t.fab = { s.fab with widen := false } ∧
           (∀ k, t.core k = { s.core k with me := { (s.core k).me with finishing := (s.core k).me.ready } }) ∧
           ∀ p, p < 16 → (t.port p).pruned = true) ∧
         (lv = 3 → t.pwr.redo = s.pwr.redo ||| s.maskRunning ∧ t.gis.arrive = [] ∧
           ((∀ n, areaOk (s.ctx n).desc.policyAddr 128 = true) → ∀ k, t.core k = { Core.init with
             ctx := (s.core k).ctx, me := { Me.init with colfail := (s.core k).me.colfail, test := (s.core k).me.test } })) ∧
         (lv = 4 → OnlyRecords s { t with pwr := s.pwr })) ∧
     (s.starting = true → v.toNat < 4600 → ∃ t, exec (.vinSample v) s = .next t ∧ t.pwr.off = true ∧ t.part = s.part ∧
       t.flash = s.flash ∧ t.pwr.vin = v))) ∧
  (∀ (s : State),
     let n := s.pwr.level.toNat
     ((n = 0 ∨ 5 ≤ n ∨ s.powered = false ∨ s.pwr.aboveSince[n - 1]? = some none) → exec .pruneLevelExit s = .next s) ∧
     ∀ since : DWord, s.powered = true → 1 ≤ n → n ≤ 4 → s.pwr.aboveSince[n - 1]? = some (some since) →
       (s.tick.toNat < since.toNat + 94000 → exec .pruneLevelExit s = .next s) ∧
       (since.toNat + 94000 ≤ s.tick.toNat → ∃ t, exec .pruneLevelExit s = .next t ∧ t.pwr.level.toNat = n - 1 ∧
         t.pwr.cause.getLsbD 1 = true ∧
         (n = 1 → { t with pwr := s.pwr } = s) ∧
         (n = 2 → { t with pwr := s.pwr, outbox := s.outbox } = s ∧
           t.outbox = (if s.orr.hold then s.outbox else s.outbox ++ [.held s.fab.addr false])) ∧
         (n = 3 → s.warm ≠ .waiting → { t with pwr := s.pwr, cores := s.cores, ports := s.ports, fab := s.fab } = s ∧
           (∀ k, t.core k = { s.core k with me := { (s.core k).me with finishing := false } }) ∧
           ((∀ m, m < 16 → (s.ctx m).atEnd = true) → t.fab = { s.fab with widen := false } ∧
             ∀ p, p < 16 → (t.port p).pruned = false) ∧
           ((∃ m, m < 16 ∧ (s.ctx m).atEnd = false) → t.fab = { s.fab with widen := true } ∧ t.ports = s.ports)) ∧
         (n = 3 → s.warm = .waiting → t.warm = .resetting) ∧
         (n = 4 → t.pwr.redo = s.pwr.redo ∧ t.ctxs = s.ctxs ∧
           ((∀ m, m < 16 → ∀ e ∈ (s.ctx m).loads, areaOk e.src e.len = true) → t.sites = s.sites) ∧
           (∀ k, (t.core k).sp = (s.core k).sp) ∧
           ∀ k, (∀ m, (s.core k).ctx = some m → s.pwr.redo.getLsbD m.toNat = false) → t.core k = s.core k)))

/-- 16 R469, R473, R480: overvoltage that has lasted 940 ticks begins the orderly off, as does a second phase lost by a
domain of the dies; a site's second lost phase is a site fault. Each phase is counted. ORDERLY_OFF then has every domain
off: the part, its fuses, the boot flash and the failures of its GDDR7 devices (12 R375) outlast it, and no context is
left. 16 R474: every 940 ticks the input power is sampled. Each sample enters the 10 µs average of the last ten; while
the average exceeds PWR_CAP the governor cap falls by 1 at once and again every 1,880 ticks, never below 1; once it has
been 1,000 W below for ten samples the cap rises by 1, up to 8; else it stands. Nothing but the governor's own state
changes. 16 R481: a sample at warn sets warn; one at throttle sets throttle with THERM_N low; one at 110 °C sets crit
and begins the orderly off. Every 94,000 ticks the thermal cap falls by 1, down to 0, while a sensor stands at throttle,
and rises by 1, up to 8, once all are 5 °C below it, THERM_N then being released unless crit was reached. A sensor of a
module that is off, beyond the 68, or sampled less than 9,400 ticks ago, gives nothing. 16 R483, R470, 11 R333: REFCLK's
loss starts holdover with refclk_loss, urgent; its return within 10 ms ends holdover with refclk_back and nothing stops;
ten milliseconds without it, or a lost lock of the root PLL, begin the orderly off; a SerDes PLL takes its own port
down. Before the release of hart 0 the loss of REFCLK switches every domain off. -/
def Obligations.PowerHeatAndClocks : Prop :=
  (∀ (domain : BitVec 7) (s : State),
     let d := domain.toNat
     let n := sget (fun _ => 0) s.pwr.phases d
     (∀ since, s.pwr.overSince = some since → s.pwr.off = false → since.toNat + 940 ≤ s.tick.toNat →
       ∃ t, exec .overvoltage s = .next t ∧ t.pwr.level = 5 ∧ t.pwr.cause.getLsbD 2 = true ∧
         OnlyRecords s { t with pwr := s.pwr }) ∧
     (∀ since, s.pwr.overSince = some since → s.tick.toNat < since.toNat + 940 → exec .overvoltage s = .next s) ∧
     ((s.pwr.overSince = none ∨ s.pwr.off = true) → exec .overvoltage s = .next s) ∧
     ((80 ≤ d ∨ s.pd d = .off) → exec (.phaseRetire domain) s = .next s) ∧
     (d < 80 → s.pd d ≠ .off → ∃ t, exec (.phaseRetire domain) s = .next t ∧
       OnlyRecords s { t with pwr := s.pwr, sites := s.sites } ∧ sget (fun _ => 0) t.pwr.phases d = n + 1 ∧
       t.pwr.phaseCnt = s.pwr.phaseCnt + 1 ∧ t.pwr.phaseDom = domain ∧ t.pwr.cause.getLsbD 3 = true ∧
       (n ≠ 1 → t.sites = s.sites ∧ t.pwr.level = s.pwr.level) ∧
       (n = 1 → d < 64 → (t.site d).cause.getLsbD 4 = true ∧ (s.role d = .active → t.pd d = .fault) ∧ t.pwr.level = s.pwr.level ∧
         t.gis.urgent = s.gis.urgent ++ [{ leaf := .site d, bit := 4, tick := s.tick, arg := 0 }]) ∧
       (n = 1 → 64 ≤ d → t.pwr.level = 5 ∧ t.pwr.cause.getLsbD 4 = true)) ∧
     (s.pwr.level ≠ 5 → exec .orderlyOff s = .next s) ∧
     (s.pwr.level = 5 → ∃ t, exec .orderlyOff s = .next t ∧ t.pwr.off = true ∧ t.part = s.part ∧ t.flash = s.flash ∧
       t.sec.owners = s.sec.owners ∧ (t.sec.svnS1, t.sec.svnLd, t.sec.svnOrr) = (s.sec.svnS1, s.sec.svnLd, s.sec.svnOrr) ∧
       t.host.hart0 = false ∧ t.clk.locked = false ∧ t.ctxs = [] ∧ (∀ m, t.seal m = SealSt.init) ∧ t.tick = 0 ∧
       t.pins = { s.pins with syncOut := false } ∧ t.therm.thermN = !s.therm.critical ∧ t.pending = s.pending ∧
       ∀ x, x < 4 → (t.xd x).mc = (s.xd x).mc.failedOnly)) ∧
  (∀ (watts : Half) (s : State),
     let p := s.pwr
     let hist := (watts.toNat :: p.hist).take 10
     let above := p.cap.toNat < hist.sum / 10
     let low := hist.sum / 10 + 1000 < p.cap.toNat
     let again := p.hist.sum / 10 ≤ p.cap.toNat ∨ p.govLow.toNat + 1880 ≤ s.tick.toNat
     (sampleDue p.govAt 940 s.tick = false → exec (.governorTick watts) s = .next s) ∧
     (sampleDue p.govAt 940 s.tick = true → ∃ t, exec (.governorTick watts) s = .next t ∧ t.pwr.govAt = some s.tick ∧ { t with pwr := s.pwr } = s ∧ t.pwr.p1 = watts ∧ t.pwr.hist = hist ∧
       t.pwr.level = p.level ∧ t.pwr.thermCap = p.thermCap ∧
       (above → again → 1 < p.govCap.toNat → t.pwr.govCap = p.govCap - 1 ∧ t.pwr.govLow = s.tick ∧ t.pwr.cause.getLsbD 5 = true) ∧
       (above → (¬ again ∨ p.govCap.toNat ≤ 1) → t.pwr.govCap = p.govCap ∧ t.pwr.cause = p.cause) ∧
       (low → 9 ≤ p.belowCap → p.govCap.toNat < 8 → t.pwr.govCap = p.govCap + 1 ∧ t.pwr.belowCap = 0) ∧
       (low → p.belowCap < 9 → t.pwr.govCap = p.govCap ∧ t.pwr.belowCap = p.belowCap + 1) ∧
       (¬ above → ¬ low → t.pwr.govCap = p.govCap ∧ t.pwr.belowCap = 0))) ∧
  (∀ (sensor : BitVec 7) (c : Byte) (s : State),
     let n := sensor.toNat
     let due := sampleDue (sget (fun _ => none) s.therm.sampled n) 9400 s.tick
     ((68 ≤ n ∨ s.pwr.off = true ∨ due = false) → exec (.thermalSample sensor c) s = .next s) ∧
     (n < 68 → s.pwr.off = false → due = true → ∃ t, exec (.thermalSample sensor c) s = .next t ∧
       OnlyRecords s { t with therm := s.therm, pwr := s.pwr } ∧ t.therm.temp n = c ∧
       (∀ m, m ≠ n → t.therm.temp m = s.therm.temp m) ∧ t.pwr.thermCap = s.pwr.thermCap ∧
       t.therm.cause = s.therm.cause ||| (if s.therm.warnC ≤ c then 1 else 0) ||| (if s.therm.throttleC ≤ c then 2 else 0) |||
         (if 110 ≤ c then 4 else 0) ∧
       t.therm.thermN = (if s.therm.throttleC ≤ c ∨ 110 ≤ c then false else s.therm.thermN) ∧
       (c < 110 → t.pwr = s.pwr ∧ t.gis = s.gis) ∧ (110 ≤ c → t.pwr.level = 5 ∧ t.therm.critical = true)) ∧
     (s.tick.toNat < s.therm.lastStep.toNat + 94000 → exec .throttleStep s = .next s) ∧
     (s.therm.lastStep.toNat + 94000 ≤ s.tick.toNat → ∃ t, exec .throttleStep s = .next t ∧
       { t with therm := s.therm, pwr := s.pwr } = s ∧ { t.pwr with thermCap := s.pwr.thermCap } = s.pwr ∧
       t.therm.temps = s.therm.temps ∧ t.therm.lastStep = s.tick ∧
       ((∃ m, m < 68 ∧ s.therm.throttleC ≤ s.therm.temp m) → t.pwr.thermCap.toNat = s.pwr.thermCap.toNat - 1 ∧
         t.therm.thermN = s.therm.thermN) ∧
       ((∀ m, m < 68 → (s.therm.temp m).toNat + 5 ≤ s.therm.throttleC.toNat) → s.pwr.thermCap.toNat ≤ 8 →
         t.pwr.thermCap.toNat = min 8 (s.pwr.thermCap.toNat + 1) ∧ t.therm.thermN = !s.therm.critical) ∧
       ((∀ m, m < 68 → s.therm.temp m < s.therm.throttleC) →
         (∃ m, m < 68 ∧ s.therm.throttleC.toNat < (s.therm.temp m).toNat + 5) → t.pwr = s.pwr ∧
         t.therm.thermN = s.therm.thermN))) ∧
  (∀ (port : BitVec 4) (s : State),
     let due := s.clk.holdStart.toNat + holdoverMax
     (s.clk.refclk = false → exec .refclkLoss s = .next s) ∧
     (s.clk.refclk = true → s.pwr.off = false → s.starting = false → ∃ t, exec .refclkLoss s = .next t ∧
       { t with clk := s.clk, gis := s.gis } = s ∧ t.clk = { s.clk with
         refclk := false, holdover := true, holdStart := s.tick, holdTicks := 0, cause := s.clk.cause ||| 1 } ∧
       t.gis = { s.gis with urgent := s.gis.urgent ++ [{ leaf := .clk, bit := 0, tick := s.tick, arg := 0 }] }) ∧
     (s.clk.refclk = true → s.starting = true → ∃ t, exec .refclkLoss s = .next t ∧ t.pwr.off = true ∧ t.clk.refclk = false ∧
       t.part = s.part ∧ t.flash = s.flash) ∧
     (s.clk.refclk = false → s.pwr.off = false → s.clk.holdover = true → s.tick.toNat < due → ∃ t, exec .refclkReturn s = .next t ∧
       { t with clk := s.clk } = s ∧ t.clk = { s.clk with
         refclk := true, holdover := false, holdTicks := (s.tick - s.clk.holdStart).setWidth 32, cause := s.clk.cause ||| 2 }) ∧
     (s.clk.refclk = false → s.pwr.off = true → exec .refclkReturn s = .next { s with clk := { s.clk with refclk := true } }) ∧
     (s.clk.refclk = true → s.pwr.off = true → exec .refclkLoss s = .next { s with clk := { s.clk with refclk := false } }) ∧
     ((s.clk.refclk = true ∨ s.pwr.off = false ∧ (s.clk.holdover = false ∨ due ≤ s.tick.toNat)) →
       exec .refclkReturn s = .next s) ∧
     ((s.clk.holdover = false ∨ s.tick.toNat < due ∨ s.pwr.off = true ∨ s.pwr.level = 5) → exec .holdoverExpiry s = .next s) ∧
     (s.clk.holdover = true → due ≤ s.tick.toNat → s.pwr.off = false → s.pwr.level ≠ 5 →
       ∃ t, exec .holdoverExpiry s = .next t ∧ OnlyRecords s { t with pwr := s.pwr } ∧ t.pwr = { s.pwr with level := 5 }) ∧
     (s.pwr.off = true → exec .pllUnlock s = .next s) ∧
     (s.pwr.off = false → ∃ t, exec .pllUnlock s = .next t ∧ OnlyRecords s { t with pwr := s.pwr, clk := s.clk } ∧
       t.pwr.level = 5 ∧ t.clk = { s.clk with locked := false, cause := s.clk.cause ||| 4 }) ∧
     (s.pwr.off = true → exec (.serdesPll port) s = .next s) ∧
     (s.pwr.off = false → ∃ t, exec (.serdesPll port) s = .next t ∧ t.clk = { s.clk with cause := s.clk.cause ||| 8 } ∧
       t.cores = s.cores ∧ t.sites = s.sites ∧ (∀ p, p ≠ port.toNat → t.port p = s.port p) ∧
       (t.port port.toNat).state = 5))

/-- 16 R485–R487, 17 R498: RST_N low for 10 µs is a cold reset, for less than 1 µs nothing, between them either; PWRGD's
fall begins the orderly off after the release of hart 0, a warm reset included, and switches every domain off before it.
Only a host hart's
write of SYS_RST with its key begins a warm reset, which waits at P3 or worse; it destroys every context and closure and
resets the orrery and the fabric, but keeps the graft map, the measurements, the boot flash and the beds of unsealed
contexts. 16 R470, R488, R489, 13 R389, 14 R426, R428: with V_in at 46.0 V and REFCLK present, COLD_START runs stage-1,
trains GDDR7, tests the cores and releases hart 0 with its boot record: the domains are on, the counter starts at 0, M0,
M1 and M2 are each extended once, the memories are zero, no context exists; a device that fails training is marked
failed, two on one die stop the start. With no slot that can be run, boot_fail is set with an Almanac entry and hart 0
is not released. Without V_in or REFCLK, or once hart 0 runs, nothing happens. -/
def Obligations.ResetsAndStart : Prop :=
  (∀ (low : Nat) (req : Requester) (value : DWord) (s : State),
     (low < 940 → exec (.rstN low) s = .next s) ∧
     (940 ≤ low → ∃ t, exec (.rstN low) s = .next t ∧
       (t = { s with freeCtr := s.freeCtr + 1 } ∧ low < 9400 ∨ t.pwr.off = true ∧ t.part = s.part ∧ t.flash = s.flash ∧
         t.sec.owners = s.sec.owners ∧ t.ctxs = [] ∧ t.host.hart0 = false ∧ t.sec.policy = none)) ∧
     ((s.host.hart0 = true ∨ s.warm = .resetting) → s.pwr.off = false → s.pwr.level ≠ 5 → ∃ t, exec .pwrgdFall s = .next t ∧
       OnlyRecords s { t with pwr := s.pwr, pins := s.pins } ∧ t.pwr = { s.pwr with level := 5 } ∧
       t.pins = { s.pins with pwrgd := false }) ∧
     (s.host.hart0 = false → s.warm ≠ .resetting → ∃ t, exec .pwrgdFall s = .next t ∧ t.pwr.off = true ∧ t.pins = { s.pins with pwrgd := false, syncOut := false } ∧
       t.part = s.part ∧ t.flash = s.flash) ∧
     ((req ≠ .host ∨ value.extractLsb' 0 8 ≠ 0xA5 ∨ value.getLsbD 8 = false ∨ s.warm ≠ .idle) →
       exec (.sysRst req value) s = .next s) ∧
     (value.extractLsb' 0 8 = 0xA5 → value.getLsbD 8 = true → s.warm = .idle →
       (3 ≤ s.pwr.level.toNat → exec (.sysRst .host value) s = .next { s with warm := .waiting }) ∧
       (s.pwr.level.toNat < 3 → ∃ t, exec (.sysRst .host value) s = .next t ∧ t.warm = .resetting ∧ t.warmLast = true ∧
         t.ctxs = [] ∧ (∀ n, t.seal n = SealSt.init) ∧ t.orr = Orr.init ∧ t.fab = Fab.init ∧ t.host.hart0 = false ∧
         t.part = s.part ∧ t.grid = s.grid ∧ t.flash = s.flash ∧ t.tick = s.tick ∧ t.sec.meas = s.sec.meas ∧
         (∀ x, x < 4 → (t.xd x).mc = { (s.xd x).mc with selfRefresh := true }) ∧
         (∀ p, (s.port p).state = 5 → (t.port p).state = 5) ∧
         (∀ p, (s.port p).tx.narrow = true → (t.port p).tx = (s.port p).tx) ∧
         t.sec.owners = s.sec.owners ∧ (∀ k, k ≠ 0 → t.slotGen k = 0) ∧ t.slotGen 0 = s.slotGen 0 ∧
         (∀ k, (t.core k).ctx = none ∧ (t.core k).sp = Core.init.sp ∧
           ((∀ n, areaOk (s.ctx n).desc.policyAddr 128 = true) → (t.core k).me.colfail = (s.core k).me.colfail)) ∧
         ((∀ n, s.sealedNow n = false) → (∀ n, areaOk (s.ctx n).desc.policyAddr 128 = true) → t.sites = s.sites)))) ∧
  (∀ (badDevs : List (Nat × Nat)) (recOk : Bool) (s : State),
     let hostOk := 1 ≤ s.flash.hostGib ∧ s.flash.hostBase + s.flash.hostGib * 2 ^ 30 ≤ fwBase
     let cold := s.warm = .resetting → s.pwr.off = true
     let soundRecords := (∀ x ∈ s.flash.colRecord, (onesOf 130 x.2.toNat).length < 11) ∧
       ∀ p, (onesOf 34 (sget (fun _ => Site.init) s.flash.sites p).failed.toNat).length ≤ 2
     let soundNow := ∀ p, p < 64 → s.role p = .active → (onesOf 34 (s.site p).failed.toNat).length ≤ 2 ∧
       ∀ c, c < 34 → (onesOf 130 (s.core (64 * p + c)).me.colfail.toNat).length < 11
     let stage1 := s.bootSlot false s.flash.s1Sel s.flash.s1A s.flash.s1B
     let loader := s.bootSlot true s.flash.ldSel s.flash.ldA s.flash.ldB
     let noFailed := ∀ x, x < 4 → (s.xd x).mc.devFailed = 0 ∧ (s.xd x).mc.doubleFault = false
     let stops (t : State) : Prop := t.host.hart0 = false ∧ t.pwr.off = false ∧ t.part = s.part ∧ t.flash = s.flash
     (cold → (s.host.hart0 = true ∨ s.pwr.vin.toNat < 4600 ∨ s.clk.refclk = false) →
       ∀ sites cols, exec (.coldStart sites badDevs cols recOk) s = .next s) ∧
     (cold → s.host.hart0 = false → 4600 ≤ s.pwr.vin.toNat → s.clk.refclk = true →
       (∀ x y, stage1 = some x → loader = some y → hostOk → soundRecords → noFailed → badDevs.length ≤ 1 →
         ∃ t b, exec (.coldStart [] badDevs [] recOk) s = .next t ∧ t.host.hart0 = true ∧ t.pwr.off = false ∧
           t.clk.locked = true ∧ t.tick = 0 ∧ t.ctxs = [] ∧ t.part = s.part ∧ t.flash = s.flash ∧ t.host.boot = some b ∧
           b.a0 = 0 ∧ b.partId = s.part.id.toNat ∧ b.map = t.grid.map ∧ b.gen = t.grid.gen.toNat ∧
           (b.hostBase, b.hostGib) = (s.flash.hostBase, s.flash.hostGib) ∧
           s.flash.hostBase ≤ b.a1 ∧ b.a1 + 4096 ≤ s.flash.hostBase + s.flash.hostGib * 2 ^ 30 ∧
           t.sec.meas.getD 0 [] = extend (List.replicate 64 0) Config.romDigest ∧
           t.sec.meas.getD 1 [] = extend (List.replicate 64 0) (cut x.2.bytes 64 64) ∧
           t.sec.meas.getD 2 [] = extend (List.replicate 64 0) (cut y.2.bytes 64 64) ∧
           t.sec.bootS1 = x.1 ∧ t.sec.bootLd = y.1 ∧ t.sec.owners = s.sec.owners ∧
           (∀ p a, (t.site p).bed.get a = 0) ∧ (∀ k a, (t.core k).sp.get a = 0) ∧
           (∀ d ∈ badDevs, d.1 < 4 → d.2 < 13 → (t.xd d.1).mc.devFailed.getLsbD d.2 = true) ∧
           (∀ p, p < 64 → t.role p = .active → ∀ c, c < 34 → (t.core (64 * p + c)).me.bcastActive = false ∧
             (t.core (64 * p + c)).me.test = 0)) ∧
       ((∃ x, x < 4 ∧ (s.xd x).mc.doubleFault = true) → stage1 ≠ none → ∀ sites cols,
         ∃ t, exec (.coldStart sites badDevs cols recOk) s = .next t ∧ stops t) ∧
       (stage1 ≠ none → loader = none → soundRecords → noFailed → badDevs = [] →
         ∃ t, exec (.coldStart [] badDevs [] recOk) s = .next t ∧ stops t ∧ t.sec.cause.getLsbD 4 = true) ∧
       (stage1 = none → ∀ sites cols, ∃ t, exec (.coldStart sites badDevs cols recOk) s = .next t ∧ stops t ∧
           t.sec.cause.getLsbD 4 = true ∧ t.gis.urgent.length = 1 ∧ t.almHead = 1)) ∧
     (s.warm = .resetting → hostOk → s.pwr.off = false → s.trainStops = false → badDevs = [] → soundNow → ∀ y,
       loader = some y → ∃ t, exec (.coldStart [] badDevs [] recOk) s = .next t ∧ t.warm = .idle ∧ t.host.hart0 = true ∧
         t.grid = s.grid ∧ t.tick = s.tick ∧ (∀ p, (t.site p).bed = (s.site p).bed) ∧ t.flash = s.flash ∧
         t.sec.meas.getD 2 [] = extend (s.sec.meas.getD 2 (List.replicate 64 0)) (cut y.2.bytes 64 64) ∧
         ∀ x, x < 4 → (t.xd x).mc.selfRefresh = false))

/-! ## Registers, reset, the tick, the invariant -/

/-- 00 R12, R13, 15 R462: writing a leaf cause register at its address clears exactly the bits written as 1 and no
other; a write to an address of no register block, or to a hole, changes nothing, and a write to an absent site drops
into SYS_MAP_FAULT. Limits that registers keep: 03 R97 tol_exp, 07 R224 SE_HQ_WAIT_LIMIT and slot reserve, 10 R324
TR_GRACE and TR_FOLD, 12 R381 repair threshold, 13 R421 heartbeat and watchdog limits, 16 R490 PWR_CAP, R492 the
temperature thresholds: a write outside its range stores the value the manual names, and the registers beside it stand.
13 R385, 14 R432, 15 R449, 11 R361: registers that one class of requester alone writes: a host write of SYS_HALT, of
ORR_HEALTH_CONFIRM, of receive window 15 or of the orrery's request channel is ignored, and so is an orrery write of the
host's channel; go takes the record of a code the channel serves, ends another with result 1, and raises req_busy while
the channel is busy. A register write into TR_HANDOFF or FAB_SEND, which takes no 64 bytes, is malformed (10 R307, 11
R340). -/
def Obligations.RegisterWrites : Prop :=
  ((∀ (req : Requester) (v : DWord) (s : State) (lf : Leaf), logicalReq req = true → (∀ n, n < 16 → s.sealedNow n = false) →
     (match lf with
       | .cc k | .me k | .ve k | .se k => ∃ l c, s.logicalOf (k / 64) = some l ∧ s.physOf l = some (k / 64) ∧ l < 64 ∧ s.whoIs k = (l, c) ∧ c < 32 ∧
           s.keyOf (k / 64) c = k ∧ s.dark (k / 64) = false
       | .bed p | .site p => ∃ l, s.logicalOf p = some l ∧ l < 64 ∧ s.physOf l = some p
       | .mc x | .fab x | .tr x | .xdl x => x < 4
       | _ => True) →
     ∃ t, exec (.registerWrite req (BitVec.ofNat 48 (s.leafAddr lf)) v) s = .next t ∧
       BitVec.ofNat 64 (t.leaf lf) = BitVec.ofNat 64 (s.leaf lf) &&& ~~~v ∧
       (∀ lf', lf' ≠ lf → t.leaf lf' = s.leaf lf') ∧ t.gis.urgent = s.gis.urgent ∧ t.ctxs = s.ctxs ∧ t.gddr = s.gddr) ∧
   (∀ (req : Requester) (a : Addr) (v : DWord) (s : State), (∀ n, n < 16 → s.sealedNow n = false) →
     ((∀ f off, place a.toNat ≠ .siteReg f off) → (∀ x off, place a.toNat ≠ .xdReg x off) →
       (∀ off, place a.toNat ≠ .sys off) → exec (.registerWrite req a v) s = .next s) ∧
     (∀ f off, place a.toNat = .siteReg f off → s.siteField (logicalReq req) f = none → s.gis.mapHole = false →
       exec (.registerWrite req a v) s = .next { s with gis := { s.gis with mapHole := true, mapAddr := a } }))) ∧
  (∀ (v : DWord) (s : State), (∀ n, n < 16 → s.sealedNow n = false) →
     let n := v.toNat
     (∀ l c k, s.key l c = some k →
       let a := siteRegBase + l.toNat * 2 ^ 24 + c.toNat * 0x40000
       (∃ t, exec (.registerWrite .host (BitVec.ofNat 48 (a + 0x10000)) v) s = .next t ∧ OnlyCore k s t ∧
         { t.core k with me := (s.core k).me } = s.core k ∧ (t.core k).me.bcastReq = v.getLsbD 0 ∧ (t.core k).me.chkEn = v.getLsbD 1 ∧
         (t.core k).me.tolExp = (if 6 ≤ n / 16 % 16 ∧ n / 16 % 16 ≤ 14 then v.extractLsb' 4 4 else 0xA) ∧
         (t.core k).me.queue = (s.core k).me.queue ∧ (t.core k).me.bcastActive = (s.core k).me.bcastActive) ∧
       (∃ t, exec (.registerWrite .host (BitVec.ofNat 48 (a + 0x30000)) v) s = .next t ∧ OnlyCore k s t ∧
         t.core k = { s.core k with se := { (s.core k).se with
           pause := v.getLsbD 0, slotReserve := BitVec.ofNat 7 (min 96 (n / 256 % 128)) } }) ∧
       (∃ t, exec (.registerWrite .host (BitVec.ofNat 48 (a + 0x30028)) v) s = .next t ∧ OnlyCore k s t ∧
         t.core k = { s.core k with se := { (s.core k).se with waitLimit := BitVec.ofNat 40 (max 1880 (n % 2 ^ 40)) } })) ∧
     (∀ l : SiteNo, ∀ p, s.physOf l.toNat = some p →
       ∃ t, exec (.registerWrite .host (BitVec.ofNat 48 (siteRegBase + l.toNat * 2 ^ 24 + 0x900000)) v) s = .next t ∧
         { t with sites := s.sites } = s ∧ (∀ j, j ≠ p → t.site j = s.site j) ∧ t.site p = { s.site p with
           scrubEn := v.getLsbD 0, repairThr := BitVec.ofNat 4 (max 1 (n / 16 % 16)) }) ∧
     (∀ x, x < 4 → ∃ t u, exec (.registerWrite .host (BitVec.ofNat 48 (xdRegBase + x * 2 ^ 24 + 0x400028)) v) s = .next t ∧
       exec (.registerWrite .host (BitVec.ofNat 48 (xdRegBase + x * 2 ^ 24 + 0x400030)) v) s = .next u ∧
       { t with xds := s.xds } = s ∧ (∀ y, y ≠ x → t.xd y = s.xd y) ∧
       t.xd x = { s.xd x with tr := { (s.xd x).tr with grace := BitVec.ofNat 32 (max 9400 (n % 2 ^ 32)) } } ∧
       { u with xds := s.xds } = s ∧ (∀ y, y ≠ x → u.xd y = s.xd y) ∧
       u.xd x = { s.xd x with tr := { (s.xd x).tr with fold := BitVec.ofNat 3 (min 4 (n % 8)) } }) ∧
     (exec (.registerWrite .host 0x320000007030 v) s =
       .next { s with orr := { s.orr with hbLimit := BitVec.ofNat 40 (max 9400000 (n % 2 ^ 40)) } }) ∧
     (exec (.registerWrite .host 0x3200000070A0 v) s =
       .next { s with orr := { s.orr with wdogLimit := BitVec.ofNat 32 (max 4700 (n % 2 ^ 32)) } }) ∧
     (exec (.registerWrite .host 0x32000000A018 v) s =
       .next { s with pwr := { s.pwr with cap := BitVec.ofNat 16 (max 4000 (min 12500 (n % 2 ^ 16))) } }) ∧
     (∃ t, exec (.registerWrite .host 0x32000000B800 v) s = .next t ∧ { t with therm := s.therm } = s ∧
       t.therm.throttleC.toNat = (if 80 ≤ n / 256 % 256 ∧ n / 256 % 256 ≤ 105 then n / 256 % 256 else 100) ∧
       t.therm.warnC.toNat = min (n % 256) t.therm.throttleC.toNat)) ∧
  (∀ (oc : BitVec 5) (v : DWord) (s : State), (∀ n, n < 16 → s.sealedNow n = false) →
     (∀ a ∈ [(0x320000009028 : Addr), 0x320000007090, 0x3200000041F0, 0x3200000041F8, 0x320000008030, 0x320000008038],
       exec (.registerWrite .host a v) s = .next s) ∧
     (∀ a ∈ [(0x320000008020 : Addr), 0x320000008028], exec (.registerWrite (.orrery oc) a v) s = .next s) ∧
     (exec (.registerWrite .host 0x320000008020 v) s =
       .next { s with sec := { s.sec with ch0 := { s.sec.ch0 with addr := v.setWidth 48 } } }) ∧
     (v.getLsbD 0 = true →
       let a := s.sec.ch0.addr.toNat
       let u := s.secSeen a 64
       let q := readReq (s.secRead a 64)
       (s.sec.ch0.busy = true → ∃ t, exec (.registerWrite .host 0x320000008028 v) s = .next t ∧ { t with sec := s.sec } = s ∧
         t.sec.ch0 = s.sec.ch0 ∧ t.sec.ch1 = s.sec.ch1 ∧ t.sec.cause = s.sec.cause ||| 2) ∧
       (s.sec.ch0.busy = false → a + 64 ≤ gddrBytes → 1 ≤ q.code → q.code ≤ 9 →
         exec (.registerWrite .host 0x320000008028 v) s = .next { u with sec := { u.sec with
           ch0 := { s.sec.ch0 with busy := true, record := s.secRead a 64 } } }) ∧
       (s.sec.ch0.busy = false → (gddrBytes < a + 64 ∨ q.code = 0 ∨ 9 < q.code) →
         exec (.registerWrite .host 0x320000008028 v) s = .next { u with sec := { u.sec with
           ch0 := { s.sec.ch0 with busy := false, result := 1, seq := BitVec.ofNat 32 q.seq } } })) ∧
     (∀ x off, x < 4 → off < 0x40 →
       (∃ t, exec (.registerWrite .host (BitVec.ofNat 48 (xdRegBase + x * 2 ^ 24 + 0x401000 + off)) v) s = .next t ∧
         { t with xds := s.xds, gis := s.gis } = s ∧ (t.xd (s.dieOf x)).tr.cause.getLsbD 1 = true ∧
         (t.xd x).tr.totals = (s.xd x).tr.totals) ∧
       (∃ t, exec (.registerWrite .host (BitVec.ofNat 48 (xdRegBase + x * 2 ^ 24 + 0x101000 + 2 * off)) v) s = .next t ∧
         { t with xds := s.xds, gis := s.gis } = s ∧ (t.xd x).fab.cause.getLsbD 9 = true ∧
         (t.xd x).fab.sends = (s.xd x).fab.sends)) ∧
     (∃ t, exec (.registerWrite (.orrery oc) 0x320000009028 v) s = .next t ∧
       exec (.halt (.orrery oc) (v.extractLsb' 0 16) (v.extractLsb' 16 8)) s = .next t))

/-- The reset values that the register tables give (03 R97–R99, 04 R142, 07 R223–R225, 08 R264, 10 R324, R326, 11 R358,
R360, 12 R381, R384, 13 R421, R422, 14 R442, 15 R465, 16 R490–R492), as a host hart reads them after a cold reset, with
the module cold, its sites' beds and scratchpads zero, the queue of commands empty and no context. The part and V_in at
reset are the model's choice (assumption 2). -/
def Obligations.ResetIsAsTheTablesSay : Prop :=
  let s := State.reset
  (∀ r ∈ [((0x18 : Nat), (0xFFFF : DWord)), (0x10000, 0xA3), (0x10018, 0x3FF), (0x20010, 0x1FF), (0x30000, 0x2000), (0x30018, 0x7FFFF),
      (0x30028, 0xE57E0), (0x900000, 0x41), (0x900018, 0x7F), (0x901018, 0x3F)],
    s.regRead .host (siteRegBase + r.1) = r.2) ∧
  (∀ r ∈ [((0x100018 : Nat), (0x3FFF : DWord)), (0x100028, 0x758), (0x100030, 0xE57E0), (0x200000, 6), (0x200018, 0x3F),
      (0x400018, 0x7FF), (0x400028, 0x2DE60), (0x400030, 2), (0x400038, 0xB7980000125C)],
    s.regRead .host (xdRegBase + r.1) = r.2) ∧
  (∀ r ∈ [((0x7010 : Nat), (0x3FFF : DWord)), (0x7030, 0x59A5380), (0x70A0, 0x4970), (0x7810, 7), (0x8010, 0xFF), (0xA010, 0x3F),
      (0xA018, 0x30D4), (0xB010, 0xF), (0xB800, 0x6E645F), (0xB818, 7)], s.regRead .host (sysBase + r.1) = r.2) ∧
  s.pending = [] ∧ s.ctxs = [] ∧ s.tick = 0 ∧ s.almHead = 0 ∧ s.pwr.level = 0 ∧ s.orr.fwState = 0 ∧ s.fab.valid = false ∧
  (∀ p a, (s.site p).bed.get a = 0) ∧ ∀ k a, (s.core k).sp.get a = 0 ∧ (s.core k).cc.dmem.get a = 0

/-- The model's choice (assumption 8): with no command waiting a step is one sidereal tick. It stands while the domain
is off or the PLL unlocked (16 R484). Else, with no message delivered since the last, the counter moves on by one and by
the correction the lodestar gave, once (11 R351), the cores of lit sites count their cycle, and what the module has put
out goes out on the fabric; contexts, beds, GDDR7, the grid and the security block stand. Where nothing is to be sent,
released or asked, and hart 0 does not run, only the counters move. -/
def Obligations.EmptyQueueIsATick : Prop :=
  ∀ (s : State), s.pending = [] →
    ((s.pwr.off = true ∨ s.clk.locked = false) → step s = .next s) ∧
    (s.pwr.off = false → s.clk.locked = true → s.fab.inbox = [] → ∃ t, step s = .next t ∧
      t.tick = BitVec.ofInt 64 (s.tick.toNat + 1 + s.fab.adjust) ∧ t.fab.adjust = 0 ∧ t.fab.mailed = t.outbox.length ∧
      t.ctxs = s.ctxs ∧ t.sites = s.sites ∧ t.gddr = s.gddr ∧ t.grid = s.grid ∧ t.sec = s.sec ∧ t.pwr = s.pwr ∧ t.flash = s.flash ∧
      (∀ k, (t.core k).sp = (s.core k).sp ∧ (t.core k).me.tiles = (s.core k).me.tiles ∧ (t.core k).cc.regs = (s.core k).cc.regs ∧
        (t.core k).cc.st = (s.core k).cc.st ∧ (t.core k).ctx = (s.core k).ctx) ∧
      ((∀ k, ∀ j ∈ (s.core k).me.jobs, j.work.handles = []) → (∀ p, p < 16 → (s.port p).up = true → (s.port p).delayAsked = true) →
        s.outbox.length ≤ s.fab.mailed → s.host.hart0 = false →
        { t with tick := s.tick, fab := s.fab, cores := s.cores, pins := s.pins } = s ∧
        { t.fab with adjust := s.fab.adjust, mailed := s.fab.mailed } = s.fab ∧
        ∀ k, s.dark (k / 64) = true → t.core k = s.core k))

/-- 00 R4, 01 R22: a site that manufacture fused off never comes back: from every state in which its role is fused off
and neither the graft map nor the retirement record names it, each step gives such a state. -/
def Obligations.FusedSitesStayOff : Prop :=
  ∀ (s t : State), FusedOff s → Sys2Proof.Machine.step s = .next t → FusedOff t

/-- 00 R4: the invariant holds after reset. -/
def Obligations.FusedSitesAreOffAtReset : Prop := FusedOff State.reset

/-! ## What each command completes with -/

/-- 08 R231, 13 R396–R418, 11 R354: the core window and the orrery's rows complete with their own effect. A window read
answers its bytes and a window write lands; a paced period begins the next, a tick restarts the orrery core's watchdog,
a quantum that is over makes its context leave. An admin entry in order, at the ring's head, completes with status 0:
CTX_CREATE makes the context ready with its descriptor, CTX_DESTROY frees it, CTX_HOLD holds it, CTX_RESUME makes it
ready, STASH_SET enables its region, FAB_CFG writes its registers, MCAST_SET its group, ETH_RING its ring, FW_LOAD and
FW_UPDATE start their image, DETACH clears attached, REATTACH ends hold. A load block that matches sets its bit, ATTACH
attaches, a silent driver is lost, a confirmation that is due ends the window, a window that runs out falls back, a core
that misses its watchdog is failed, and its takeover core takes its contexts. -/
def Obligations.OrreryCommandsComplete : Prop :=
  ∀ (s : State) (b : List Byte) (ctx : BitVec 4) (oc tk : BitVec 5),
    let n := bfld b 8 1
    let c := s.ctx ctx.toNat
    let due := c.pStart.toNat + c.pLen.toNat
    (∀ req site core (off : BitVec 23) p, s.siteField (logicalReq req) site.toNat = some p → s.dark p = false →
      (∀ i, s.sealedNow i = false) → off.toNat < 0x400000 →
      let k := s.keyOf p (BitVec.toNat core)
      (∀ l, (l = 4 ∨ l = 8 ∨ l = 16 ∨ l = 32 ∨ l = 64) → off.toNat % l = 0 → ∃ t, exec (.coreWindowAccess req site core off (.read l) []) s = .next t ∧
        t.outbox = s.outbox ++ [.reply ((s.core k).sp.bytes off.toNat l)]) ∧
      (∀ bs : List Byte, (bs.length = 4 ∨ bs.length = 8 ∨ bs.length = 16 ∨ bs.length = 32 ∨ bs.length = 64) →
        off.toNat % bs.length = 0 → s.present p = true → ∃ t, exec (.coreWindowAccess req site core off (.write bs) []) s = .next t ∧
          ∀ i, i < bs.length → (t.core k).sp.get (off.toNat + i) = bs.getD i 0)) ∧
    (c.desc.paced = true → c.paceOn = true → due ≤ s.tick.toNat → s.periodPopped ctx.toNat = true →
      ∃ t, exec (.pacedPeriodEnd ctx) s = .next t ∧ (t.ctx ctx.toNat).period = BitVec.ofNat 64 (c.period.toNat + 1) ∧
        (t.ctx ctx.toNat).pStart = BitVec.ofNat 64 (max due c.pFinish.toNat)) ∧
    (oc.toNat < 20 → (s.oc oc.toNat).role = 0 → s.fwRuns = true → s.tickDue oc.toNat = true →
      (∀ m, m < 16 → (s.ctx m).st = .free) → s.fab.proposal = none → s.fab.provisional = false →
      s.orr.stopping = false → s.orr.draining = false → ∃ t, exec (.schedulingTick oc) s = .next t ∧
        (t.oc oc.toNat).restarted = s.tick ∧ (t.oc oc.toNat).ticked = true) ∧
    (s.served ctx.toNat = true → c.st = .running → s.quantumOver ctx.toNat = true → c.switching = false →
      (∃ m, m < 16 ∧ m ≠ ctx.toNat ∧ s.wants m = true ∧ s.overlaps ctx.toNat m = true ∧ s.displaces m ctx.toNat = true) →
      bitAt (s.gis.halted ||| s.pwr.redo).toNat ctx.toNat = false →
      ∃ t, exec (.quantumExpiry ctx) s = .next t ∧ t.ctx ctx.toNat = { c with switching := true }) ∧
    (AdminEntry s 0x01 b → zeroBut [(8, 14)] b = true → areaOk (bfld b 8 6) 128 = true →
      let db := s.adminSeen.oread (bfld b 8 6) 128
      s.descBad db (readDesc db) = false → (s.ctx (bfld db 0 1)).st = .free → s.sealBad (readDesc db) = false →
      ∃ t, exec .ctxCreate s = .next t ∧ AdminDone s t b 0 ∧ (t.ctx (bfld db 0 1)).st = .ready ∧
        (t.ctx (bfld db 0 1)).desc = readDesc db) ∧
    (zeroBut [(8, 9)] b = true → n < 16 →
      (AdminEntry s 0x02 b → (s.ctx n).st ≠ .free → (s.seal n).state = 0 → (s.ctx n).entries = [] →
        (∀ x ∈ s.heldCores n, (if (s.ctx n).destroying then s.core x.2.2 else (s.core x.2.2).stopStep).idle = true) →
        ∃ t, exec .ctxDestroy s = .next t ∧ AdminDone s t b 0 ∧ t.ctx n = Ctx.init) ∧
      (AdminEntry s 0x03 b → ((s.ctx n).st = .ready ∨ (s.ctx n).st = .running ∨ (s.ctx n).st = .saved) → (s.ctx n).busy = false →
        ∃ t, exec .ctxHold s = .next t ∧ AdminDone s t b 0 ∧ (t.ctx n).st = .held) ∧
      (AdminEntry s 0x04 b → (s.ctx n).st = .held → s.orr.hold = false →
        ∃ t, exec .ctxResume s = .next t ∧ AdminDone s t b 0 ∧ t.ctx n = { s.ctx n with st := .ready })) ∧
    (AdminEntry s 0x10 b → zeroBut [(8, 9), (16, 32)] b = true → n ≤ 3 →
      let r : Stash := { en := bitAt (bfld b 16 8) 0, elem := BitVec.ofNat 2 (fld (bfld b 16 8) 1 2),
                         base := BitVec.ofNat 28 (fld (bfld b 16 8) 20 28), sizeMib := BitVec.ofNat 18 (bfld b 24 8) }
      (sget (fun _ => Stash.init) s.gddr.stash n).en = false → r.en = true → s.stashBad n r = false →
      ∃ t, exec .stashSet s = .next t ∧ AdminDone s t b 0 ∧ sget (fun _ => Stash.init) t.gddr.stash n = r) ∧
    (AdminEntry s 0x11 b → zeroBut [(8, 14), (16, 20)] b = true → bfld b 16 4 ≠ 0 →
      areaOk (bfld b 8 6) (16 * bfld b 16 4) = true →
      let img := s.adminSeen.oread (bfld b 8 6) (16 * bfld b 16 4)
      let items := (List.range (bfld b 16 4)).map (fun i => (bfld img (16 * i) 8, BitVec.ofNat 64 (bfld img (16 * i + 8) 8)))
      ∀ u, fabItems items (s.adminSeen.oseen (bfld b 8 6) (16 * bfld b 16 4)) = some u → (∀ w, w < 15 → u.winOk w = true) →
        ∃ t, exec .fabCfg s = .next t ∧ AdminDone u t b 0 ∧ t.fab = u.fab) ∧
    (AdminEntry s 0x12 b → zeroBut [(8, 9), (16, 24)] b = true → n ≤ 63 → ∃ t, exec .mcastSet s = .next t ∧
      AdminDone s t b 0 ∧ sget (fun _ => 0) t.grid.mcast n = BitVec.ofNat 64 (bfld b 16 8)) ∧
    (AdminEntry s 0x13 b → zeroBut [(8, 10), (16, 28)] b = true → n ≤ 2 → bfld b 9 1 < 16 → bfld b 24 4 ≠ 0 →
      bfld b 24 4 ≤ 65536 → areaOk (bfld b 16 8) (16 * bfld b 24 4) = true → ∃ t, exec .ethRing s = .next t ∧
        AdminDone s t b 0 ∧ t.ethRingAt (ethKey n (bitAt (bfld b 9 1) 3) (bfld b 9 1 % 8)) = some {
          base := bfld b 16 8, count := bfld b 24 4, cursor := 0, polled := none, moving := false }) ∧
    (zeroBut [(8, 9)] b = true → n ≤ 1 →
      let r := s.adminSeen.slotImage (n == 1)
      r.1 = 0 →
      (AdminEntry s 0x20 b → s.orr.fwState = 0 → ∃ t, exec .fwLoad s = .next t ∧ AdminDone s t b 0 ∧
        t.orr.image = some r.2 ∧ t.orr.fwState = 3) ∧
      (∀ old, AdminEntry s 0x21 b → s.fwRuns = true → s.orr.image = some old → r.2.handMin ≤ old.handOut →
        old.handOut ≤ r.2.handMax → ∃ t, exec .fwUpdate s = .next t ∧ AdminDone s t b 0 ∧ t.orr.image = some r.2 ∧
          t.orr.fwState = 3)) ∧
    (AdminEntry s 0x22 b → zeroBut [] b = true → ∃ t, exec .detach s = .next t ∧ AdminDone s t b 0 ∧
      t.orr.draining = true ∧ t.orr.attached = false) ∧
    (AdminEntry s 0x23 b → zeroBut [(8, 9)] b = true → n = 0 → ∃ t, exec .reattach s = .next t ∧ AdminDone s t b 0 ∧
      t.orr.hold = false ∧ ∀ m, m < 16 → (s.ctx m).st = .held → (t.ctx m).st = .ready) ∧
    (∀ v : DWord, (s.orr.attached = false → ∃ t, exec (.orrAdminBaseWrite v) s = .next t ∧ t.orr.adminBase = v.extractLsb' 12 36) ∧
      (fld v.toNat 8 17 % 64 = 0 → 64 ≤ fld v.toNat 8 17 → fld v.toNat 8 17 ≤ 65536 →
        (crc32c (s.oread (loadSlotBase (bitAt v.toNat 25) + 65536 * fld v.toNat 0 8) (fld v.toNat 8 17))).toNat = fld v.toNat 32 32 →
        ∃ t, exec (.orrLoadBlk v) s = .next t ∧ (t.orr.loadMap (bitAt v.toNat 25)).getLsbD (fld v.toNat 0 8) = true)) ∧
    (s.orr.attached = false → areaOk s.orr.adminAddr 41088 = true → ∃ t, exec .attach s = .next t ∧ t.orr.attached = true ∧
      t.orr.adminOk = true ∧ t.orr.drvHbTick = s.tick) ∧
    (s.orr.attached = true → s.fwRuns = true → s.orr.drvHb = s.orr.drvHbSeen →
      s.orr.drvHbTick.toNat + s.orr.hbLimit.toNat < s.tick.toNat → ∃ t, exec .driverHeartbeatLoss s = .next t ∧
        t.orr.attached = false ∧ t.orr.draining = true ∧ t.orr.cause.getLsbD 5 = true) ∧
    (s.confirmReady = true → s.orr.image ≠ none → ∃ t, exec (.orrHealthConfirm (.orrery oc)) s = .next t ∧
      t.orr.confirmed = true ∧ t.orr.confirmEnd = none) ∧
    (∀ e, s.orr.confirmEnd = some e → e.toNat ≤ s.tick.toNat → (∀ m, m < 16 → (s.ctx m).st = .free) →
      ∃ t, exec .confirmWindowExpiry s = .next t ∧ t.orr.cause.getLsbD 9 = true ∧ t.orr.hold = true) ∧
    (oc.toNat < 20 → (s.oc oc.toNat).role = 0 → s.fwRuns = true →
      (s.oc oc.toNat).restarted.toNat + s.orr.wdogLimit.toNat ≤ s.tick.toNat → ∃ t, exec (.watchdogExpiry oc) s = .next t ∧
        (t.oc oc.toNat).role = 2 ∧ t.orr.cause.getLsbD 0 = true) ∧
    (oc.toNat < 20 → tk.toNat < 20 → tk ≠ oc → (s.oc oc.toNat).takeover = some tk →
      (∀ i, i < 20 → (s.oc i).takeover = some tk → i = oc.toNat) → ∃ t, exec (.takeoverComplete tk) s = .next t ∧
        (t.oc tk.toNat).role = 0 ∧ t.orr.cause.getLsbD 1 = true ∧
        ∀ m, m < 16 → (s.ctx m).st ≠ .free → (s.ctx m).oc = oc → (t.ctx m).oc = tk)

/-- 13 R403, R404, 09 R266, R282–R284, R291–R296, 10 R301–R319: the rows of a step and of its exchange complete with
their own effect. Of entries: MARK ends, START and STEP start their cores, a measured LOAD lands, a finished entry is
reported. Of a step: the beacon moves FWD to BWD, BWD_END moves to VOTE, the tally's result and EARLY_ABORT vote, a vote
word is held, a decision moves to UPDATE or ABORTED, a request is answered, the update acknowledges, DONE ends the step,
SHARD_RESTORE marks it. Of Trellis: a handoff counts, a bucket starts, a segment is kept, a notice enters its record,
grace settles a bucket, a close is kept, write-back lands; heartbeats are sent and taken, a silent member and a report
make it failed. -/
def Obligations.StepCommandsComplete : Prop :=
  ∀ (s : State) (ctx : BitVec 4) (e : Entry) (p : Policy),
    let n := ctx.toNat
    let r := s.srec n
    let u := s.updRec n
    let me := s.ctxSelf n
    let starts (t : State) : Prop := ∀ x ∈ s.entryCores e, ((s.core x.2.2).cc.st = .stopped ∨ (s.core x.2.2).cc.st = .halted ∨
      (s.core x.2.2).cc.st = .fault) → (t.core x.2.2).cc.st.fetches = !(s.core x.2.2).cc.ctl.pause ∧
        (t.core x.2.2).cc.pc = e.pc ∧ (t.core x.2.2).cc.bank = e.bank
    (s.nextEntry n 4 = some e → ∃ t, exec (.mark ctx) s = .next t ∧ ∀ f ∈ (t.ctx n).entries, f.index = e.index → f.finished = true) ∧
    (s.nextEntry n 2 = some e → s.paceReached n = true → ∃ t, exec (.start ctx) s = .next t ∧ starts t) ∧
    (s.nextEntry n 3 = some e → s.heldMember n = false → s.epochHolds n = false → s.trellisReady n = true →
      s.paceReached n = true → areaOk (s.ctx n).desc.policyAddr 128 = true → (∀ x ∈ s.entryCores e, (s.core x.2.2).idle = true) →
      ((s.ctx n).upd = none ∨ r.phase ≠ 4) → readPolicy (s.oread (s.ctx n).desc.policyAddr 64) = some p →
      ∃ t, exec (.step ctx) s = .next t ∧ (t.srec n).step = e.step ∧ (t.srec n).phase = 1 ∧ starts t) ∧
    (s.nextEntry n 1 = some e → s.entryRefused n e = false → e.measured = true → s.sec.ch1.busy = false → ∃ t, exec (.load ctx) s = .next t ∧
      ∀ f ∈ (t.ctx n).entries, f.index = e.index → f.finished = true) ∧
    (s.served n = true → (s.ctx n).entries.find? (fun e => e.finished || s.startOver n e) = some e → 0 < (s.ctx n).desc.cplN →
      areaOk (s.ctx n).desc.cplAddr (128 + 32 * (s.ctx n).desc.cplN) = true → ∃ t, exec (.entryFinished ctx) s = .next t ∧
        (t.ctx n).cplProd = (s.ctx n).cplProd + 1 ∧ (t.ctx n).entries = (s.ctx n).entries.filter (fun f => f.index != e.index)) ∧
    (areaOk (s.ctx n).desc.policyAddr 128 = true → (s.ctx n).policy = some p →
      (r.phase = 1 → s.orr.fwdBeacons.any (fun b => b == (ctx, r.step)) = true → ∃ t, exec (.forwardEndBeacon ctx) s = .next t ∧
        (t.srec n).phase = 2) ∧
      ((s.ctx n).st = .running → (r.phase = 1 ∨ r.phase = 2) → r.commit = none →
        (∀ x ∈ s.ctxCores n, (s.core x.2.2).finished = true) → ∃ t, exec (.bwdEnd ctx) s = .next t ∧ (t.srec n).phase = 3 ∧
          t.outbox = s.outbox ++ [.tally ctx]) ∧
      (r.phase = 3 → r.voted = false → r.commit = none → (s.voteOf n false).complete = true → (s.ctx n).upd = none →
        me.role ≠ 0 → ∃ t, exec (.tallyResult ctx) s = .next t ∧ (t.srec n).voted = true ∧ (t.srec n).voteTick = s.tick) ∧
      (∀ l c k, s.key l c = some k → (s.core k).ctx = some ctx → p.earlyAbort = true → (s.core k).cc.numStat.nan = true →
        1 ≤ r.phase → r.phase ≤ 3 → r.voted = false → r.commit = none → me.role = 0 → 0 < me.rank → me.rank < 65536 →
        ∃ t w, exec (.earlyAbort l c) s = .next t ∧ t.outbox = s.outbox ++ [.vote w] ∧ w.earlyAbort = true ∧ w.finite = false ∧
          (t.srec n).voted = true) ∧
      (∀ v : VoteWord, r.started = true → r.open_ = true → me.rank = 0 → v.step = r.step → v.epoch = r.epoch → v.earlyAbort = false →
        let vs := r.votes.filter (fun w => w.rank != v.rank) ++ [v]
        ((0 :: treeChildren me.n 0).filterMap (fun k => vs.find? (fun w => w.rank.toNat == k))).length < 1 + (treeChildren me.n 0).length →
        ∃ t, exec (.voteWord ctx v) s = .next t ∧ (t.srec n).votes = vs) ∧
      (∀ d : DecisionMsg, d.step = r.step → d.epoch = r.epoch → r.open_ = true → ∃ t, exec (.decision ctx d) s = .next t ∧
        (t.srec n).phase = (if d.commit then 4 else 6) ∧ (t.srec n).commit = some d.commit) ∧
      (r.voted = true → r.open_ = true → r.voteTick.toNat + p.voteTimeout ≤ s.tick.toNat → ∃ t, exec (.voteTimeout ctx) s = .next t ∧
        t.outbox = s.outbox ++ [.decisionReq r.step r.epoch (BitVec.ofNat 16 me.rank)] ∧ (t.srec n).voteTick = s.tick) ∧
      (∀ rank c, r.commit = some c → ∃ t, exec (.decisionRequest ctx r.step r.epoch rank) s = .next t ∧
        t.outbox = s.outbox ++ [.decide { step := r.step, epoch := r.epoch, commit := c, bits := r.decBits }]) ∧
      (u.phase = 4 → u.acked = false → u.faulted = false → u.restore ≠ 1 → s.updOver n = true → me.role = 0 → me.rank = 0 →
        u.acks.contains 0 = false → u.acks.length + 1 < me.n → ∃ t, exec (.updateFinished ctx) s = .next t ∧
          (t.updRec n).acked = true ∧ (t.updRec n).acks = u.acks ++ [0]) ∧
      (∀ rank, u.phase = 4 → me.role = 0 → me.rank = 0 → u.acks.contains rank = false → u.acks.length + 1 < me.n →
        ∃ t, exec (.commitAcknowledgement ctx u.step u.epoch rank) s = .next t ∧ (t.updRec n).acks = u.acks ++ [rank]) ∧
      (u.phase = 4 → ∃ t, exec (.done ctx u.step u.epoch) s = .next t ∧ (t.srec n).lastDone = some u.step ∧ (t.ctx n).upd = none) ∧
      (u.phase = 4 → u.acked = false → u.restore ≠ 1 → u.faulted = true → ∃ t, exec (.shardRestore ctx) s = .next t ∧
        (t.updRec n).restored = true ∧ (t.updRec n).restore = 1)) ∧
    (∀ (xd : BitVec 2) (bs : List Byte) (q : TagEntry) (c : TrCfg), s.trellis.cfg = some c →
      let x := xd.toNat
      let tg := bfld bs 0 2
      let total := sget (fun _ => 0) (s.xd x).tr.totals tg + bfld bs 6 2
      bs.length = 64 → tg < 4096 → tg % 4 = x → bfld bs 8 56 = 0 → s.tag tg = some q → bfld bs 2 4 = s.trStep.toNat →
        1 ≤ bfld bs 6 2 → bfld bs 6 2 ≤ 2048 → total ≤ q.expect → ∃ t, exec (.trHandoff xd bs) s = .next t ∧
          sget (fun _ => 0) (t.xd x).tr.totals tg = total) ∧
    (∀ (xd : BitVec 2) (tg : BitVec 12) rest (c : TrCfg) (q : TagEntry), (s.xd xd.toNat).tr.pendingTags = tg :: rest →
      (s.xd xd.toNat).tr.running.length < 64 → s.trellis.cfg = some c → s.tag tg.toNat = some q → s.self.role ≠ 2 →
      s.trellis.complete.contains (tg, s.trStep) = false → s.closedAt tg s.trStep = none →
      (∀ h ∈ s.trellis.handed, h.1 = tg → h.2 = s.bucketElems c.ctx.toNat q 0 q.units) →
      (∀ z ∈ s.trellis.staging, ¬(z.tag = tg ∧ z.step = s.trStep)) → (∀ z ∈ s.trellis.heads, ¬(z.tag = tg ∧ z.step = s.trStep)) →
      (s.isHead tg.toNat = true → 1 < s.self.n) → ∃ t, exec (.bucketStart xd) s = .next t ∧ (t.xd xd.toNat).tr.pendingTags = rest ∧
        (t.xd xd.toNat).tr.running = (s.xd xd.toNat).tr.running ++ [{ tag := tg, step := s.trStep, started := s.tick }]) ∧
    (∀ (m : SegmentMsg) (c : TrCfg) (q : TagEntry), s.trellis.cfg = some c → s.tag m.tag.toNat = some q → m.epoch = s.self.epoch →
      s.current m.step = true →
      ((s.mySegs m.tag.toNat q).contains m.seg = true → s.stageUsed (s.dieOf m.tag.toNat) + 2 * m.data.length ≤ c.stageMib * mib →
        s.closedAt m.tag m.step = none →
        (∀ z ∈ s.trellis.staging, ¬(z.tag = m.tag ∧ z.step = m.step ∧ z.seg = m.seg ∧ z.rank = m.rank.toNat)) →
        ∃ t, exec (.segmentData m) s = .next t ∧ t.trellis.staging = s.trellis.staging ++ [contribOf m]) ∧
      (let lo := (segUnits q.units (segCount s.self.n q.units) m.seg).1
       (∀ i, s.sealedNow i = false) → q.ret + 512 * lo + 2 * m.data.length ≤ fwBase →
        s.trellis.retained.contains (m.tag, m.step, m.seg) = false → s.closedAt m.tag m.step = none →
        ∃ t, exec (.writeBackData m) s = .next t ∧ t.trellis.retained = s.trellis.retained ++ [(m.tag, m.step, m.seg)] ∧
          Holds t [(q.ret + 512 * lo, m.data.flatMap (fun h => leBytes 2 h.toNat))])) ∧
    (∀ m : MemberNotice, s.trellis.cfg.isSome = true → m.epoch = s.self.epoch → s.isHead m.tag.toNat = true → s.current m.step = true →
      (∀ z ∈ s.trellis.heads, ¬(z.tag = m.tag ∧ z.step = m.step)) → 1 < s.self.n →
      ∃ t, exec (.memberNotice m) s = .next t ∧ ∃ h ∈ t.trellis.heads, h.tag = m.tag ∧ h.step = m.step ∧ h.first = s.tick ∧
        h.notices = [m]) ∧
    (∀ (tag : BitVec 12) step h q, s.trellis.heads.find? (fun h => h.tag.toNat == tag.toNat && h.step == step) = some h →
      s.tag tag.toNat = some q → h.closed = false → h.graceDone = false →
      h.first.toNat + (s.xd 0).tr.grace.toNat ≤ s.tick.toNat → q.lenient = true → ∃ t cm l, exec (.bucketGraceExpiry ⟨tag, step⟩) s = .next t ∧
        t.outbox = s.outbox ++ Out.close cm :: l ∧ cm.tag = h.tag ∧ cm.step = h.step ∧ (t.xd (s.dieOf tag.toNat)).tr.cause.getLsbD 3 = true) ∧
    (∀ (cm : CloseNotice) (c : TrCfg) (q : TagEntry), s.trellis.cfg = some c → s.tag cm.tag.toNat = some q → cm.epoch = s.self.epoch →
      s.current cm.step = true → s.closedAt cm.tag cm.step = none → s.mySegs cm.tag.toNat q = [] →
      (∀ z ∈ s.trellis.staging, z.tag = cm.tag → z.step = cm.step → cm.excl.contains z.rank = false) →
      (∀ z ∈ s.trellis.owed, ¬(z.1 = cm.tag ∧ z.2.1 = cm.step)) →
      (∃ i, i < segCount s.self.n q.units ∧ s.trellis.retained.contains (cm.tag, cm.step, i) = false) →
      ∃ t, exec (.closeNotice cm) s = .next t ∧ t.trellis.status = s.trellis.status ++ [(cm.tag, cm)]) ∧
    (∀ a, s.trellis.lastHb.toNat + (s.xd 0).tr.hbPeriod.toNat ≤ s.tick.toNat → s.hbTarget = some a →
      ∃ t, exec .heartbeatSend s = .next t ∧ t.trellis.lastHb = s.tick ∧
        t.outbox = s.outbox ++ [.heartbeat a (BitVec.ofNat 16 s.self.rank) s.self.epoch s.trStep s.tick]) ∧
    (∀ src rank step sent, s.isLone src rank = false → ∃ t, exec (.heartbeat ⟨src, rank⟩ s.self.epoch step sent) s = .next t ∧
      sget (fun _ => 0) t.trellis.watch (BitVec.toNat rank) = s.tick) ∧
    (∀ rank : Half, s.watched.contains rank.toNat = true → s.trellis.failed.contains rank.toNat = false →
      (sget (fun _ => 0) s.trellis.watch rank.toNat).toNat + (s.xd 0).tr.hbLimit.toNat ≤ s.tick.toNat → s.isLodestar = false →
      s.watchedAddr rank.toNat ≠ s.fab.lodestar → ∃ t, exec (.heartbeatLimitExpiry ⟨rank, none⟩) s = .next t ∧
        t.trellis.failed = s.trellis.failed ++ [rank.toNat] ∧
        t.outbox = s.outbox ++ [.failure (s.watchedAddr rank.toNat) s.self.epoch rank 1]) ∧
    (∀ addr epoch rank cause k m, s.isLodestar = true → s.fab.failedPeers.contains addr = false →
      (s.memberCtx (fun m => m.epoch == epoch && m.members.any (fun e => e.addr == addr))).isSome = true →
      s.memberCtx (fun q => q.members.any (fun e => e.addr == addr)) = some k → (s.ctx k).membership = some m →
      (m.place addr).1 ≠ 0 → s.fab.provisional = false → s.fab.proposal = none →
      ∃ t q, exec (.failureReport addr epoch rank cause) s = .next t ∧ t.fab.failedPeers = s.fab.failedPeers ++ [addr] ∧
        t.fab.proposal = some q ∧ ∀ e ∈ q.members, e.addr ≠ addr)

/-- 11 R329–R357, 10 R300: the rows of the fabric, of time and of the membership complete with their own effect: a port
trains and comes up, flits are taken, resent on a request or a timeout, lanes fail over, a class without credit stalls,
a send goes out and is acknowledged, window writes land, a refusal drops its send; the election is sent and heard, the
count sent, taken, its delay asked and answered; lost time begins a generation; SYNC_IN, its loss and SYNC_OUT act,
PTP's offset and rate are taken; a proposal is accepted, its answers counted, its commit installs the list; held notices
add their sender, and an attested key replacement puts the new key in use. -/
def Obligations.FabricCommandsComplete : Prop :=
  ∀ (s : State) (port : BitVec 4) (src : BitVec 13) (xd : BitVec 2),
    let p := port.toNat
    let q := s.port p
    let x := portDie p
    (∀ info : LinkUpInfo, q.state.toNat ≤ 2 → (s.xd x).fab.en = true → (s.xd x).fab.portEn.getLsbD (p % 4) = true →
      s.fab.valid = true → info.trained = true → (s.xd x).fab.encReq = false → info.peerEncReq = false → s.fab.waiting = [] →
      ∃ t, exec (.linkUp port info) s = .next t ∧ (t.port p).up = true ∧ (t.port p).peer = info.peer) ∧
    (∀ f : List Byte, q.up = true → f.length = 512 → bfld f 0 1 % 4 = 1 → flitCrcOk f = true → bfld f 2 2 = q.rxSeq.toNat →
      q.enc = false → q.txQueue = [] → s.fab.waiting = [] → ∃ t, exec (.flitReceive port f) s = .next t ∧
        (t.port p).rxSeq = q.rxSeq + 1 ∧ (t.port p).discarding = false) ∧
    (q.up = true → q.resent < 8 →
      (∀ seq, q.replay.any (fun r => r.1 == seq) = true → ∃ t, exec (.resendRequest port seq) s = .next t ∧
        t.outbox = s.outbox ++ (q.replay.drop (q.replay.findIdx (fun r => r.1 == seq))).map (fun r => .flit port r.2)) ∧
      (q.replay ≠ [] → q.lastAck.toNat + (s.xd x).fab.ackTimeout.toNat ≤ s.tick.toNat → ∃ t, exec (.ackTimeout port) s = .next t ∧
        t.outbox = s.outbox ++ q.replay.map (fun r => .flit port r.2) ∧ (t.port p).lastAck = s.tick)) ∧
    (∀ tx (lane : BitVec 4) seq, q.up = true → lane.toNat < 8 → bitAt (q.lanes tx).failed.toNat lane.toNat = false →
      (q.lanes tx).narrow = false → (q.lanes tx).spareUsed = false → (q.lanes tx).spareBad = false → (q.lanes tx).grafting = false →
      ∃ t, exec (.laneFail port tx ⟨lane, seq⟩) s = .next t ∧ ((t.port p).lanes tx).grafting = true) ∧
    (∀ tx seq, q.up = true → (q.lanes tx).grafting = true → ∃ t, exec (.spareLaneCheckDone port tx ⟨true, seq⟩) s = .next t ∧
      ((t.port p).lanes tx).grafting = false ∧ ((t.port p).lanes tx).spareUsed = true) ∧
    (∀ cls vc, q.up = true → q.credit cls vc = 0 →
      (sget (fun _ => 0) q.zeroSince (cvKey cls vc)).toNat + (s.xd x).fab.stallLimit.toNat ≤ s.tick.toNat →
      ∃ t, exec (.fabStall port cls vc) s = .next t ∧ (t.xd x).fab.cause.getLsbD 10 = true) ∧
    (∀ req b r, s.sendReq req b = some r → (sget (fun _ => (0 : DWord)) (s.xd xd.toNat).fab.routes r.dst).getLsbD 63 = true →
      ∃ t, exec (.fabSend req xd b) s = .next t ∧ (t.xd xd.toNat).fab.sends = (s.xd xd.toNat).fab.sends ++
        [{ dst := BitVec.ofNat 13 r.dst, win := BitVec.ofNat 4 r.win, bytes := r.len }]) ∧
    (∀ a rest, (s.xd xd.toNat).fab.sends = a :: rest → ∃ t, exec (.sendComplete xd) s = .next t ∧
      (t.xd xd.toNat).fab.sends = rest ∧ (t.xd xd.toNat).fab.sentCnt = (s.xd xd.toNat).fab.sentCnt + 1) ∧
    (∀ k : WritePacket,
      let w := s.rxwin k.win.toNat
      w.refuses k q.enc = none → w.base.toNat + k.off.toNat + k.data.length ≤ fwBase → (∀ i, s.sealedNow i = false) →
      (∃ t, exec (.writePacket port k) s = .next t ∧ Holds t [(w.base.toNat + k.off.toNat, k.data)]) ∧
      (∀ j, k.last = true → w.notifyEn = true → s.key w.nsite w.ncore = some j → w.ndmem.toNat + 16 ≤ 65536 →
        ∃ t, exec (.writeWithNotice port k) s = .next t ∧ Holds t [(w.base.toNat + k.off.toNat, k.data)] ∧
          t.rxwin k.win.toNat = { w with notices := w.notices + 1 } ∧
          ∀ i, i < 4 → (t.core j).cc.dmem.get (w.ndmem.toNat + i) = (leBytes 4 (w.notices + 1).toNat).getD i 0)) ∧
    (∀ win reason off tick, ∃ t, exec (.refusal port src win reason off tick) s = .next t ∧
      (t.xd x).fab.cause.getLsbD 8 = true ∧ (t.xd x).fab.sends = dropSend src (BitVec.toNat win) (s.xd x).fab.sends) ∧
    (s.fab.valid = true → s.fab.lastElect.toNat + 9400 ≤ s.tick.toNat → ∃ t, exec .electionSend s = .next t ∧
      t.fab.lastElect = s.tick ∧ t.outbox = s.outbox ++ ((List.range 16).filter (fun p => (s.port p).up)).map (fun p =>
        .election (BitVec.ofNat 4 p) s.fab.lodestar s.fab.generation)) ∧
    (∀ lowest : BitVec 13, s.fab.valid = true → s.foreign port = false → s.fab.failedPeers.contains lowest = false →
      ∃ t, exec (.election port lowest s.fab.generation) s = .next t ∧
        t.fab.lodestar.toNat = min lowest.toNat s.fab.lodestar.toNat) ∧
    (s.isLodestar = true → s.fab.lastSend.toNat + 4700 ≤ s.tick.toNat → ∃ t m, exec .timeMessageSend s = .next t ∧
      t.outbox = s.outbox ++ [.time m] ∧ m.count = s.tick ∧ m.lodestar = s.fab.addr ∧ t.fab.lastSend = s.tick) ∧
    (∀ m : TimeMsg, s.fab.valid = true → s.isLodestar = false → s.foreign port = false →
      s.fab.generation.toNat ≤ m.generation.toNat → s.fab.onBranch port m = true → s.fab.locked = false →
      ∃ t, exec (.timeMessage port m) s = .next t ∧ t.tick = m.count + q.delay ∧ t.fab.locked = true) ∧
    (∀ t1 t2 t3 : DWord, q.up = true →
      (∃ t, exec (.delayRequest port t1) s = .next t ∧ t.outbox = s.outbox ++ [.delayResp port t1 s.tick s.tick]) ∧
      (∃ t, exec (.delayResponse port t1 t2 t3) s = .next t ∧
        (t.port p).delay = BitVec.ofNat 64 (((s.tick - t1) - (t3 - t2)).toNat / 2))) ∧
    (s.fab.valid = true → s.isLodestar = false → s.fab.holdover = false → s.fab.locked = true →
      s.fab.lastTime.toNat + 47000 ≤ s.tick.toNat → ∃ t, exec .timeLost s = .next t ∧ t.fab.holdover = true ∧
        t.fab.generation = s.fab.generation + 1 ∧ (t.xd 0).fab.cause.getLsbD 13 = true) ∧
    (s.fab.src = true → (∃ t, exec .syncIn s = .next t ∧ t.fab.lastSync = s.tick ∧ t.fab.holdover = false ∧ t.fab.syncMissed = 0) ∧
      (s.fab.syncMissed < 2 → s.fab.lastSync.toNat + 131072 ≤ s.tick.toNat → ∃ t, exec .syncLost s = .next t ∧
        t.fab.bySync = false ∧ (t.xd 0).fab.cause.getLsbD 12 = true)) ∧
    (s.fab.syncOutEn = true → s.tick.toNat % 65536 = 0 → ∃ t, exec .syncOut s = .next t ∧ t.pins.syncOut = true ∧
      t.outbox = s.outbox ++ [.syncPulse s.tick]) ∧
    (∀ offset rate, s.fab.ptpEn = true → s.isLodestar = true → ∃ t, exec (.ptpMessage offset rate) s = .next t ∧
      t.fab.ptpOffset = offset ∧ t.fab.ptpRate = rate) ∧
    (∀ epoch digest m,
      let a := (s.rxwin 15).base.toNat
      let u := s.oseen a (s.listLen a)
      src = s.fab.lodestar → shake256 (u.oread a (u.listLen a)) 32 = digest → u.listAt a u.epochInForce = some m →
      m.epoch = epoch → ∃ t, exec (.epochProposal ⟨src, epoch⟩ digest) s = .next t ∧ t.fab.proposal = some m ∧
        t.outbox = s.outbox ++ [.answer epoch true 0]) ∧
    (∀ m reason, s.fab.proposal = some m → s.isLodestar = true →
      let now := s.fab.answers.filter (fun x => x.1 != src) ++ [(src, true)]
      (∃ o ∈ s.others m, (o, true) ∉ now) → ∃ t, exec (.proposalAnswer src m.epoch true reason) s = .next t ∧ t.fab.answers = now) ∧
    (∀ m n first, s.fab.proposal = some m → src = s.fab.lodestar → s.epochCtx m = some n → (s.ctx n).atEnd = true →
      ∃ t, exec (.epochCommit ⟨src, m.epoch⟩ first) s = .next t ∧ (t.ctx n).membership = some m ∧ t.fab.proposal = none ∧
        t.fab.firstStep = first) ∧
    (∃ t, exec (.heldNotice src true) s = .next t ∧ src ∈ t.fab.held) ∧
    (∀ info : LinkUpInfo, q.up = true → q.enc = true → s.sec.entropyBad = false → info.attested = true →
      s.sec.peerOk info.chainOk info.peerKey info.report info.sent = true → ∃ t k, exec (.keyReplacement port info) s = .next t ∧
        t.port p = { q with keys := k, txFrames := 0, keyPhase := !q.keyPhase, rxNext := some k })

/-- 12 R363–R379, 14 R433–R443: the rows of the memories and of the security block complete with their own effect: a
scrub counts a corrected word, a row moves to a spare, protected writes and deltas land, SB_CTL starts the pass, its end
makes the state 2, a repair and a rebuild restore bytes from parity, a CRC error is counted, a due device retrains, an
idle one rests, a hole is recorded. Each security request that waits in its channel, well formed and allowed, ends with
result 0, its effect done; the two faults raise their causes. -/
def Obligations.MemoryAndSecurityCommandsComplete : Prop :=
  ∀ (s : State) (site : SiteNo) (off : BitVec 30) (chan : Bool) (q : SecReq) (xd : BitVec 2) (ch : BitVec 4),
    let p := site.toNat
    let o := off.toNat
    let x := xd.toNat
    let n := q.ctx
    let others (t : State) : Prop := ∀ j, j ≠ p → t.site j = s.site j
    (s.present p = true → o < bedSize → (s.site p).scrubEn = true → ∃ t, exec (.patrolScrub site off .corrected) s = .next t ∧
      (t.site p).bedCe = (s.site p).bedCe + 1 ∧ (t.site p).bedCause.getLsbD 0 = true ∧ others t) ∧
    (∀ md (bank : BitVec 6) row,
      let r := (row * 64 + bank.toNat) * 2 + bit md
      (s.site p).repairThr.toNat ≤ sget (fun _ => 0) (s.site p).rowCe r → sget (fun _ => 0) (s.site p).sparesUsed (bankOfRow r) < 32 →
      ∃ t, exec (.rowRepair site md bank row true) s = .next t ∧ (t.site p).repaired = (s.site p).repaired ++ [r] ∧ others t) ∧
    (∀ w, s.protHeld p = false → s.sb.state ≠ 1 → (s.site p).writes.find? ProtWrite.acked = some w →
      ∃ t, exec (.protectedWrite site) s = .next t ∧ others t ∧
        t.site p = { (s.site p).landWrite w with writes := dropFirst (fun x => x == w) (s.site p).writes }) ∧
    (∀ d rest, (s.site p).deltas = d :: rest → d.src ≠ site → d.bytes.length = 64 → ∃ t, exec (.parityDelta site) s = .next t ∧
      (t.site p).deltas = rest ∧ ∀ i, i < 64 → (t.site p).bed.get (d.off + i) = (s.site p).bed.get (d.off + i) ^^^ d.bytes.getD i 0) ∧
    (∀ v : DWord, s.sb.en = false → v.getLsbD 0 = true → ∃ t, exec (.sbCtlWrite v) s = .next t ∧ t.sb.en = true ∧
      t.sb.state = 1 ∧ t.sb.protChunks = v.extractLsb' 1 4) ∧
    (s.sb.state = 1 → 1 ≤ s.groups → (∀ l m p, s.physOf l = some p → s.physOf m = some p → l = m) →
      ∃ t, exec .initPassEnd s = .next t ∧ t.sb.state = 2 ∧ t.sb.cause.getLsbD 0 = true) ∧
    (∀ l, s.present p = true → o < bedSize → s.covered p o = true → s.logicalOf p = some l → (∀ j, (s.site j).writes = []) →
      s.rebuildBad l (o / 8 * 8) = false → ∃ t, exec (.seedbankRepair site ⟨off, true⟩) s = .next t ∧ others t ∧
        ∀ i, i < 8 → (t.site p).bed.get (o / 8 * 8 + i) = xorAt (s.rebuildSrc l (o / 8 * 8)) i) ∧
    (∀ l, s.sb.state = 3 → s.sb.rebuildSite = site → s.logicalOf p = some l → (∀ j, (s.site j).writes = []) → s.physOf l = some p →
      (∀ m, s.physOf m = some p → m = l) → 1 < s.groups → ∃ t, exec .rebuildEnd s = .next t ∧ t.sb.state = 2 ∧
        ∀ k i, k < s.prot → i < chunkSize → (t.site p).bed.get (chunkSize * k + i) = xorAt (s.rebuildSrc l (chunkSize * k)) i) ∧
    (∀ row, ch.toNat < 13 → ∃ t, exec (.gddr7CrcRetry xd ⟨ch, row⟩) s = .next t ∧ (t.xd x).mc.crcCnt = (s.xd x).mc.crcCnt + 1 ∧
      (t.xd x).mc.cause.getLsbD 0 = true) ∧
    (ch.toNat < 13 → (s.xd x).mc.retrainEn = true → (s.xd x).mc.devFailed.getLsbD ch.toNat = false →
      (sget (fun _ => Device.init) (s.xd x).mc.devs ch.toNat).lastTrain.toNat + 94000000 ≤ s.tick.toNat →
      ∃ t, exec (.deviceRetrain xd ch ⟨false, true⟩ true) s = .next t ∧
        (sget (fun _ => Device.init) (t.xd x).mc.devs ch.toNat).lastTrain = s.tick ∧ (t.xd x).mc.devFailed = (s.xd x).mc.devFailed) ∧
    (s.pwr.level = 4 → ∃ t, exec (.gddr7IdleSelfRefresh xd) s = .next t ∧ (t.xd x).mc.selfRefresh = true) ∧
    (∀ addr acc, place addr.toNat = .none → s.gis.mapHole = false → ∃ t, exec (.unmappedAccess addr acc) s = .next t ∧
      t.gis = { s.gis with mapHole := true, mapAddr := addr }) ∧
    (SecAsked s chan 0x01 q → q.a0 + 64 ≤ gddrBytes → q.a1 + 8192 ≤ fwBase → n < 16 → (s.ctx n).st ≠ .free →
      let body := s.reportBody 1 n (s.secRead q.a0 64)
      ∃ t, exec (.report chan) s = .next t ∧ SecEnds s t chan 0 q ∧ Holds t [(q.a1, body)] ∧ (t.seal n).report = digest64 body) ∧
    (SecAsked s chan 0x02 q → s.sec.entropyBad = false → n < 16 → q.len % 16 = 0 → 16 ≤ q.len → q.len ≤ 128 → q.a0 + q.len ≤ gddrBytes →
      let rs := sealRanges (s.secRead q.a0 q.len) (q.len / 16)
      (s.ctx n).st ≠ .free → (s.ctx n).desc.sealedCtx = true → (s.seal n).state = 0 → (∀ r ∈ rs, s.rangeBad n r = false) →
      disjoint rs = true → rs.length ≤ s.freeRegions.length → ∃ t, exec (.sealCfg chan) s = .next t ∧ SecEnds s t chan 0 q ∧
        (t.seal n).state = 1 ∧ (t.seal n).ranges = rs) ∧
    (SecAsked s chan 0x03 q → n < 16 → q.a0 + 1648 ≤ gddrBytes → (s.seal n).state = 1 → (s.seal n).dk ≠ [] →
      let b := s.secRead q.a0 1648
      ∀ ck, gcmOpen (digest32 (Config.kemDecaps (s.seal n).dk (cut b 0 1568) ++ (s.seal n).report)) (List.replicate 12 0)
        (cut b 1616 32) (cut b 1568 32) (cut b 1600 16) = some ck →
        ∃ t, exec (.keyDeliver chan) s = .next t ∧ SecEnds s t chan 0 q ∧ (t.seal n).state = 2 ∧ (t.seal n).ck = some ck) ∧
    (∀ ck l j pt, SecAsked s chan 0x04 q → n < 16 → 0 < q.len → q.a0 + blobBytes q.len ≤ gddrBytes → (s.seal n).ck = some ck →
      (s.seal n).state = 2 → s.inClosure n q.a1 q.len false = true →
      let h := s.secRead q.a0 4096
      let u := s.secSaw chan [(q.a0, 4096)]
      bfld h 0 4 = 0x42534C42 → bfld h 4 8 = q.len → cut h 12 32 = (s.seal n).modelId → (h.drop 44).any (· != 0) = false →
      q.len ≤ chunkBytes → p < 64 → place q.a1 = .bed l j → s.physOf l = some p → s.dark p = false → s.sb.en = false →
      s.closedBy (place q.a1) = some n → j + q.len ≤ parityBase → pt.length = q.len →
      gcmOpen ck (chunkNonce (s.seal n).modelId 0) (h.take 44) (u.secRead (q.a0 + 4096) q.len) (u.secRead (q.a0 + 4096 + q.len) 16) =
        some pt → ∃ t, exec (.importBlob chan) s = .next t ∧ SecEnds s t chan 0 q ∧
          ∀ i, i < q.len → (t.site p).bed.get (j + i) = pt.getD i 0) ∧
    (∀ ek, SecAsked s chan 0x05 q → s.sec.entropyBad = false → n < 16 → 0 < q.len → q.a1 + blobBytes q.len ≤ gddrBytes →
      q.a2 + 11980 ≤ gddrBytes → bfld (s.secRead q.a2 1) 0 1 ≤ 1 → (s.seal n).state = 2 → s.inClosure n q.a0 q.len true = true →
      s.recipient (s.secRead q.a2 11980) = some ek → ∃ t, exec (.exportBlob chan) s = .next t ∧ SecEnds s t chan 0 q) ∧
    (SecAsked s chan 0x06 q → q.a0 + 3842 ≤ gddrBytes → bfld (s.secRead q.a0 3842) 1793 1 < 4 → s.sec.owners = [] →
      ∃ t, exec (.ownerSet chan) s = .next t ∧ SecEnds s t chan 0 q ∧
        t.sec.owners.map Owner.key = [(s.secRead q.a0 3842).take 1793]) ∧
    (∀ w : Owner, SecAsked s chan 0x07 q → q.a0 + 2564 ≤ gddrBytes → s.sec.owner = some w →
      let b := s.secRead q.a0 2564
      bfld b 1 1 ≤ 8 → bfld b 2 1 ≤ 1 → bfld b 3 1 = 0 →
      Config.falconVerify w.key (digest64 (b.take 516)) (cut b 518 (min 2046 (bfld b 516 2))) = true →
      ∃ t, exec (.peerPolicy chan) s = .next t ∧ SecEnds s t chan 0 q ∧ t.sec.policy.map PeerPol.minSvn = some (bfld b 0 1)) ∧
    (SecAsked s chan 0x08 q → q.a0 + 64 ≤ gddrBytes → ∃ t, exec (.extendM7 chan) s = .next t ∧ SecEnds s t chan 0 q ∧
      t.sec.meas.getD 7 [] = extend (s.sec.meas.getD 7 (List.replicate 64 0)) (s.secRead q.a0 64)) ∧
    (SecAsked s chan 0x09 q → n = 1 → ∃ t, exec (.svnCommit chan) s = .next t ∧ SecEnds s t chan 0 q ∧
      t.sec.svnS1 = max s.sec.svnS1 s.sec.runS1) ∧
    (SecAsked s chan 0x10 q → q.a0 + 9324 ≤ gddrBytes → q.a1 + 8192 ≤ fwBase → q.a2 + 64 ≤ gddrBytes →
      ∀ key, chainKey (cut (s.secRead q.a0 9324) 3072 6252) = some key →
        s.sec.peerOk true key ((s.secRead q.a0 9324).take 3072) s.sec.nonce = true →
        ∃ t, exec (.linkAttest chan) s = .next t ∧ SecEnds s t chan 0 q) ∧
    (SecAsked s chan 0x11 q → n < 16 → q.a0 + q.len ≤ gddrBytes → ∃ t, exec (.codeMeasure chan) s = .next t ∧
      SecEnds s t chan 0 q ∧ (t.seal n).meas = extend (s.seal n).meas (digest64 (s.secRead q.a0 q.len))) ∧
    (SecAsked s chan 0x12 q → n < 16 → (s.ctx n).desc.sealedCtx = true → ∃ t, exec (.erase chan) s = .next t ∧
      SecEnds s t chan 0 q ∧ t.slotGen (n + 1) = 0 ∧ (t.seal n).state = 0) ∧
    (∃ t, exec .entropyFail s = .next t ∧ t.sec.entropyBad = true ∧ t.sec.cause = s.sec.cause ||| 0x40) ∧
    (∀ slot : BitVec 5, slot.toNat ≤ 16 → ∃ t, exec (.keyUe slot) s = .next t ∧ t.slotGen slot.toNat = 0 ∧
      t.sec.cause = s.sec.cause ||| 0x20)

/-- 13 R391, 15 R446–R459, R512, 16 R470–R489: the rows of faults, Ethernet, power, clocks, temperature and reset
complete with their own effect: an urgent event is claimed, a HALT reaches its cores, losses and failed edges are
latched, columns, cores, sites and spares are grafted or retired, steps restart, halves and harts are replaced; a frame
reaches its ring and a descriptor sends one; a sag enters a level that a recovery leaves, overvoltage and the orderly
off act, the governor, the phases and the sensors move their caps, REFCLK's loss, return and expiry act, a PLL's lost
lock acts, RST_N, PWRGD and SYS_RST reset, COLD_START releases hart 0, and a register write writes its register. -/
def Obligations.FaultAndPowerCommandsComplete : Prop :=
  ∀ (s : State) (site : SiteNo) (l : SiteNo) (c : CoreNo) (oc : BitVec 5) (port : BitVec 4) (ctx : BitVec 4),
    let p := site.toNat
    let n := ctx.toNat
    let unsealed : Prop := ∀ m, m < 16 → s.sealedNow m = false
    (∀ u r, s.gis.urgent = u :: r → s.fwRuns = true → oc.toNat ∈ s.urgentCores → ∃ t, exec (.urgentLatch oc none) s = .next t ∧
      (∃ new, t.gis.urgent = r ++ new) ∧ (sget (fun _ => Alm.init) t.alms (s.almHead.toNat % 4096)).kind = 0x02) ∧
    (∀ mask reason, ∃ t, exec (.halt (.orrery oc) mask reason) s = .next t ∧ t.gis.halted = s.gis.halted ||| mask ∧
      ∀ k ∈ s.haltKeys mask, k ∈ t.gis.arrive) ∧
    (∀ k m, s.key l c = some k → k ∈ s.gis.arrive → (s.core k).ctx = some m → s.gis.inForce.getLsbD m.toNat = true →
      ∃ t, exec (.haltArrival l c) s = .next t ∧ (t.core k).cc.st = .halted ∧ (t.core k).me.queue = [] ∧ k ∉ t.gis.arrive) ∧
    (s.present p = true → ∃ t, exec (.siteHeartbeatLoss site) s = .next t ∧
      t.gis.siteLost = s.gis.siteLost ||| BitVec.ofNat 64 (2 ^ p)) ∧
    (∀ q, s.physOf l.toNat = some q → s.dark q = false → ∃ t, exec (.coreLost l c) s = .next t ∧ (t.site q).cause.getLsbD 0 = true) ∧
    (∀ edge : BitVec 2, s.present p = true → (∀ q, neighbour p edge.toNat = some q → s.present q = true) →
      edgePair p (farEnd p edge.toNat) ∉ s.grid.edges → ∃ t, exec (.edgeFail site edge) s = .next t ∧
        t.grid.edges = s.grid.edges ++ [edgePair p (farEnd p edge.toNat)] ∧ (t.site p).cause.getLsbD 1 = true) ∧
    (∀ q g (fails : BitVec 130), s.physOf l.toNat = some q → s.graftTurn 0 q c.toNat = some g →
      (s.core (s.keyOf q c.toNat)).me.idle = true → (onesOf 130 fails.toNat).length < 11 →
      fails &&& ~~~(s.core (s.keyOf q c.toNat)).me.colfail ≠ 0 → ∃ t, exec (.columnGraft l c fails true) s = .next t ∧
        (t.core (s.keyOf q c.toNat)).me.colfail = fails ∧ t.gis.grafts = s.gis.grafts.filter (· != g)) ∧
    (∀ q g i rest, s.physOf l.toNat = some q → s.graftTurn 1 q c.toNat = some g → s.spareCores q = i :: rest →
      (s.core (s.keyOf q c.toNat)).ctx = none → ∃ t, exec (.coreGraft l c true) s = .next t ∧ (t.site q).physCore c.toNat = i ∧
        (t.core (64 * q + i)).cc.eng = 0b111 ∧ t.gis.grafts = s.gis.grafts.filter (· != g)) ∧
    (∀ i g q, s.graftTurn 2 p 0 = some g → s.logicalOf p = some i → s.sb.state ≠ 3 → s.nearestSpare p = some q → q < 64 →
      (onesOf 34 (s.site q).failed.toNat).length ≤ 2 → ∃ t, exec (.siteGraft site true) s = .next t ∧ t.role p = .retired ∧
        t.role q = .active ∧ t.logicalOf q = some i ∧ t.grid.gen = s.grid.gen + 1) ∧
    (∀ g, s.graftTurn 4 p 0 = some g → s.role p = .spare → ∃ t, exec (.spareSiteRetire site true) s = .next t ∧
      t.role p = .retired ∧ t.grid.gen = s.grid.gen) ∧
    (s.restartReady n = true → (s.ctx n).entries = [] → s.gis.grafts = [] → ∃ t, exec (.stepRestart ctx) s = .next t ∧
      t.gis.halted = setBit s.gis.halted n false ∧ t.pwr.redo = setBit s.pwr.redo n false) ∧
    (∀ (xd : BitVec 2) half, (s.xd xd.toNat).halves = 0 → ∃ t, exec (.halfFail xd half) s = .next t ∧
      (t.xd xd.toNat).halves.getLsbD (bit half) = true ∧ (t.xd xd.toNat).xdlCause = (s.xd xd.toNat).xdlCause ||| 1) ∧
    (∀ hart : BitVec 5, hart.toNat < 18 → s.host.inService.getLsbD hart.toNat = true → ∃ t, exec (.hartGraft hart) s = .next t ∧
      t.host.inService.getLsbD hart.toNat = false ∧ t.host.failedHarts.getLsbD hart.toNat = true ∧ t.host.cause.getLsbD 0 = true) ∧
    (∀ (eth : BitVec 2) prio frame fcs r, eth.toNat < 3 → 64 ≤ List.length frame → List.length frame ≤ 9216 →
      s.ethRingAt (ethKey eth.toNat true (BitVec.toNat (prio.getD 0))) = some r → r.due s.tick = false →
      ∃ t, exec (.frameReceive eth prio frame fcs) s = .next t ∧
        t.host.rxHold = s.host.rxHold ++ [(ethKey eth.toNat true (BitVec.toNat (prio.getD 0)), frame, fcs)]) ∧
    (∀ (eth : BitVec 2) ring r, eth.toNat < 3 → s.ethRingAt (ethKey eth.toNat false (BitVec.toNat ring)) = some r → r.due s.tick = true →
      let at_ := r.base + 16 * r.cursor
      let d := s.readRun .ethernet at_ 16
      unsealed → areaOk at_ 16 = true → bitAt (bfld d 10 1) 0 = true → bitAt (bfld d 10 1) 1 = true → areaOk (bfld d 0 6) (bfld d 8 2) = true →
      s.spanEv .ethernet none at_ 16 = [] → ∃ t, exec (.descriptorPoll eth false ring) s = .next t ∧
        t.outbox = s.outbox ++ [.frame eth (sget (fun _ => []) s.host.txFrame (ethKey eth.toNat false (BitVec.toNat ring)) ++
          s.readRun .ethernet (bfld d 0 6) (bfld d 8 2))]) ∧
    (∀ v : Half, sampleDue s.pwr.vinAt 94 s.tick = true → s.powered = true → s.pwr.level.toNat ≤ 5 →
      ∃ t, exec (.vinSample v) s = .next t ∧ t.pwr.vin = v ∧
        t.pwr.level.toNat = max s.pwr.level.toNat (enterAt.filter (fun th => decide (max v.toNat s.pwr.vin.toNat < th))).length) ∧
    (∀ since : DWord, s.powered = true → 1 ≤ s.pwr.level.toNat → s.pwr.level.toNat ≤ 4 →
      s.pwr.aboveSince[s.pwr.level.toNat - 1]? = some (some since) → since.toNat + 94000 ≤ s.tick.toNat →
      ∃ t, exec .pruneLevelExit s = .next t ∧ t.pwr.level.toNat = s.pwr.level.toNat - 1 ∧ t.pwr.cause.getLsbD 1 = true) ∧
    (∀ since, s.pwr.overSince = some since → s.pwr.off = false → since.toNat + 940 ≤ s.tick.toNat →
      ∃ t, exec .overvoltage s = .next t ∧ t.pwr.level = 5 ∧ t.pwr.cause.getLsbD 2 = true) ∧
    (s.pwr.level = 5 → ∃ t, exec .orderlyOff s = .next t ∧ t.pwr.off = true ∧ t.flash = s.flash ∧ t.ctxs = []) ∧
    (∀ watts : Half, sampleDue s.pwr.govAt 940 s.tick = true → ∃ t, exec (.governorTick watts) s = .next t ∧ t.pwr.p1 = watts ∧
      t.pwr.hist = (watts.toNat :: s.pwr.hist).take 10) ∧
    (∀ domain : BitVec 7, domain.toNat < 80 → s.pd domain.toNat ≠ .off → ∃ t, exec (.phaseRetire domain) s = .next t ∧
      sget (fun _ => 0) t.pwr.phases domain.toNat = sget (fun _ => 0) s.pwr.phases domain.toNat + 1 ∧ t.pwr.cause.getLsbD 3 = true) ∧
    (∀ (sensor : BitVec 7) (w : Byte), sensor.toNat < 68 → s.pwr.off = false →
      sampleDue (sget (fun _ => none) s.therm.sampled sensor.toNat) 9400 s.tick = true →
      ∃ t, exec (.thermalSample sensor w) s = .next t ∧ t.therm.temp sensor.toNat = w) ∧
    (s.therm.lastStep.toNat + 94000 ≤ s.tick.toNat → (∃ m, m < 68 ∧ s.therm.throttleC ≤ s.therm.temp m) →
      ∃ t, exec .throttleStep s = .next t ∧ t.pwr.thermCap.toNat = s.pwr.thermCap.toNat - 1 ∧ t.therm.lastStep = s.tick) ∧
    (s.clk.refclk = true → s.pwr.off = false → s.starting = false → ∃ t, exec .refclkLoss s = .next t ∧ t.clk.holdover = true ∧
      t.clk.holdStart = s.tick ∧ t.clk.cause = s.clk.cause ||| 1) ∧
    (s.clk.refclk = false → s.pwr.off = false → s.clk.holdover = true → s.tick.toNat < s.clk.holdStart.toNat + holdoverMax →
      ∃ t, exec .refclkReturn s = .next t ∧ t.clk.refclk = true ∧ t.clk.holdover = false ∧ t.clk.cause = s.clk.cause ||| 2) ∧
    (s.clk.holdover = true → s.clk.holdStart.toNat + holdoverMax ≤ s.tick.toNat → s.pwr.off = false → s.pwr.level ≠ 5 →
      ∃ t, exec .holdoverExpiry s = .next t ∧ t.pwr.level = 5) ∧
    (s.pwr.off = false → (∃ t, exec .pllUnlock s = .next t ∧ t.pwr.level = 5 ∧ t.clk.locked = false) ∧
      ∃ t, exec (.serdesPll port) s = .next t ∧ (t.port port.toNat).state = 5 ∧ t.clk.cause = s.clk.cause ||| 8) ∧
    (∀ low, 9400 ≤ low → ∃ t, exec (.rstN low) s = .next t ∧ t.pwr.off = true ∧ t.host.hart0 = false ∧ t.ctxs = []) ∧
    (s.host.hart0 = true → s.pwr.off = false → s.pwr.level ≠ 5 → ∃ t, exec .pwrgdFall s = .next t ∧ t.pwr.level = 5 ∧
      t.pins.pwrgd = false) ∧
    (∀ value : DWord, value.extractLsb' 0 8 = 0xA5 → value.getLsbD 8 = true → s.warm = .idle → s.pwr.level.toNat < 3 →
      ∃ t, exec (.sysRst .host value) s = .next t ∧ t.warm = .resetting ∧ t.ctxs = [] ∧ t.fab = Fab.init) ∧
    (∀ y, s.warm = .resetting → 1 ≤ s.flash.hostGib → s.flash.hostBase + s.flash.hostGib * 2 ^ 30 ≤ fwBase → s.pwr.off = false →
      s.trainStops = false → s.host.hart0 = false → 4600 ≤ s.pwr.vin.toNat → s.clk.refclk = true →
      (∀ q, q < 64 → s.role q = .active → (onesOf 34 (s.site q).failed.toNat).length ≤ 2 ∧
        ∀ i, i < 34 → (onesOf 130 (s.core (64 * q + i)).me.colfail.toNat).length < 11) →
      s.bootSlot true s.flash.ldSel s.flash.ldA s.flash.ldB = some y → ∃ t, exec (.coldStart [] [] [] true) s = .next t ∧
        t.warm = .idle ∧ t.host.hart0 = true) ∧
    (∀ v : DWord, unsealed → ∃ t, exec (.registerWrite .host 0x320000007030 v) s = .next t ∧
      t.orr.hbLimit = BitVec.ofNat 40 (max 9400000 (v.toNat % 2 ^ 40)))
end

