-- ==== Sys2Proof/Laws/Bits.lean ====
section
/-! SUPPORT. Bit fields: `bitAt` and `setBit` in terms of the bits of a vector. -/

namespace Sys2Proof.Machine

theorem bitAt_eq (n i : Nat) : bitAt n i = n.testBit i := by
  rw [bitAt, Nat.testBit_eq_decide_div_mod_eq]; rfl

@[simp] theorem bitAt_toNat {w : Nat} (v : BitVec w) (i : Nat) : bitAt v.toNat i = v.getLsbD i := by
  rw [bitAt_eq]; rfl

theorem setBit_getLsbD {w : Nat} (v : BitVec w) (i j : Nat) (b : Bool) (hi : i < w) :
    (setBit v i b).getLsbD j = if j = i then b else v.getLsbD j := by
  have h1 : (BitVec.ofNat w (2 ^ i)).getLsbD j = decide (j = i) := by
    rw [BitVec.getLsbD_ofNat, Nat.testBit_two_pow]
    by_cases h : j = i
    · subst h; simp [hi]
    · have : ¬i = j := fun h' => h h'.symm
      simp [h, this]
  unfold setBit
  cases b
  · simp only [Bool.false_eq_true, if_false, BitVec.getLsbD_and, BitVec.getLsbD_not, h1]
    by_cases h : j = i
    · subst h; simp
    · by_cases hj : j < w
      · simp [h, hj]
      · simp [h, BitVec.getLsbD_of_ge v j (by omega)]
  · simp only [if_true, BitVec.getLsbD_or, h1]
    by_cases h : j = i <;> simp [h]

theorem fld_lt (w lo len : Nat) : fld w lo len < 2 ^ len := Nat.mod_lt _ (Nat.two_pow_pos len)

end Sys2Proof.Machine
end

