-- ==== Sys2Proof/Laws/Sparse.lean ====
section
/-! SUPPORT. Laws of the sparse maps and of the memories over them: a key reads what was last written to it, other keys
are left alone, and every operation keeps the canonical form. -/

namespace Sys2Proof.Machine

variable {α : Type}

@[simp] theorem sget_nil (d : Nat → α) (k : Nat) : sget d [] k = d k := by rfl

theorem sget_sdel (d : Nat → α) (m : Sparse α) (k j : Nat) :
    sget d (sdel m k) j = if j = k then d k else sget d m j := by
  induction m with
  | nil => simp only [sdel, sget]; split <;> simp_all
  | cons e r ih =>
    obtain ⟨k', w⟩ := e
    by_cases h : k' = k
    · subst h; simp only [sdel, if_true, ih, sget]; split <;> simp_all
    · simp only [sdel, if_neg h, sget, ih]
      by_cases h1 : j = k'
      · subst h1; simp [h]
      · simp [h1]

/-- A read after a write. -/
@[simp] theorem sget_sset [DecidableEq α] (d : Nat → α) (m : Sparse α) (k j : Nat) (v : α) :
    sget d (sset d m k v) j = if j = k then v else sget d m j := by
  induction m with
  | nil => simp only [sset]; split <;> simp only [sget] <;> split <;> simp_all
  | cons e r ih =>
    obtain ⟨k', w⟩ := e
    by_cases h : k' = k
    · subst h; simp only [sset, if_true, ih, sget]; split <;> simp_all
    · by_cases h2 : k < k'
      · simp only [sset, if_neg h, if_pos h2]
        split <;> simp only [sget, sget_sdel] <;> by_cases h1 : j = k' <;> by_cases h3 : j = k <;> simp_all
      · simp only [sset, if_neg h, if_neg h2, sget, ih]
        by_cases h1 : j = k'
        · subst h1; simp [h]
        · simp [h1]

theorem sdel_sdel (m : Sparse α) (k : Nat) : sdel (sdel m k) k = sdel m k := by
  induction m with
  | nil => rfl
  | cons e r ih => obtain ⟨k', w⟩ := e; by_cases h : k' = k <;> simp [sdel, h, ih]

theorem sset_sdel [DecidableEq α] (d : Nat → α) (m : Sparse α) (k : Nat) (v : α) :
    sset d (sdel m k) k v = sset d m k v := by
  induction m with
  | nil => rfl
  | cons e r ih =>
    obtain ⟨k', w⟩ := e
    by_cases h : k' = k
    · simp [sdel, sset, h, ih]
    · simp [sdel, sset, h, ih, sdel_sdel]

/-- The second of two writes to one key stands. -/
@[simp] theorem sset_sset [DecidableEq α] (d : Nat → α) (m : Sparse α) (k : Nat) (v w : α) :
    sset d (sset d m k v) k w = sset d m k w := by
  induction m with
  | nil => simp only [sset]; split <;> simp [sset]
  | cons e r ih =>
    obtain ⟨k', u⟩ := e
    by_cases h : k' = k
    · simp [sset, h, ih]
    · by_cases h2 : k < k'
      · simp only [sset, if_neg h, if_pos h2]
        split
        · simp [sset, h, h2, sdel_sdel]
        · simp [sset, sdel, h, h2, sdel_sdel]
      · simp [sset, h, h2, ih]

/-! ## The canonical form -/

theorem swfFrom_mono [DecidableEq α] (d : Nat → α) (m : Sparse α) (a b : Nat) (h : swfFrom d a m = true) (hb : b ≤ a) :
    swfFrom d b m = true := by
  cases m with
  | nil => rfl
  | cons e r => obtain ⟨k, v⟩ := e; simp only [swfFrom, Bool.and_eq_true, decide_eq_true_eq] at h ⊢; exact ⟨⟨by omega, h.1.2⟩, h.2⟩

theorem sdel_of_lt [DecidableEq α] (d : Nat → α) (m : Sparse α) (a k : Nat) (h : swfFrom d a m = true) (hk : k < a) :
    sdel m k = m := by
  induction m generalizing a with
  | nil => rfl
  | cons e r ih =>
    obtain ⟨k', v⟩ := e
    simp only [swfFrom, Bool.and_eq_true, decide_eq_true_eq] at h
    simp only [sdel, if_neg (by omega : ¬k' = k), ih (k' + 1) h.2 (by omega)]

theorem sset_of_lt [DecidableEq α] (d : Nat → α) (m : Sparse α) (a k : Nat) (v : α) (h : swfFrom d a m = true) (hk : k < a) :
    sset d m k v = if v = d k then m else (k, v) :: m := by
  cases m with
  | nil => rfl
  | cons e r =>
    obtain ⟨k', w⟩ := e
    have h' := h
    simp only [swfFrom, Bool.and_eq_true, decide_eq_true_eq] at h
    simp only [sset, if_neg (by omega : ¬k' = k), if_pos (by omega : k < k'),
      sdel_of_lt d r (k' + 1) k h.2 (by omega)]

theorem sset_wfFrom [DecidableEq α] (d : Nat → α) (m : Sparse α) (a k : Nat) (v : α) (h : swfFrom d a m = true)
    (hk : a ≤ k) : swfFrom d a (sset d m k v) = true := by
  induction m generalizing a with
  | nil => simp only [sset]; split <;> simp_all [swfFrom]
  | cons e r ih =>
    obtain ⟨k', w⟩ := e
    have hr := h
    simp only [swfFrom, Bool.and_eq_true, decide_eq_true_eq] at h
    by_cases h1 : k' = k
    · subst h1
      simp only [sset, if_true, sset_of_lt d r (k' + 1) k' v h.2 (by omega)]
      split
      · exact swfFrom_mono d r (k' + 1) a h.2 (by omega)
      · simp_all [swfFrom]
    · by_cases h2 : k < k'
      · simp only [sset, if_neg h1, if_pos h2, sdel_of_lt d r (k' + 1) k h.2 (by omega)]
        split
        · exact hr
        · simp only [swfFrom, Bool.and_eq_true, decide_eq_true_eq]
          exact ⟨⟨hk, by simp_all⟩, ⟨by omega, h.1.2⟩, h.2⟩
      · simp only [sset, if_neg h1, if_neg h2, swfFrom, Bool.and_eq_true, decide_eq_true_eq]
        exact ⟨h.1, ih (k' + 1) h.2 (by omega)⟩

/-- A write keeps the canonical form. -/
theorem sset_wf [DecidableEq α] (d : Nat → α) (m : Sparse α) (k : Nat) (v : α) (h : swf d m = true) :
    swf d (sset d m k v) = true := sset_wfFrom d m 0 k v h (Nat.zero_le k)

theorem filter_wfFrom [DecidableEq α] (d d' : Nat → α) (p : Nat × α → Bool) (m : Sparse α) (a : Nat)
    (h : swfFrom d a m = true) (hd : ∀ e, e ∈ m → p e = true → d' e.1 = d e.1) : swfFrom d' a (m.filter p) = true := by
  induction m generalizing a with
  | nil => rfl
  | cons e r ih =>
    obtain ⟨k, v⟩ := e
    simp only [swfFrom, Bool.and_eq_true, decide_eq_true_eq] at h
    have ih' := ih (k + 1) h.2 (fun e he => hd e (List.mem_cons_of_mem _ he))
    by_cases hp : p (k, v) = true
    · rw [List.filter_cons_of_pos hp]
      simp only [swfFrom, Bool.and_eq_true, decide_eq_true_eq]
      have hk : d' k = d k := hd (k, v) List.mem_cons_self hp
      exact ⟨⟨h.1.1, by rw [hk]; exact h.1.2⟩, ih'⟩
    · rw [List.filter_cons_of_neg hp]
      exact swfFrom_mono d' _ (k + 1) a ih' (by omega)

/-! ## Byte memories -/

@[simp] theorem Mem.dflt_set (m : Mem) (a : Nat) (b : Byte) : (m.set a b).dflt = m.dflt := by rfl

/-- A read after a write of one byte. -/
@[simp] theorem Mem.get_set (m : Mem) (a j : Nat) (b : Byte) : (m.set a b).get j = if j = a then b else m.get j := by
  simp only [Mem.get, Mem.dflt_set]
  exact sget_sset m.dflt m.cells a j b

@[simp] theorem Mem.get_put (m : Mem) (a j : Nat) (w : Wr) :
    (m.put a w).get j = if j = a then w.over (m.get a) else m.get j := Mem.get_set m a j _

/-- A run of bytes changes only its own addresses. -/
theorem Mem.get_setBytes (m : Mem) (a j : Nat) (bs : List Byte) :
    (m.setBytes a bs).get j = if a ≤ j ∧ j < a + bs.length then bs.getD (j - a) 0 else m.get j := by
  induction bs generalizing m a with
  | nil => simp only [Mem.setBytes, List.length_nil]; rw [if_neg (by omega)]
  | cons b r ih =>
    simp only [Mem.setBytes, ih, Mem.get_set, List.length_cons]
    by_cases h : j = a
    · subst h; rw [if_neg (by omega), if_pos rfl, if_pos (by omega)]; simp
    · by_cases h1 : a + 1 ≤ j ∧ j < a + 1 + r.length
      · rw [if_pos h1, if_pos (by omega)]
        obtain ⟨n, hn⟩ : ∃ n, j - a = n + 1 := ⟨j - a - 1, by omega⟩
        rw [hn, show j - (a + 1) = n by omega]; simp
      · rw [if_neg h1, if_neg h, if_neg (by omega)]

theorem Mem.get_fillRange (m : Mem) (lo hi j : Nat) (src : List FreeSrc) :
    (m.fillRange lo hi src).get j = if lo ≤ j ∧ j < hi then freeXor j src else m.get j := by
  have key : ∀ (d d' : Nat → Byte) (c : Sparse Byte), (∀ n, ¬(lo ≤ n ∧ n < hi) → d' n = d n) →
      sget d' (c.filter (fun c => decide (c.1 < lo ∨ hi ≤ c.1))) j
        = if lo ≤ j ∧ j < hi then d' j else sget d c j := by
    intro d d' c hd
    induction c with
    | nil => simp only [List.filter_nil, sget]; split
             · rfl
             · exact hd j (by assumption)
    | cons e r ih =>
      obtain ⟨k, v⟩ := e
      by_cases hk : k < lo ∨ hi ≤ k
      · rw [List.filter_cons_of_pos (by simpa using hk)]
        simp only [sget, ih]
        by_cases hj : j = k
        · rw [if_pos hj, if_neg (by omega), if_pos hj]
        · simp only [if_neg hj]
      · rw [List.filter_cons_of_neg (by simpa using hk), ih]
        by_cases hj : j = k
        · rw [if_pos (by omega), if_pos (by omega)]
        · simp only [sget, if_neg hj]
  have hd : ∀ n, (m.fillRange lo hi src).dflt n = if lo ≤ n ∧ n < hi then freeXor n src else m.dflt n := by
    intro n
    simp only [Mem.dflt, Mem.fillRange, Mem.srcAt, List.find?_cons]
    by_cases hn : lo ≤ n ∧ n < hi <;> simp [hn]
  show sget (m.fillRange lo hi src).dflt _ j = _
  rw [show (m.fillRange lo hi src).cells = m.cells.filter (fun c => decide (c.1 < lo ∨ hi ≤ c.1)) from rfl,
    key m.dflt _ m.cells (fun n hn => by rw [hd, if_neg hn]), hd]
  split <;> rfl

theorem Mem.set_wf (m : Mem) (a : Nat) (b : Byte) (h : m.wf = true) : (m.set a b).wf = true := sset_wf m.dflt m.cells a b h

theorem Mem.put_wf (m : Mem) (a : Nat) (w : Wr) (h : m.wf = true) : (m.put a w).wf = true := m.set_wf a _ h

theorem Mem.setBytes_wf (m : Mem) (a : Nat) (bs : List Byte) (h : m.wf = true) : (m.setBytes a bs).wf = true := by
  induction bs generalizing m a with
  | nil => exact h
  | cons b r ih => exact ih _ _ (m.set_wf a b h)

theorem Mem.fillRange_wf (m : Mem) (lo hi : Nat) (src : List FreeSrc) (h : m.wf = true) :
    (m.fillRange lo hi src).wf = true := by
  refine filter_wfFrom m.dflt _ _ m.cells 0 h (fun e _ hp => ?_)
  have hp' : e.1 < lo ∨ hi ≤ e.1 := by simpa using hp
  simp only [Mem.dflt, Mem.fillRange, Mem.srcAt, List.find?_cons]
  rw [show decide (lo ≤ e.1 ∧ e.1 < hi) = false from by simp; omega]

theorem Mem.spoil_wf (m : Mem) (lo hi n : Nat) (h : m.wf = true) : (m.spoil lo hi n).wf = true := m.fillRange_wf lo hi _ h

theorem Mem.clear_wf (m : Mem) (lo hi : Nat) (h : m.wf = true) : (m.clear lo hi).wf = true := m.fillRange_wf lo hi _ h

theorem Mem.xorRange_wf (m : Mem) (lo len : Nat) (srcs : List (Mem × Nat)) (h : m.wf = true) :
    (m.xorRange lo len srcs).wf = true := by
  have h1 : ∀ (l : List (Nat × Nat)) (f : Nat × Nat → List FreeSrc) (u : Mem), u.wf = true →
      (l.foldl (fun u c => u.fillRange (lo + c.1) (lo + c.2) (f c)) u).wf = true := by
    intro l f
    induction l with
    | nil => intro u hu; exact hu
    | cons c r ih => intro u hu; exact ih _ (u.fillRange_wf _ _ _ hu)
  have h2 : ∀ (l : List Nat) (u : Mem), u.wf = true → (l.foldl (fun u i => u.set (lo + i) (xorAt srcs i)) u).wf = true := by
    intro l
    induction l with
    | nil => intro u hu; exact hu
    | cons c r ih => intro u hu; exact ih _ (u.set_wf _ _ hu)
  exact h2 _ _ (h1 _ (fun c => _) m h)

theorem Mem.zero_wf : Mem.zero.wf = true := rfl

theorem Mem.undef_wf (n : Nat) : (Mem.undef n).wf = true := rfl

@[simp] theorem Mem.get_zero (a : Nat) : Mem.zero.get a = 0 := rfl

@[simp] theorem Mem.bytes_length (m : Mem) (a n : Nat) : (m.bytes a n).length = n := by
  induction n generalizing a with
  | zero => rfl
  | succ n ih => simp [Mem.bytes, ih]

/-- Byte `i` of a range read. -/
theorem Mem.bytes_getD (m : Mem) (a n i : Nat) (h : i < n) : (m.bytes a n).getD i 0 = m.get (a + i) := by
  induction n generalizing a i with
  | zero => omega
  | succ n ih =>
    cases i with
    | zero => simp [Mem.bytes]
    | succ i => simp only [Mem.bytes, List.getD_cons_succ]; rw [ih _ _ (by omega)]; congr 1; omega

/-! ## Accumulator tiles -/

@[simp] theorem Tile.dflt_set (t : Tile) (k : Nat) (v : Word) : (t.set k v).dflt = t.dflt := by rfl

@[simp] theorem Tile.get_set (t : Tile) (k j : Nat) (v : Word) : (t.set k v).get j = if j = k then v else t.get j := by
  simp only [Tile.get, Tile.dflt_set]
  exact sget_sset t.dflt t.cells k j v

theorem Tile.set_wf (t : Tile) (k : Nat) (v : Word) (h : t.wf = true) : (t.set k v).wf = true := sset_wf t.dflt t.cells k v h

@[simp] theorem Tile.get_zero (k : Nat) : Tile.zero.get k = 0 := rfl

end Sys2Proof.Machine
end

