-- ==== Sys2Proof/Laws/State.lean ====
section
/-! SUPPORT. The updates of the state: what each leaves alone, and what a part reads after it. `modX` is normalised to
`setX`; no proof needs to unfold a record update. -/

namespace Sys2Proof.Machine

variable (s : State)

@[simp] theorem State.setSite_part (p : Nat) (x : Site) : (s.setSite p x).part = s.part := by rfl
@[simp] theorem State.setSite_tick (p : Nat) (x : Site) : (s.setSite p x).tick = s.tick := by rfl
@[simp] theorem State.setSite_grid (p : Nat) (x : Site) : (s.setSite p x).grid = s.grid := by rfl
@[simp] theorem State.setSite_cores (p : Nat) (x : Site) : (s.setSite p x).cores = s.cores := by rfl
@[simp] theorem State.setSite_xds (p : Nat) (x : Site) : (s.setSite p x).xds = s.xds := by rfl
@[simp] theorem State.setSite_ports (p : Nat) (x : Site) : (s.setSite p x).ports = s.ports := by rfl
@[simp] theorem State.setSite_trellis (p : Nat) (x : Site) : (s.setSite p x).trellis = s.trellis := by rfl
@[simp] theorem State.setSite_fab (p : Nat) (x : Site) : (s.setSite p x).fab = s.fab := by rfl
@[simp] theorem State.setSite_sb (p : Nat) (x : Site) : (s.setSite p x).sb = s.sb := by rfl
@[simp] theorem State.setSite_gddr (p : Nat) (x : Site) : (s.setSite p x).gddr = s.gddr := by rfl
@[simp] theorem State.setSite_ctxs (p : Nat) (x : Site) : (s.setSite p x).ctxs = s.ctxs := by rfl
@[simp] theorem State.setSite_orr (p : Nat) (x : Site) : (s.setSite p x).orr = s.orr := by rfl
@[simp] theorem State.setSite_almHead (p : Nat) (x : Site) : (s.setSite p x).almHead = s.almHead := by rfl
@[simp] theorem State.setSite_alms (p : Nat) (x : Site) : (s.setSite p x).alms = s.alms := by rfl
@[simp] theorem State.setSite_flash (p : Nat) (x : Site) : (s.setSite p x).flash = s.flash := by rfl
@[simp] theorem State.setSite_host (p : Nat) (x : Site) : (s.setSite p x).host = s.host := by rfl
@[simp] theorem State.setSite_sec (p : Nat) (x : Site) : (s.setSite p x).sec = s.sec := by rfl
@[simp] theorem State.setSite_gis (p : Nat) (x : Site) : (s.setSite p x).gis = s.gis := by rfl
@[simp] theorem State.setSite_pwr (p : Nat) (x : Site) : (s.setSite p x).pwr = s.pwr := by rfl
@[simp] theorem State.setSite_clk (p : Nat) (x : Site) : (s.setSite p x).clk = s.clk := by rfl
@[simp] theorem State.setSite_therm (p : Nat) (x : Site) : (s.setSite p x).therm = s.therm := by rfl
@[simp] theorem State.setSite_pins (p : Nat) (x : Site) : (s.setSite p x).pins = s.pins := by rfl
@[simp] theorem State.setSite_notices (p : Nat) (x : Site) : (s.setSite p x).notices = s.notices := by rfl
@[simp] theorem State.setSite_warmLast (p : Nat) (x : Site) : (s.setSite p x).warmLast = s.warmLast := by rfl
@[simp] theorem State.setSite_warm (p : Nat) (x : Site) : (s.setSite p x).warm = s.warm := by rfl
@[simp] theorem State.setSite_freeCtr (p : Nat) (x : Site) : (s.setSite p x).freeCtr = s.freeCtr := by rfl
@[simp] theorem State.setSite_outbox (p : Nat) (x : Site) : (s.setSite p x).outbox = s.outbox := by rfl
@[simp] theorem State.setSite_pending (p : Nat) (x : Site) : (s.setSite p x).pending = s.pending := by rfl

@[simp] theorem State.setCore_part (k : Nat) (x : Core) : (s.setCore k x).part = s.part := by rfl
@[simp] theorem State.setCore_tick (k : Nat) (x : Core) : (s.setCore k x).tick = s.tick := by rfl
@[simp] theorem State.setCore_grid (k : Nat) (x : Core) : (s.setCore k x).grid = s.grid := by rfl
@[simp] theorem State.setCore_sites (k : Nat) (x : Core) : (s.setCore k x).sites = s.sites := by rfl
@[simp] theorem State.setCore_xds (k : Nat) (x : Core) : (s.setCore k x).xds = s.xds := by rfl
@[simp] theorem State.setCore_ports (k : Nat) (x : Core) : (s.setCore k x).ports = s.ports := by rfl
@[simp] theorem State.setCore_trellis (k : Nat) (x : Core) : (s.setCore k x).trellis = s.trellis := by rfl
@[simp] theorem State.setCore_fab (k : Nat) (x : Core) : (s.setCore k x).fab = s.fab := by rfl
@[simp] theorem State.setCore_sb (k : Nat) (x : Core) : (s.setCore k x).sb = s.sb := by rfl
@[simp] theorem State.setCore_gddr (k : Nat) (x : Core) : (s.setCore k x).gddr = s.gddr := by rfl
@[simp] theorem State.setCore_ctxs (k : Nat) (x : Core) : (s.setCore k x).ctxs = s.ctxs := by rfl
@[simp] theorem State.setCore_orr (k : Nat) (x : Core) : (s.setCore k x).orr = s.orr := by rfl
@[simp] theorem State.setCore_almHead (k : Nat) (x : Core) : (s.setCore k x).almHead = s.almHead := by rfl
@[simp] theorem State.setCore_alms (k : Nat) (x : Core) : (s.setCore k x).alms = s.alms := by rfl
@[simp] theorem State.setCore_flash (k : Nat) (x : Core) : (s.setCore k x).flash = s.flash := by rfl
@[simp] theorem State.setCore_host (k : Nat) (x : Core) : (s.setCore k x).host = s.host := by rfl
@[simp] theorem State.setCore_sec (k : Nat) (x : Core) : (s.setCore k x).sec = s.sec := by rfl
@[simp] theorem State.setCore_gis (k : Nat) (x : Core) : (s.setCore k x).gis = s.gis := by rfl
@[simp] theorem State.setCore_pwr (k : Nat) (x : Core) : (s.setCore k x).pwr = s.pwr := by rfl
@[simp] theorem State.setCore_clk (k : Nat) (x : Core) : (s.setCore k x).clk = s.clk := by rfl
@[simp] theorem State.setCore_therm (k : Nat) (x : Core) : (s.setCore k x).therm = s.therm := by rfl
@[simp] theorem State.setCore_pins (k : Nat) (x : Core) : (s.setCore k x).pins = s.pins := by rfl
@[simp] theorem State.setCore_notices (k : Nat) (x : Core) : (s.setCore k x).notices = s.notices := by rfl
@[simp] theorem State.setCore_warmLast (k : Nat) (x : Core) : (s.setCore k x).warmLast = s.warmLast := by rfl
@[simp] theorem State.setCore_warm (k : Nat) (x : Core) : (s.setCore k x).warm = s.warm := by rfl
@[simp] theorem State.setCore_freeCtr (k : Nat) (x : Core) : (s.setCore k x).freeCtr = s.freeCtr := by rfl
@[simp] theorem State.setCore_outbox (k : Nat) (x : Core) : (s.setCore k x).outbox = s.outbox := by rfl
@[simp] theorem State.setCore_pending (k : Nat) (x : Core) : (s.setCore k x).pending = s.pending := by rfl

@[simp] theorem State.setXd_part (n : Nat) (x : Xd) : (s.setXd n x).part = s.part := by rfl
@[simp] theorem State.setXd_tick (n : Nat) (x : Xd) : (s.setXd n x).tick = s.tick := by rfl
@[simp] theorem State.setXd_grid (n : Nat) (x : Xd) : (s.setXd n x).grid = s.grid := by rfl
@[simp] theorem State.setXd_sites (n : Nat) (x : Xd) : (s.setXd n x).sites = s.sites := by rfl
@[simp] theorem State.setXd_cores (n : Nat) (x : Xd) : (s.setXd n x).cores = s.cores := by rfl
@[simp] theorem State.setXd_ports (n : Nat) (x : Xd) : (s.setXd n x).ports = s.ports := by rfl
@[simp] theorem State.setXd_trellis (n : Nat) (x : Xd) : (s.setXd n x).trellis = s.trellis := by rfl
@[simp] theorem State.setXd_fab (n : Nat) (x : Xd) : (s.setXd n x).fab = s.fab := by rfl
@[simp] theorem State.setXd_sb (n : Nat) (x : Xd) : (s.setXd n x).sb = s.sb := by rfl
@[simp] theorem State.setXd_gddr (n : Nat) (x : Xd) : (s.setXd n x).gddr = s.gddr := by rfl
@[simp] theorem State.setXd_ctxs (n : Nat) (x : Xd) : (s.setXd n x).ctxs = s.ctxs := by rfl
@[simp] theorem State.setXd_orr (n : Nat) (x : Xd) : (s.setXd n x).orr = s.orr := by rfl
@[simp] theorem State.setXd_almHead (n : Nat) (x : Xd) : (s.setXd n x).almHead = s.almHead := by rfl
@[simp] theorem State.setXd_alms (n : Nat) (x : Xd) : (s.setXd n x).alms = s.alms := by rfl
@[simp] theorem State.setXd_flash (n : Nat) (x : Xd) : (s.setXd n x).flash = s.flash := by rfl
@[simp] theorem State.setXd_host (n : Nat) (x : Xd) : (s.setXd n x).host = s.host := by rfl
@[simp] theorem State.setXd_sec (n : Nat) (x : Xd) : (s.setXd n x).sec = s.sec := by rfl
@[simp] theorem State.setXd_gis (n : Nat) (x : Xd) : (s.setXd n x).gis = s.gis := by rfl
@[simp] theorem State.setXd_pwr (n : Nat) (x : Xd) : (s.setXd n x).pwr = s.pwr := by rfl
@[simp] theorem State.setXd_clk (n : Nat) (x : Xd) : (s.setXd n x).clk = s.clk := by rfl
@[simp] theorem State.setXd_therm (n : Nat) (x : Xd) : (s.setXd n x).therm = s.therm := by rfl
@[simp] theorem State.setXd_pins (n : Nat) (x : Xd) : (s.setXd n x).pins = s.pins := by rfl
@[simp] theorem State.setXd_notices (n : Nat) (x : Xd) : (s.setXd n x).notices = s.notices := by rfl
@[simp] theorem State.setXd_warmLast (n : Nat) (x : Xd) : (s.setXd n x).warmLast = s.warmLast := by rfl
@[simp] theorem State.setXd_warm (n : Nat) (x : Xd) : (s.setXd n x).warm = s.warm := by rfl
@[simp] theorem State.setXd_freeCtr (n : Nat) (x : Xd) : (s.setXd n x).freeCtr = s.freeCtr := by rfl
@[simp] theorem State.setXd_outbox (n : Nat) (x : Xd) : (s.setXd n x).outbox = s.outbox := by rfl
@[simp] theorem State.setXd_pending (n : Nat) (x : Xd) : (s.setXd n x).pending = s.pending := by rfl

@[simp] theorem State.setPort_part (p : Nat) (x : Port) : (s.setPort p x).part = s.part := by rfl
@[simp] theorem State.setPort_tick (p : Nat) (x : Port) : (s.setPort p x).tick = s.tick := by rfl
@[simp] theorem State.setPort_grid (p : Nat) (x : Port) : (s.setPort p x).grid = s.grid := by rfl
@[simp] theorem State.setPort_sites (p : Nat) (x : Port) : (s.setPort p x).sites = s.sites := by rfl
@[simp] theorem State.setPort_cores (p : Nat) (x : Port) : (s.setPort p x).cores = s.cores := by rfl
@[simp] theorem State.setPort_xds (p : Nat) (x : Port) : (s.setPort p x).xds = s.xds := by rfl
@[simp] theorem State.setPort_trellis (p : Nat) (x : Port) : (s.setPort p x).trellis = s.trellis := by rfl
@[simp] theorem State.setPort_fab (p : Nat) (x : Port) : (s.setPort p x).fab = s.fab := by rfl
@[simp] theorem State.setPort_sb (p : Nat) (x : Port) : (s.setPort p x).sb = s.sb := by rfl
@[simp] theorem State.setPort_gddr (p : Nat) (x : Port) : (s.setPort p x).gddr = s.gddr := by rfl
@[simp] theorem State.setPort_ctxs (p : Nat) (x : Port) : (s.setPort p x).ctxs = s.ctxs := by rfl
@[simp] theorem State.setPort_orr (p : Nat) (x : Port) : (s.setPort p x).orr = s.orr := by rfl
@[simp] theorem State.setPort_almHead (p : Nat) (x : Port) : (s.setPort p x).almHead = s.almHead := by rfl
@[simp] theorem State.setPort_alms (p : Nat) (x : Port) : (s.setPort p x).alms = s.alms := by rfl
@[simp] theorem State.setPort_flash (p : Nat) (x : Port) : (s.setPort p x).flash = s.flash := by rfl
@[simp] theorem State.setPort_host (p : Nat) (x : Port) : (s.setPort p x).host = s.host := by rfl
@[simp] theorem State.setPort_sec (p : Nat) (x : Port) : (s.setPort p x).sec = s.sec := by rfl
@[simp] theorem State.setPort_gis (p : Nat) (x : Port) : (s.setPort p x).gis = s.gis := by rfl
@[simp] theorem State.setPort_pwr (p : Nat) (x : Port) : (s.setPort p x).pwr = s.pwr := by rfl
@[simp] theorem State.setPort_clk (p : Nat) (x : Port) : (s.setPort p x).clk = s.clk := by rfl
@[simp] theorem State.setPort_therm (p : Nat) (x : Port) : (s.setPort p x).therm = s.therm := by rfl
@[simp] theorem State.setPort_pins (p : Nat) (x : Port) : (s.setPort p x).pins = s.pins := by rfl
@[simp] theorem State.setPort_notices (p : Nat) (x : Port) : (s.setPort p x).notices = s.notices := by rfl
@[simp] theorem State.setPort_warmLast (p : Nat) (x : Port) : (s.setPort p x).warmLast = s.warmLast := by rfl
@[simp] theorem State.setPort_warm (p : Nat) (x : Port) : (s.setPort p x).warm = s.warm := by rfl
@[simp] theorem State.setPort_freeCtr (p : Nat) (x : Port) : (s.setPort p x).freeCtr = s.freeCtr := by rfl
@[simp] theorem State.setPort_outbox (p : Nat) (x : Port) : (s.setPort p x).outbox = s.outbox := by rfl
@[simp] theorem State.setPort_pending (p : Nat) (x : Port) : (s.setPort p x).pending = s.pending := by rfl

@[simp] theorem State.setCtx_part (n : Nat) (x : Ctx) : (s.setCtx n x).part = s.part := by rfl
@[simp] theorem State.setCtx_tick (n : Nat) (x : Ctx) : (s.setCtx n x).tick = s.tick := by rfl
@[simp] theorem State.setCtx_grid (n : Nat) (x : Ctx) : (s.setCtx n x).grid = s.grid := by rfl
@[simp] theorem State.setCtx_sites (n : Nat) (x : Ctx) : (s.setCtx n x).sites = s.sites := by rfl
@[simp] theorem State.setCtx_cores (n : Nat) (x : Ctx) : (s.setCtx n x).cores = s.cores := by rfl
@[simp] theorem State.setCtx_xds (n : Nat) (x : Ctx) : (s.setCtx n x).xds = s.xds := by rfl
@[simp] theorem State.setCtx_ports (n : Nat) (x : Ctx) : (s.setCtx n x).ports = s.ports := by rfl
@[simp] theorem State.setCtx_trellis (n : Nat) (x : Ctx) : (s.setCtx n x).trellis = s.trellis := by rfl
@[simp] theorem State.setCtx_fab (n : Nat) (x : Ctx) : (s.setCtx n x).fab = s.fab := by rfl
@[simp] theorem State.setCtx_sb (n : Nat) (x : Ctx) : (s.setCtx n x).sb = s.sb := by rfl
@[simp] theorem State.setCtx_gddr (n : Nat) (x : Ctx) : (s.setCtx n x).gddr = s.gddr := by rfl
@[simp] theorem State.setCtx_orr (n : Nat) (x : Ctx) : (s.setCtx n x).orr = s.orr := by rfl
@[simp] theorem State.setCtx_almHead (n : Nat) (x : Ctx) : (s.setCtx n x).almHead = s.almHead := by rfl
@[simp] theorem State.setCtx_alms (n : Nat) (x : Ctx) : (s.setCtx n x).alms = s.alms := by rfl
@[simp] theorem State.setCtx_flash (n : Nat) (x : Ctx) : (s.setCtx n x).flash = s.flash := by rfl
@[simp] theorem State.setCtx_host (n : Nat) (x : Ctx) : (s.setCtx n x).host = s.host := by rfl
@[simp] theorem State.setCtx_sec (n : Nat) (x : Ctx) : (s.setCtx n x).sec = s.sec := by rfl
@[simp] theorem State.setCtx_gis (n : Nat) (x : Ctx) : (s.setCtx n x).gis = s.gis := by rfl
@[simp] theorem State.setCtx_pwr (n : Nat) (x : Ctx) : (s.setCtx n x).pwr = s.pwr := by rfl
@[simp] theorem State.setCtx_clk (n : Nat) (x : Ctx) : (s.setCtx n x).clk = s.clk := by rfl
@[simp] theorem State.setCtx_therm (n : Nat) (x : Ctx) : (s.setCtx n x).therm = s.therm := by rfl
@[simp] theorem State.setCtx_pins (n : Nat) (x : Ctx) : (s.setCtx n x).pins = s.pins := by rfl
@[simp] theorem State.setCtx_notices (n : Nat) (x : Ctx) : (s.setCtx n x).notices = s.notices := by rfl
@[simp] theorem State.setCtx_warmLast (n : Nat) (x : Ctx) : (s.setCtx n x).warmLast = s.warmLast := by rfl
@[simp] theorem State.setCtx_warm (n : Nat) (x : Ctx) : (s.setCtx n x).warm = s.warm := by rfl
@[simp] theorem State.setCtx_freeCtr (n : Nat) (x : Ctx) : (s.setCtx n x).freeCtr = s.freeCtr := by rfl
@[simp] theorem State.setCtx_outbox (n : Nat) (x : Ctx) : (s.setCtx n x).outbox = s.outbox := by rfl
@[simp] theorem State.setCtx_pending (n : Nat) (x : Ctx) : (s.setCtx n x).pending = s.pending := by rfl

@[simp] theorem State.setOc_part (n : Nat) (x : OrrCore) : (s.setOc n x).part = s.part := by rfl
@[simp] theorem State.setOc_tick (n : Nat) (x : OrrCore) : (s.setOc n x).tick = s.tick := by rfl
@[simp] theorem State.setOc_grid (n : Nat) (x : OrrCore) : (s.setOc n x).grid = s.grid := by rfl
@[simp] theorem State.setOc_sites (n : Nat) (x : OrrCore) : (s.setOc n x).sites = s.sites := by rfl
@[simp] theorem State.setOc_cores (n : Nat) (x : OrrCore) : (s.setOc n x).cores = s.cores := by rfl
@[simp] theorem State.setOc_xds (n : Nat) (x : OrrCore) : (s.setOc n x).xds = s.xds := by rfl
@[simp] theorem State.setOc_ports (n : Nat) (x : OrrCore) : (s.setOc n x).ports = s.ports := by rfl
@[simp] theorem State.setOc_trellis (n : Nat) (x : OrrCore) : (s.setOc n x).trellis = s.trellis := by rfl
@[simp] theorem State.setOc_fab (n : Nat) (x : OrrCore) : (s.setOc n x).fab = s.fab := by rfl
@[simp] theorem State.setOc_sb (n : Nat) (x : OrrCore) : (s.setOc n x).sb = s.sb := by rfl
@[simp] theorem State.setOc_gddr (n : Nat) (x : OrrCore) : (s.setOc n x).gddr = s.gddr := by rfl
@[simp] theorem State.setOc_ctxs (n : Nat) (x : OrrCore) : (s.setOc n x).ctxs = s.ctxs := by rfl
@[simp] theorem State.setOc_almHead (n : Nat) (x : OrrCore) : (s.setOc n x).almHead = s.almHead := by rfl
@[simp] theorem State.setOc_alms (n : Nat) (x : OrrCore) : (s.setOc n x).alms = s.alms := by rfl
@[simp] theorem State.setOc_flash (n : Nat) (x : OrrCore) : (s.setOc n x).flash = s.flash := by rfl
@[simp] theorem State.setOc_host (n : Nat) (x : OrrCore) : (s.setOc n x).host = s.host := by rfl
@[simp] theorem State.setOc_sec (n : Nat) (x : OrrCore) : (s.setOc n x).sec = s.sec := by rfl
@[simp] theorem State.setOc_gis (n : Nat) (x : OrrCore) : (s.setOc n x).gis = s.gis := by rfl
@[simp] theorem State.setOc_pwr (n : Nat) (x : OrrCore) : (s.setOc n x).pwr = s.pwr := by rfl
@[simp] theorem State.setOc_clk (n : Nat) (x : OrrCore) : (s.setOc n x).clk = s.clk := by rfl
@[simp] theorem State.setOc_therm (n : Nat) (x : OrrCore) : (s.setOc n x).therm = s.therm := by rfl
@[simp] theorem State.setOc_pins (n : Nat) (x : OrrCore) : (s.setOc n x).pins = s.pins := by rfl
@[simp] theorem State.setOc_notices (n : Nat) (x : OrrCore) : (s.setOc n x).notices = s.notices := by rfl
@[simp] theorem State.setOc_warmLast (n : Nat) (x : OrrCore) : (s.setOc n x).warmLast = s.warmLast := by rfl
@[simp] theorem State.setOc_warm (n : Nat) (x : OrrCore) : (s.setOc n x).warm = s.warm := by rfl
@[simp] theorem State.setOc_freeCtr (n : Nat) (x : OrrCore) : (s.setOc n x).freeCtr = s.freeCtr := by rfl
@[simp] theorem State.setOc_outbox (n : Nat) (x : OrrCore) : (s.setOc n x).outbox = s.outbox := by rfl
@[simp] theorem State.setOc_pending (n : Nat) (x : OrrCore) : (s.setOc n x).pending = s.pending := by rfl

@[simp] theorem State.setSeal_part (n : Nat) (x : SealSt) : (s.setSeal n x).part = s.part := by rfl
@[simp] theorem State.setSeal_tick (n : Nat) (x : SealSt) : (s.setSeal n x).tick = s.tick := by rfl
@[simp] theorem State.setSeal_grid (n : Nat) (x : SealSt) : (s.setSeal n x).grid = s.grid := by rfl
@[simp] theorem State.setSeal_sites (n : Nat) (x : SealSt) : (s.setSeal n x).sites = s.sites := by rfl
@[simp] theorem State.setSeal_cores (n : Nat) (x : SealSt) : (s.setSeal n x).cores = s.cores := by rfl
@[simp] theorem State.setSeal_xds (n : Nat) (x : SealSt) : (s.setSeal n x).xds = s.xds := by rfl
@[simp] theorem State.setSeal_ports (n : Nat) (x : SealSt) : (s.setSeal n x).ports = s.ports := by rfl
@[simp] theorem State.setSeal_trellis (n : Nat) (x : SealSt) : (s.setSeal n x).trellis = s.trellis := by rfl
@[simp] theorem State.setSeal_fab (n : Nat) (x : SealSt) : (s.setSeal n x).fab = s.fab := by rfl
@[simp] theorem State.setSeal_sb (n : Nat) (x : SealSt) : (s.setSeal n x).sb = s.sb := by rfl
@[simp] theorem State.setSeal_gddr (n : Nat) (x : SealSt) : (s.setSeal n x).gddr = s.gddr := by rfl
@[simp] theorem State.setSeal_ctxs (n : Nat) (x : SealSt) : (s.setSeal n x).ctxs = s.ctxs := by rfl
@[simp] theorem State.setSeal_orr (n : Nat) (x : SealSt) : (s.setSeal n x).orr = s.orr := by rfl
@[simp] theorem State.setSeal_almHead (n : Nat) (x : SealSt) : (s.setSeal n x).almHead = s.almHead := by rfl
@[simp] theorem State.setSeal_alms (n : Nat) (x : SealSt) : (s.setSeal n x).alms = s.alms := by rfl
@[simp] theorem State.setSeal_flash (n : Nat) (x : SealSt) : (s.setSeal n x).flash = s.flash := by rfl
@[simp] theorem State.setSeal_host (n : Nat) (x : SealSt) : (s.setSeal n x).host = s.host := by rfl
@[simp] theorem State.setSeal_gis (n : Nat) (x : SealSt) : (s.setSeal n x).gis = s.gis := by rfl
@[simp] theorem State.setSeal_pwr (n : Nat) (x : SealSt) : (s.setSeal n x).pwr = s.pwr := by rfl
@[simp] theorem State.setSeal_clk (n : Nat) (x : SealSt) : (s.setSeal n x).clk = s.clk := by rfl
@[simp] theorem State.setSeal_therm (n : Nat) (x : SealSt) : (s.setSeal n x).therm = s.therm := by rfl
@[simp] theorem State.setSeal_pins (n : Nat) (x : SealSt) : (s.setSeal n x).pins = s.pins := by rfl
@[simp] theorem State.setSeal_notices (n : Nat) (x : SealSt) : (s.setSeal n x).notices = s.notices := by rfl
@[simp] theorem State.setSeal_warmLast (n : Nat) (x : SealSt) : (s.setSeal n x).warmLast = s.warmLast := by rfl
@[simp] theorem State.setSeal_warm (n : Nat) (x : SealSt) : (s.setSeal n x).warm = s.warm := by rfl
@[simp] theorem State.setSeal_freeCtr (n : Nat) (x : SealSt) : (s.setSeal n x).freeCtr = s.freeCtr := by rfl
@[simp] theorem State.setSeal_outbox (n : Nat) (x : SealSt) : (s.setSeal n x).outbox = s.outbox := by rfl
@[simp] theorem State.setSeal_pending (n : Nat) (x : SealSt) : (s.setSeal n x).pending = s.pending := by rfl

@[simp] theorem State.setRxwin_part (n : Nat) (x : RxWin) : (s.setRxwin n x).part = s.part := by rfl
@[simp] theorem State.setRxwin_tick (n : Nat) (x : RxWin) : (s.setRxwin n x).tick = s.tick := by rfl
@[simp] theorem State.setRxwin_grid (n : Nat) (x : RxWin) : (s.setRxwin n x).grid = s.grid := by rfl
@[simp] theorem State.setRxwin_sites (n : Nat) (x : RxWin) : (s.setRxwin n x).sites = s.sites := by rfl
@[simp] theorem State.setRxwin_cores (n : Nat) (x : RxWin) : (s.setRxwin n x).cores = s.cores := by rfl
@[simp] theorem State.setRxwin_xds (n : Nat) (x : RxWin) : (s.setRxwin n x).xds = s.xds := by rfl
@[simp] theorem State.setRxwin_ports (n : Nat) (x : RxWin) : (s.setRxwin n x).ports = s.ports := by rfl
@[simp] theorem State.setRxwin_trellis (n : Nat) (x : RxWin) : (s.setRxwin n x).trellis = s.trellis := by rfl
@[simp] theorem State.setRxwin_sb (n : Nat) (x : RxWin) : (s.setRxwin n x).sb = s.sb := by rfl
@[simp] theorem State.setRxwin_gddr (n : Nat) (x : RxWin) : (s.setRxwin n x).gddr = s.gddr := by rfl
@[simp] theorem State.setRxwin_ctxs (n : Nat) (x : RxWin) : (s.setRxwin n x).ctxs = s.ctxs := by rfl
@[simp] theorem State.setRxwin_orr (n : Nat) (x : RxWin) : (s.setRxwin n x).orr = s.orr := by rfl
@[simp] theorem State.setRxwin_almHead (n : Nat) (x : RxWin) : (s.setRxwin n x).almHead = s.almHead := by rfl
@[simp] theorem State.setRxwin_alms (n : Nat) (x : RxWin) : (s.setRxwin n x).alms = s.alms := by rfl
@[simp] theorem State.setRxwin_flash (n : Nat) (x : RxWin) : (s.setRxwin n x).flash = s.flash := by rfl
@[simp] theorem State.setRxwin_host (n : Nat) (x : RxWin) : (s.setRxwin n x).host = s.host := by rfl
@[simp] theorem State.setRxwin_sec (n : Nat) (x : RxWin) : (s.setRxwin n x).sec = s.sec := by rfl
@[simp] theorem State.setRxwin_gis (n : Nat) (x : RxWin) : (s.setRxwin n x).gis = s.gis := by rfl
@[simp] theorem State.setRxwin_pwr (n : Nat) (x : RxWin) : (s.setRxwin n x).pwr = s.pwr := by rfl
@[simp] theorem State.setRxwin_clk (n : Nat) (x : RxWin) : (s.setRxwin n x).clk = s.clk := by rfl
@[simp] theorem State.setRxwin_therm (n : Nat) (x : RxWin) : (s.setRxwin n x).therm = s.therm := by rfl
@[simp] theorem State.setRxwin_pins (n : Nat) (x : RxWin) : (s.setRxwin n x).pins = s.pins := by rfl
@[simp] theorem State.setRxwin_notices (n : Nat) (x : RxWin) : (s.setRxwin n x).notices = s.notices := by rfl
@[simp] theorem State.setRxwin_warmLast (n : Nat) (x : RxWin) : (s.setRxwin n x).warmLast = s.warmLast := by rfl
@[simp] theorem State.setRxwin_warm (n : Nat) (x : RxWin) : (s.setRxwin n x).warm = s.warm := by rfl
@[simp] theorem State.setRxwin_freeCtr (n : Nat) (x : RxWin) : (s.setRxwin n x).freeCtr = s.freeCtr := by rfl
@[simp] theorem State.setRxwin_outbox (n : Nat) (x : RxWin) : (s.setRxwin n x).outbox = s.outbox := by rfl
@[simp] theorem State.setRxwin_pending (n : Nat) (x : RxWin) : (s.setRxwin n x).pending = s.pending := by rfl

@[simp] theorem State.emit_part (o : Out) : (s.emit o).part = s.part := by rfl
@[simp] theorem State.emit_tick (o : Out) : (s.emit o).tick = s.tick := by rfl
@[simp] theorem State.emit_grid (o : Out) : (s.emit o).grid = s.grid := by rfl
@[simp] theorem State.emit_sites (o : Out) : (s.emit o).sites = s.sites := by rfl
@[simp] theorem State.emit_cores (o : Out) : (s.emit o).cores = s.cores := by rfl
@[simp] theorem State.emit_xds (o : Out) : (s.emit o).xds = s.xds := by rfl
@[simp] theorem State.emit_ports (o : Out) : (s.emit o).ports = s.ports := by rfl
@[simp] theorem State.emit_trellis (o : Out) : (s.emit o).trellis = s.trellis := by rfl
@[simp] theorem State.emit_fab (o : Out) : (s.emit o).fab = s.fab := by rfl
@[simp] theorem State.emit_sb (o : Out) : (s.emit o).sb = s.sb := by rfl
@[simp] theorem State.emit_gddr (o : Out) : (s.emit o).gddr = s.gddr := by rfl
@[simp] theorem State.emit_ctxs (o : Out) : (s.emit o).ctxs = s.ctxs := by rfl
@[simp] theorem State.emit_orr (o : Out) : (s.emit o).orr = s.orr := by rfl
@[simp] theorem State.emit_almHead (o : Out) : (s.emit o).almHead = s.almHead := by rfl
@[simp] theorem State.emit_alms (o : Out) : (s.emit o).alms = s.alms := by rfl
@[simp] theorem State.emit_flash (o : Out) : (s.emit o).flash = s.flash := by rfl
@[simp] theorem State.emit_host (o : Out) : (s.emit o).host = s.host := by rfl
@[simp] theorem State.emit_sec (o : Out) : (s.emit o).sec = s.sec := by rfl
@[simp] theorem State.emit_gis (o : Out) : (s.emit o).gis = s.gis := by rfl
@[simp] theorem State.emit_pwr (o : Out) : (s.emit o).pwr = s.pwr := by rfl
@[simp] theorem State.emit_clk (o : Out) : (s.emit o).clk = s.clk := by rfl
@[simp] theorem State.emit_therm (o : Out) : (s.emit o).therm = s.therm := by rfl
@[simp] theorem State.emit_pins (o : Out) : (s.emit o).pins = s.pins := by rfl
@[simp] theorem State.emit_notices (o : Out) : (s.emit o).notices = s.notices := by rfl
@[simp] theorem State.emit_warmLast (o : Out) : (s.emit o).warmLast = s.warmLast := by rfl
@[simp] theorem State.emit_warm (o : Out) : (s.emit o).warm = s.warm := by rfl
@[simp] theorem State.emit_freeCtr (o : Out) : (s.emit o).freeCtr = s.freeCtr := by rfl
@[simp] theorem State.emit_pending (o : Out) : (s.emit o).pending = s.pending := by rfl

/-- The part read after a write of one. -/
@[simp] theorem State.site_setSite (n j : Nat) (x : Site) : (s.setSite n x).site j = if j = n then x else s.site j :=
  sget_sset _ _ n j x
@[simp] theorem State.setSite_setSite (n : Nat) (x y : Site) : (s.setSite n x).setSite n y = s.setSite n y := by
  simp [State.setSite]
@[simp] theorem State.site_setCore (k : Nat) (x : Core) (j : Nat) : (s.setCore k x).site j = s.site j := by rfl
@[simp] theorem State.site_setXd (n : Nat) (x : Xd) (j : Nat) : (s.setXd n x).site j = s.site j := by rfl
@[simp] theorem State.site_setPort (p : Nat) (x : Port) (j : Nat) : (s.setPort p x).site j = s.site j := by rfl
@[simp] theorem State.site_setCtx (n : Nat) (x : Ctx) (j : Nat) : (s.setCtx n x).site j = s.site j := by rfl
@[simp] theorem State.site_setOc (n : Nat) (x : OrrCore) (j : Nat) : (s.setOc n x).site j = s.site j := by rfl
@[simp] theorem State.site_setSeal (n : Nat) (x : SealSt) (j : Nat) : (s.setSeal n x).site j = s.site j := by rfl
@[simp] theorem State.site_setRxwin (n : Nat) (x : RxWin) (j : Nat) : (s.setRxwin n x).site j = s.site j := by rfl
@[simp] theorem State.site_emit (o : Out) (j : Nat) : (s.emit o).site j = s.site j := by rfl

/-- The part read after a write of one. -/
@[simp] theorem State.core_setCore (n j : Nat) (x : Core) : (s.setCore n x).core j = if j = n then x else s.core j :=
  sget_sset _ _ n j x
@[simp] theorem State.setCore_setCore (n : Nat) (x y : Core) : (s.setCore n x).setCore n y = s.setCore n y := by
  simp [State.setCore]
@[simp] theorem State.core_setSite (p : Nat) (x : Site) (j : Nat) : (s.setSite p x).core j = s.core j := by rfl
@[simp] theorem State.core_setXd (n : Nat) (x : Xd) (j : Nat) : (s.setXd n x).core j = s.core j := by rfl
@[simp] theorem State.core_setPort (p : Nat) (x : Port) (j : Nat) : (s.setPort p x).core j = s.core j := by rfl
@[simp] theorem State.core_setCtx (n : Nat) (x : Ctx) (j : Nat) : (s.setCtx n x).core j = s.core j := by rfl
@[simp] theorem State.core_setOc (n : Nat) (x : OrrCore) (j : Nat) : (s.setOc n x).core j = s.core j := by rfl
@[simp] theorem State.core_setSeal (n : Nat) (x : SealSt) (j : Nat) : (s.setSeal n x).core j = s.core j := by rfl
@[simp] theorem State.core_setRxwin (n : Nat) (x : RxWin) (j : Nat) : (s.setRxwin n x).core j = s.core j := by rfl
@[simp] theorem State.core_emit (o : Out) (j : Nat) : (s.emit o).core j = s.core j := by rfl

/-- The part read after a write of one. -/
@[simp] theorem State.xd_setXd (n j : Nat) (x : Xd) : (s.setXd n x).xd j = if j = n then x else s.xd j :=
  sget_sset _ _ n j x
@[simp] theorem State.setXd_setXd (n : Nat) (x y : Xd) : (s.setXd n x).setXd n y = s.setXd n y := by
  simp [State.setXd]
@[simp] theorem State.xd_setSite (p : Nat) (x : Site) (j : Nat) : (s.setSite p x).xd j = s.xd j := by rfl
@[simp] theorem State.xd_setCore (k : Nat) (x : Core) (j : Nat) : (s.setCore k x).xd j = s.xd j := by rfl
@[simp] theorem State.xd_setPort (p : Nat) (x : Port) (j : Nat) : (s.setPort p x).xd j = s.xd j := by rfl
@[simp] theorem State.xd_setCtx (n : Nat) (x : Ctx) (j : Nat) : (s.setCtx n x).xd j = s.xd j := by rfl
@[simp] theorem State.xd_setOc (n : Nat) (x : OrrCore) (j : Nat) : (s.setOc n x).xd j = s.xd j := by rfl
@[simp] theorem State.xd_setSeal (n : Nat) (x : SealSt) (j : Nat) : (s.setSeal n x).xd j = s.xd j := by rfl
@[simp] theorem State.xd_setRxwin (n : Nat) (x : RxWin) (j : Nat) : (s.setRxwin n x).xd j = s.xd j := by rfl
@[simp] theorem State.xd_emit (o : Out) (j : Nat) : (s.emit o).xd j = s.xd j := by rfl

/-- The part read after a write of one. -/
@[simp] theorem State.port_setPort (n j : Nat) (x : Port) : (s.setPort n x).port j = if j = n then x else s.port j :=
  sget_sset _ _ n j x
@[simp] theorem State.setPort_setPort (n : Nat) (x y : Port) : (s.setPort n x).setPort n y = s.setPort n y := by
  simp [State.setPort]
@[simp] theorem State.port_setSite (p : Nat) (x : Site) (j : Nat) : (s.setSite p x).port j = s.port j := by rfl
@[simp] theorem State.port_setCore (k : Nat) (x : Core) (j : Nat) : (s.setCore k x).port j = s.port j := by rfl
@[simp] theorem State.port_setXd (n : Nat) (x : Xd) (j : Nat) : (s.setXd n x).port j = s.port j := by rfl
@[simp] theorem State.port_setCtx (n : Nat) (x : Ctx) (j : Nat) : (s.setCtx n x).port j = s.port j := by rfl
@[simp] theorem State.port_setOc (n : Nat) (x : OrrCore) (j : Nat) : (s.setOc n x).port j = s.port j := by rfl
@[simp] theorem State.port_setSeal (n : Nat) (x : SealSt) (j : Nat) : (s.setSeal n x).port j = s.port j := by rfl
@[simp] theorem State.port_setRxwin (n : Nat) (x : RxWin) (j : Nat) : (s.setRxwin n x).port j = s.port j := by rfl
@[simp] theorem State.port_emit (o : Out) (j : Nat) : (s.emit o).port j = s.port j := by rfl

/-- The part read after a write of one. -/
@[simp] theorem State.ctx_setCtx (n j : Nat) (x : Ctx) : (s.setCtx n x).ctx j = if j = n then x else s.ctx j :=
  sget_sset _ _ n j x
@[simp] theorem State.setCtx_setCtx (n : Nat) (x y : Ctx) : (s.setCtx n x).setCtx n y = s.setCtx n y := by
  simp [State.setCtx]
@[simp] theorem State.ctx_setSite (p : Nat) (x : Site) (j : Nat) : (s.setSite p x).ctx j = s.ctx j := by rfl
@[simp] theorem State.ctx_setCore (k : Nat) (x : Core) (j : Nat) : (s.setCore k x).ctx j = s.ctx j := by rfl
@[simp] theorem State.ctx_setXd (n : Nat) (x : Xd) (j : Nat) : (s.setXd n x).ctx j = s.ctx j := by rfl
@[simp] theorem State.ctx_setPort (p : Nat) (x : Port) (j : Nat) : (s.setPort p x).ctx j = s.ctx j := by rfl
@[simp] theorem State.ctx_setOc (n : Nat) (x : OrrCore) (j : Nat) : (s.setOc n x).ctx j = s.ctx j := by rfl
@[simp] theorem State.ctx_setSeal (n : Nat) (x : SealSt) (j : Nat) : (s.setSeal n x).ctx j = s.ctx j := by rfl
@[simp] theorem State.ctx_setRxwin (n : Nat) (x : RxWin) (j : Nat) : (s.setRxwin n x).ctx j = s.ctx j := by rfl
@[simp] theorem State.ctx_emit (o : Out) (j : Nat) : (s.emit o).ctx j = s.ctx j := by rfl

/-- The part read after a write of one. -/
@[simp] theorem State.oc_setOc (n j : Nat) (x : OrrCore) : (s.setOc n x).oc j = if j = n then x else s.oc j :=
  sget_sset _ _ n j x
@[simp] theorem State.setOc_setOc (n : Nat) (x y : OrrCore) : (s.setOc n x).setOc n y = s.setOc n y := by
  simp [State.setOc]
@[simp] theorem State.oc_setSite (p : Nat) (x : Site) (j : Nat) : (s.setSite p x).oc j = s.oc j := by rfl
@[simp] theorem State.oc_setCore (k : Nat) (x : Core) (j : Nat) : (s.setCore k x).oc j = s.oc j := by rfl
@[simp] theorem State.oc_setXd (n : Nat) (x : Xd) (j : Nat) : (s.setXd n x).oc j = s.oc j := by rfl
@[simp] theorem State.oc_setPort (p : Nat) (x : Port) (j : Nat) : (s.setPort p x).oc j = s.oc j := by rfl
@[simp] theorem State.oc_setCtx (n : Nat) (x : Ctx) (j : Nat) : (s.setCtx n x).oc j = s.oc j := by rfl
@[simp] theorem State.oc_setSeal (n : Nat) (x : SealSt) (j : Nat) : (s.setSeal n x).oc j = s.oc j := by rfl
@[simp] theorem State.oc_setRxwin (n : Nat) (x : RxWin) (j : Nat) : (s.setRxwin n x).oc j = s.oc j := by rfl
@[simp] theorem State.oc_emit (o : Out) (j : Nat) : (s.emit o).oc j = s.oc j := by rfl

/-- The part read after a write of one. -/
@[simp] theorem State.seal_setSeal (n j : Nat) (x : SealSt) : (s.setSeal n x).seal j = if j = n then x else s.seal j :=
  sget_sset _ _ n j x
@[simp] theorem State.setSeal_setSeal (n : Nat) (x y : SealSt) : (s.setSeal n x).setSeal n y = s.setSeal n y := by
  simp [State.setSeal]
@[simp] theorem State.seal_setSite (p : Nat) (x : Site) (j : Nat) : (s.setSite p x).seal j = s.seal j := by rfl
@[simp] theorem State.seal_setCore (k : Nat) (x : Core) (j : Nat) : (s.setCore k x).seal j = s.seal j := by rfl
@[simp] theorem State.seal_setXd (n : Nat) (x : Xd) (j : Nat) : (s.setXd n x).seal j = s.seal j := by rfl
@[simp] theorem State.seal_setPort (p : Nat) (x : Port) (j : Nat) : (s.setPort p x).seal j = s.seal j := by rfl
@[simp] theorem State.seal_setCtx (n : Nat) (x : Ctx) (j : Nat) : (s.setCtx n x).seal j = s.seal j := by rfl
@[simp] theorem State.seal_setOc (n : Nat) (x : OrrCore) (j : Nat) : (s.setOc n x).seal j = s.seal j := by rfl
@[simp] theorem State.seal_setRxwin (n : Nat) (x : RxWin) (j : Nat) : (s.setRxwin n x).seal j = s.seal j := by rfl
@[simp] theorem State.seal_emit (o : Out) (j : Nat) : (s.emit o).seal j = s.seal j := by rfl

/-- The part read after a write of one. -/
@[simp] theorem State.rxwin_setRxwin (n j : Nat) (x : RxWin) : (s.setRxwin n x).rxwin j = if j = n then x else s.rxwin j :=
  sget_sset _ _ n j x
@[simp] theorem State.setRxwin_setRxwin (n : Nat) (x y : RxWin) : (s.setRxwin n x).setRxwin n y = s.setRxwin n y := by
  simp [State.setRxwin]
@[simp] theorem State.rxwin_setSite (p : Nat) (x : Site) (j : Nat) : (s.setSite p x).rxwin j = s.rxwin j := by rfl
@[simp] theorem State.rxwin_setCore (k : Nat) (x : Core) (j : Nat) : (s.setCore k x).rxwin j = s.rxwin j := by rfl
@[simp] theorem State.rxwin_setXd (n : Nat) (x : Xd) (j : Nat) : (s.setXd n x).rxwin j = s.rxwin j := by rfl
@[simp] theorem State.rxwin_setPort (p : Nat) (x : Port) (j : Nat) : (s.setPort p x).rxwin j = s.rxwin j := by rfl
@[simp] theorem State.rxwin_setCtx (n : Nat) (x : Ctx) (j : Nat) : (s.setCtx n x).rxwin j = s.rxwin j := by rfl
@[simp] theorem State.rxwin_setOc (n : Nat) (x : OrrCore) (j : Nat) : (s.setOc n x).rxwin j = s.rxwin j := by rfl
@[simp] theorem State.rxwin_setSeal (n : Nat) (x : SealSt) (j : Nat) : (s.setSeal n x).rxwin j = s.rxwin j := by rfl
@[simp] theorem State.rxwin_emit (o : Out) (j : Nat) : (s.emit o).rxwin j = s.rxwin j := by rfl

@[simp] theorem State.modSite_eq (n : Nat) (f : Site → Site) : s.modSite n f = s.setSite n (f (s.site n)) := by rfl
@[simp] theorem State.modCore_eq (n : Nat) (f : Core → Core) : s.modCore n f = s.setCore n (f (s.core n)) := by rfl
@[simp] theorem State.modXd_eq (n : Nat) (f : Xd → Xd) : s.modXd n f = s.setXd n (f (s.xd n)) := by rfl
@[simp] theorem State.modPort_eq (n : Nat) (f : Port → Port) : s.modPort n f = s.setPort n (f (s.port n)) := by rfl
@[simp] theorem State.modCtx_eq (n : Nat) (f : Ctx → Ctx) : s.modCtx n f = s.setCtx n (f (s.ctx n)) := by rfl
@[simp] theorem State.modCc_eq (k : Nat) (f : Cc → Cc) : s.modCc k f = s.setCore k (({ s.core k with cc := f (s.core k).cc } : Core)) := by rfl
@[simp] theorem State.modMe_eq (k : Nat) (f : Me → Me) : s.modMe k f = s.setCore k (({ s.core k with me := f (s.core k).me } : Core)) := by rfl
@[simp] theorem State.modVe_eq (k : Nat) (f : Ve → Ve) : s.modVe k f = s.setCore k (({ s.core k with ve := f (s.core k).ve } : Core)) := by rfl
@[simp] theorem State.modSe_eq (k : Nat) (f : Se → Se) : s.modSe k f = s.setCore k (({ s.core k with se := f (s.core k).se } : Core)) := by rfl
@[simp] theorem State.modTr_eq (x : Nat) (f : TrDie → TrDie) : s.modTr x f = s.setXd x (({ s.xd x with tr := f (s.xd x).tr } : Xd)) := by rfl
@[simp] theorem State.modFab_eq (x : Nat) (f : FabDie → FabDie) : s.modFab x f = s.setXd x (({ s.xd x with fab := f (s.xd x).fab } : Xd)) := by rfl
@[simp] theorem State.modMc_eq (x : Nat) (f : Mc → Mc) : s.modMc x f = s.setXd x (({ s.xd x with mc := f (s.xd x).mc } : Xd)) := by rfl
theorem State.modOrr_eq (f : Orr → Orr) : s.modOrr f = { s with orr := f s.orr } := by rfl
theorem State.modSec_eq (f : Sec → Sec) : s.modSec f = { s with sec := f s.sec } := by rfl
theorem State.modPwr_eq (f : Power → Power) : s.modPwr f = { s with pwr := f s.pwr } := by rfl
theorem State.modGis_eq (f : Gis → Gis) : s.modGis f = { s with gis := f s.gis } := by rfl
@[simp] theorem State.fresh_fst (n : Nat) : (s.fresh n).1 = s.freeCtr := by rfl
theorem State.fresh_snd (n : Nat) : (s.fresh n).2 = { s with freeCtr := s.freeCtr + n } := by rfl
@[simp] theorem State.emit_outbox (o : Out) : (s.emit o).outbox = s.outbox ++ [o] := by rfl

/-! The graft map, the roles and the power domains do not depend on the parts. -/

@[simp] theorem State.role_setSite (p1 : Nat) (x : Site) (p : Nat) : (s.setSite p1 x).role p = s.role p := by rfl
@[simp] theorem State.role_setCore (k1 : Nat) (x : Core) (p : Nat) : (s.setCore k1 x).role p = s.role p := by rfl
@[simp] theorem State.role_setXd (n1 : Nat) (x : Xd) (p : Nat) : (s.setXd n1 x).role p = s.role p := by rfl
@[simp] theorem State.role_setPort (p1 : Nat) (x : Port) (p : Nat) : (s.setPort p1 x).role p = s.role p := by rfl
@[simp] theorem State.role_setCtx (n1 : Nat) (x : Ctx) (p : Nat) : (s.setCtx n1 x).role p = s.role p := by rfl
@[simp] theorem State.role_setOc (n1 : Nat) (x : OrrCore) (p : Nat) : (s.setOc n1 x).role p = s.role p := by rfl
@[simp] theorem State.role_setSeal (n1 : Nat) (x : SealSt) (p : Nat) : (s.setSeal n1 x).role p = s.role p := by rfl
@[simp] theorem State.role_setRxwin (n1 : Nat) (x : RxWin) (p : Nat) : (s.setRxwin n1 x).role p = s.role p := by rfl
@[simp] theorem State.role_emit (o : Out) (p : Nat) : (s.emit o).role p = s.role p := by rfl
@[simp] theorem State.pd_setSite (p1 : Nat) (x : Site) (d : Nat) : (s.setSite p1 x).pd d = s.pd d := by rfl
@[simp] theorem State.pd_setCore (k1 : Nat) (x : Core) (d : Nat) : (s.setCore k1 x).pd d = s.pd d := by rfl
@[simp] theorem State.pd_setXd (n1 : Nat) (x : Xd) (d : Nat) : (s.setXd n1 x).pd d = s.pd d := by rfl
@[simp] theorem State.pd_setPort (p1 : Nat) (x : Port) (d : Nat) : (s.setPort p1 x).pd d = s.pd d := by rfl
@[simp] theorem State.pd_setCtx (n1 : Nat) (x : Ctx) (d : Nat) : (s.setCtx n1 x).pd d = s.pd d := by rfl
@[simp] theorem State.pd_setOc (n1 : Nat) (x : OrrCore) (d : Nat) : (s.setOc n1 x).pd d = s.pd d := by rfl
@[simp] theorem State.pd_setSeal (n1 : Nat) (x : SealSt) (d : Nat) : (s.setSeal n1 x).pd d = s.pd d := by rfl
@[simp] theorem State.pd_setRxwin (n1 : Nat) (x : RxWin) (d : Nat) : (s.setRxwin n1 x).pd d = s.pd d := by rfl
@[simp] theorem State.pd_emit (o : Out) (d : Nat) : (s.emit o).pd d = s.pd d := by rfl
@[simp] theorem State.dark_setSite (p1 : Nat) (x : Site) (p : Nat) : (s.setSite p1 x).dark p = s.dark p := by rfl
@[simp] theorem State.dark_setCore (k1 : Nat) (x : Core) (p : Nat) : (s.setCore k1 x).dark p = s.dark p := by rfl
@[simp] theorem State.dark_setXd (n1 : Nat) (x : Xd) (p : Nat) : (s.setXd n1 x).dark p = s.dark p := by rfl
@[simp] theorem State.dark_setPort (p1 : Nat) (x : Port) (p : Nat) : (s.setPort p1 x).dark p = s.dark p := by rfl
@[simp] theorem State.dark_setCtx (n1 : Nat) (x : Ctx) (p : Nat) : (s.setCtx n1 x).dark p = s.dark p := by rfl
@[simp] theorem State.dark_setOc (n1 : Nat) (x : OrrCore) (p : Nat) : (s.setOc n1 x).dark p = s.dark p := by rfl
@[simp] theorem State.dark_setSeal (n1 : Nat) (x : SealSt) (p : Nat) : (s.setSeal n1 x).dark p = s.dark p := by rfl
@[simp] theorem State.dark_setRxwin (n1 : Nat) (x : RxWin) (p : Nat) : (s.setRxwin n1 x).dark p = s.dark p := by rfl
@[simp] theorem State.dark_emit (o : Out) (p : Nat) : (s.emit o).dark p = s.dark p := by rfl
@[simp] theorem State.present_setSite (p1 : Nat) (x : Site) (p : Nat) : (s.setSite p1 x).present p = s.present p := by rfl
@[simp] theorem State.present_setCore (k1 : Nat) (x : Core) (p : Nat) : (s.setCore k1 x).present p = s.present p := by rfl
@[simp] theorem State.present_setXd (n1 : Nat) (x : Xd) (p : Nat) : (s.setXd n1 x).present p = s.present p := by rfl
@[simp] theorem State.present_setPort (p1 : Nat) (x : Port) (p : Nat) : (s.setPort p1 x).present p = s.present p := by rfl
@[simp] theorem State.present_setCtx (n1 : Nat) (x : Ctx) (p : Nat) : (s.setCtx n1 x).present p = s.present p := by rfl
@[simp] theorem State.present_setOc (n1 : Nat) (x : OrrCore) (p : Nat) : (s.setOc n1 x).present p = s.present p := by rfl
@[simp] theorem State.present_setSeal (n1 : Nat) (x : SealSt) (p : Nat) : (s.setSeal n1 x).present p = s.present p := by rfl
@[simp] theorem State.present_setRxwin (n1 : Nat) (x : RxWin) (p : Nat) : (s.setRxwin n1 x).present p = s.present p := by rfl
@[simp] theorem State.present_emit (o : Out) (p : Nat) : (s.emit o).present p = s.present p := by rfl
@[simp] theorem State.physOf_setSite (p1 : Nat) (x : Site) (l : Nat) : (s.setSite p1 x).physOf l = s.physOf l := by rfl
@[simp] theorem State.physOf_setCore (k1 : Nat) (x : Core) (l : Nat) : (s.setCore k1 x).physOf l = s.physOf l := by rfl
@[simp] theorem State.physOf_setXd (n1 : Nat) (x : Xd) (l : Nat) : (s.setXd n1 x).physOf l = s.physOf l := by rfl
@[simp] theorem State.physOf_setPort (p1 : Nat) (x : Port) (l : Nat) : (s.setPort p1 x).physOf l = s.physOf l := by rfl
@[simp] theorem State.physOf_setCtx (n1 : Nat) (x : Ctx) (l : Nat) : (s.setCtx n1 x).physOf l = s.physOf l := by rfl
@[simp] theorem State.physOf_setOc (n1 : Nat) (x : OrrCore) (l : Nat) : (s.setOc n1 x).physOf l = s.physOf l := by rfl
@[simp] theorem State.physOf_setSeal (n1 : Nat) (x : SealSt) (l : Nat) : (s.setSeal n1 x).physOf l = s.physOf l := by rfl
@[simp] theorem State.physOf_setRxwin (n1 : Nat) (x : RxWin) (l : Nat) : (s.setRxwin n1 x).physOf l = s.physOf l := by rfl
@[simp] theorem State.physOf_emit (o : Out) (l : Nat) : (s.emit o).physOf l = s.physOf l := by rfl
@[simp] theorem State.logicalOf_setSite (p1 : Nat) (x : Site) (p : Nat) : (s.setSite p1 x).logicalOf p = s.logicalOf p := by rfl
@[simp] theorem State.logicalOf_setCore (k1 : Nat) (x : Core) (p : Nat) : (s.setCore k1 x).logicalOf p = s.logicalOf p := by rfl
@[simp] theorem State.logicalOf_setXd (n1 : Nat) (x : Xd) (p : Nat) : (s.setXd n1 x).logicalOf p = s.logicalOf p := by rfl
@[simp] theorem State.logicalOf_setPort (p1 : Nat) (x : Port) (p : Nat) : (s.setPort p1 x).logicalOf p = s.logicalOf p := by rfl
@[simp] theorem State.logicalOf_setCtx (n1 : Nat) (x : Ctx) (p : Nat) : (s.setCtx n1 x).logicalOf p = s.logicalOf p := by rfl
@[simp] theorem State.logicalOf_setOc (n1 : Nat) (x : OrrCore) (p : Nat) : (s.setOc n1 x).logicalOf p = s.logicalOf p := by rfl
@[simp] theorem State.logicalOf_setSeal (n1 : Nat) (x : SealSt) (p : Nat) : (s.setSeal n1 x).logicalOf p = s.logicalOf p := by rfl
@[simp] theorem State.logicalOf_setRxwin (n1 : Nat) (x : RxWin) (p : Nat) : (s.setRxwin n1 x).logicalOf p = s.logicalOf p := by rfl
@[simp] theorem State.logicalOf_emit (o : Out) (p : Nat) : (s.emit o).logicalOf p = s.logicalOf p := by rfl
@[simp] theorem State.siteField_setSite (p1 : Nat) (x : Site) (v : Bool) (f : Nat) : (s.setSite p1 x).siteField v f = s.siteField v f := by rfl
@[simp] theorem State.siteField_setCore (k1 : Nat) (x : Core) (v : Bool) (f : Nat) : (s.setCore k1 x).siteField v f = s.siteField v f := by rfl
@[simp] theorem State.siteField_setXd (n1 : Nat) (x : Xd) (v : Bool) (f : Nat) : (s.setXd n1 x).siteField v f = s.siteField v f := by rfl
@[simp] theorem State.siteField_setPort (p1 : Nat) (x : Port) (v : Bool) (f : Nat) : (s.setPort p1 x).siteField v f = s.siteField v f := by rfl
@[simp] theorem State.siteField_setCtx (n1 : Nat) (x : Ctx) (v : Bool) (f : Nat) : (s.setCtx n1 x).siteField v f = s.siteField v f := by rfl
@[simp] theorem State.siteField_setOc (n1 : Nat) (x : OrrCore) (v : Bool) (f : Nat) : (s.setOc n1 x).siteField v f = s.siteField v f := by rfl
@[simp] theorem State.siteField_setSeal (n1 : Nat) (x : SealSt) (v : Bool) (f : Nat) : (s.setSeal n1 x).siteField v f = s.siteField v f := by rfl
@[simp] theorem State.siteField_setRxwin (n1 : Nat) (x : RxWin) (v : Bool) (f : Nat) : (s.setRxwin n1 x).siteField v f = s.siteField v f := by rfl
@[simp] theorem State.siteField_emit (o : Out) (v : Bool) (f : Nat) : (s.emit o).siteField v f = s.siteField v f := by rfl
@[simp] theorem State.keyOf_setCore (k1 : Nat) (x : Core) (p c : Nat) : (s.setCore k1 x).keyOf p c = s.keyOf p c := by rfl
@[simp] theorem State.key_setCore (k1 : Nat) (x : Core) (l : SiteNo) (c : CoreNo) : (s.setCore k1 x).key l c = s.key l c := by rfl
@[simp] theorem State.keyOf_setXd (n1 : Nat) (x : Xd) (p c : Nat) : (s.setXd n1 x).keyOf p c = s.keyOf p c := by rfl
@[simp] theorem State.key_setXd (n1 : Nat) (x : Xd) (l : SiteNo) (c : CoreNo) : (s.setXd n1 x).key l c = s.key l c := by rfl
@[simp] theorem State.keyOf_setPort (p1 : Nat) (x : Port) (p c : Nat) : (s.setPort p1 x).keyOf p c = s.keyOf p c := by rfl
@[simp] theorem State.key_setPort (p1 : Nat) (x : Port) (l : SiteNo) (c : CoreNo) : (s.setPort p1 x).key l c = s.key l c := by rfl
@[simp] theorem State.keyOf_setCtx (n1 : Nat) (x : Ctx) (p c : Nat) : (s.setCtx n1 x).keyOf p c = s.keyOf p c := by rfl
@[simp] theorem State.key_setCtx (n1 : Nat) (x : Ctx) (l : SiteNo) (c : CoreNo) : (s.setCtx n1 x).key l c = s.key l c := by rfl
@[simp] theorem State.keyOf_setOc (n1 : Nat) (x : OrrCore) (p c : Nat) : (s.setOc n1 x).keyOf p c = s.keyOf p c := by rfl
@[simp] theorem State.key_setOc (n1 : Nat) (x : OrrCore) (l : SiteNo) (c : CoreNo) : (s.setOc n1 x).key l c = s.key l c := by rfl
@[simp] theorem State.keyOf_setSeal (n1 : Nat) (x : SealSt) (p c : Nat) : (s.setSeal n1 x).keyOf p c = s.keyOf p c := by rfl
@[simp] theorem State.key_setSeal (n1 : Nat) (x : SealSt) (l : SiteNo) (c : CoreNo) : (s.setSeal n1 x).key l c = s.key l c := by rfl
@[simp] theorem State.keyOf_setRxwin (n1 : Nat) (x : RxWin) (p c : Nat) : (s.setRxwin n1 x).keyOf p c = s.keyOf p c := by rfl
@[simp] theorem State.key_setRxwin (n1 : Nat) (x : RxWin) (l : SiteNo) (c : CoreNo) : (s.setRxwin n1 x).key l c = s.key l c := by rfl
@[simp] theorem State.keyOf_emit (o : Out) (p c : Nat) : (s.emit o).keyOf p c = s.keyOf p c := by rfl
@[simp] theorem State.key_emit (o : Out) (l : SiteNo) (c : CoreNo) : (s.emit o).key l c = s.key l c := by rfl

/-- A key of a core in reach names an active site that serves the logical site. -/
theorem State.key_some {l : SiteNo} {c : CoreNo} {k : Nat} (h : s.key l c = some k) :
    ∃ p, s.physOf l.toNat = some p ∧ s.dark p = false ∧ k = s.keyOf p c.toNat := by
  simp only [State.key, Option.map_eq_some_iff, Option.filter_eq_some_iff] at h
  obtain ⟨p, ⟨hp, hd⟩, hk⟩ := h
  exact ⟨p, hp, by simpa using hd, hk.symm⟩

end Sys2Proof.Machine
end

