-- ==== Sys2Proof/Laws/Ops.lean ====
section
/-! SUPPORT. What the shared operations of Machine/Ops.lean can do: a leaf cause, a GDDR7 write and an Almanac entry leave
the cores, the sites and the other blocks alone. -/

namespace Sys2Proof.Machine

/-! ## Leaf causes -/

/-- The parts of the state that neither a leaf cause nor an Almanac entry touches. -/
structure Quiet where
  part : Part
  tick : DWord
  grid : Grid
  ports : Sparse Port
  trellis : Trellis
  fab : Fab
  ctxs : Sparse Ctx
  flash : Flash
  pins : Pins
  notices : List Notice
  warmLast : Bool
  warm : Warm
  outbox : List Out
  pending : List Instr

def State.quiet (s : State) : Quiet :=
  { part := s.part, tick := s.tick, grid := s.grid, ports := s.ports, trellis := s.trellis, fab := s.fab, ctxs := s.ctxs,
    flash := s.flash, pins := s.pins, notices := s.notices, warmLast := s.warmLast, warm := s.warm, outbox := s.outbox,
    pending := s.pending }

theorem State.putLeaf_quiet (s : State) (lf : Leaf) (b : Nat) (v : Bool) : (s.putLeaf b v lf).quiet = s.quiet := by
  cases lf <;> rfl

theorem State.raiseArg_quiet (s : State) (lf : Leaf) (b a : Nat) : (s.raiseArg lf b a).quiet = s.quiet := by
  simp only [State.raiseArg]
  split
  · exact s.putLeaf_quiet lf b true
  · exact s.putLeaf_quiet lf b true

theorem State.raise_quiet (s : State) (lf : Leaf) (b : Nat) : (s.raise lf b).quiet = s.quiet := s.raiseArg_quiet lf b 0

/-- The cores stand when the leaf is no core's. -/
def Leaf.ofCore : Leaf → Bool
  | .cc _ => true
  | .me _ => true
  | .ve _ => true
  | .se _ => true
  | _ => false

theorem State.putLeaf_cores (s : State) (lf : Leaf) (b : Nat) (v : Bool) (h : lf.ofCore = false) :
    (s.putLeaf b v lf).cores = s.cores := by
  cases lf <;> first | rfl | cases h

theorem State.raiseArg_cores (s : State) (lf : Leaf) (b a : Nat) (h : lf.ofCore = false) :
    (s.raiseArg lf b a).cores = s.cores := by
  simp only [State.raiseArg]
  split
  · exact s.putLeaf_cores lf b true h
  · exact s.putLeaf_cores lf b true h

theorem State.raise_cores (s : State) (lf : Leaf) (b : Nat) (h : lf.ofCore = false) : (s.raise lf b).cores = s.cores :=
  s.raiseArg_cores lf b 0 h

/-- A leaf that is no site's leaves the sites alone. -/
def Leaf.ofSite : Leaf → Bool
  | .bed _ => true
  | .site _ => true
  | _ => false

theorem State.raise_sites (s : State) (lf : Leaf) (b : Nat) (h : lf.ofSite = false) : (s.raise lf b).sites = s.sites := by
  simp only [State.raise, State.raiseArg]
  split
  · cases lf <;> first | rfl | cases h
  · cases lf <;> first | rfl | cases h

/-! ## GDDR7 writes -/

theorem State.gddrPut_quiet (s : State) (a : Nat) (w : Wr) : (s.gddrPut a w).quiet = s.quiet := by
  simp only [State.gddrPut]
  repeat' split
  all_goals rfl

theorem State.gddrPut_cores (s : State) (a : Nat) (w : Wr) : (s.gddrPut a w).cores = s.cores := by
  simp only [State.gddrPut]
  repeat' split
  all_goals rfl

theorem State.gddrPut_sites (s : State) (a : Nat) (w : Wr) : (s.gddrPut a w).sites = s.sites := by
  simp only [State.gddrPut]
  repeat' split
  all_goals rfl

theorem place_gddr {a : Nat} (h : a < gddrBytes) : place a = .gddr a := by simp [place, h]

theorem foldl_keeps {α β γ : Type} (f : α → β → α) (g : α → γ) (l : List β) (s : α)
    (h : ∀ u b, b ∈ l → g (f u b) = g u) : g (l.foldl f s) = g s := by
  induction l generalizing s with
  | nil => rfl
  | cons b r ih =>
    rw [List.foldl_cons, ih _ (fun u c hc => h u c (List.mem_cons_of_mem _ hc)), h s b List.mem_cons_self]

/-- What a landing in GDDR7 leaves alone, for any projection that a GDDR7 byte write, a GDDR7 poison mark and the stash
counters leave alone. -/
theorem State.land_gddr {γ : Type} (g : State → γ) (s : State) (ws : List Wr) (hw : ∀ w ∈ ws, w.a < gddrBytes)
    (h1 : ∀ u a w, g (State.gddrPut u a w) = g u) (h2 : ∀ (u : State) x, g { u with gddr := x } = g u) :
    g (s.land ws) = g s := by
  have hp : ∀ u : State, ∀ a, a < gddrBytes → g (u.setPoison a false) = g u := by
    intro u a ha
    simp only [State.setPoison, place_gddr ha]
    exact h2 u _
  have hf : ∀ w ∈ ws.filter (fun w => !s.wrGone w), w.a < gddrBytes := fun w h => hw w (List.mem_filter.mp h).1
  have hm : ∀ a ∈ wholeWords (ws.filter (fun w => !s.wrGone w)), a < gddrBytes := by
    intro a ha
    simp only [wholeWords, List.mem_filter, List.mem_map] at ha
    obtain ⟨⟨⟨w, ⟨hw', _⟩, rfl⟩, _⟩, _⟩ := ha
    exact hw w hw'
  have hs : ∀ (u : State) (vs : List Wr), g (u.stashCount vs) = g u := by
    intro u vs
    simp only [State.stashCount]
    split
    · rfl
    · exact h2 u _
  simp only [State.land]
  rw [hs, foldl_keeps _ g _ _ (fun u a ha => hp u a (hm a (List.mem_filter.mp ha).1))]
  refine foldl_keeps _ g _ _ (fun u w hw' => ?_)
  simp only [State.putByte, place_gddr (hf w hw')]
  exact h1 u _ _

theorem bytesAt_lt {a n : Nat} {bs : List Byte} (h : a + bs.length ≤ n) : ∀ w ∈ bytesAt a bs, w.a < n := by
  induction bs generalizing a with
  | nil => intro w hw; cases hw
  | cons b r ih =>
    intro w hw
    simp only [bytesAt, List.mem_cons] at hw
    simp only [List.length_cons] at h
    rcases hw with rfl | hw
    · show a < n; omega
    · exact ih (by omega) w hw

@[simp] theorem leBytes_length (n v : Nat) : (leBytes n v).length = n := by
  induction n generalizing v with
  | zero => rfl
  | succ n ih => simp [leBytes, ih]

theorem Alm.bytes_length (e : Alm) : e.bytes.length = 64 := by simp [Alm.bytes]

/-! ## The Almanac -/

/-- The entry that `almanac` writes; an open severity is the free value `n`. -/
def State.almEntry (s : State) (kind : Byte) (sev : Sev) (ctx : Option (BitVec 4)) (origin : Half) (payload : List Byte) : Alm :=
  { seq := s.almHead, tick := s.tick, kind := kind,
    sev := match sev with
      | .urgent => 3
      | .open_ => (Config.freeWord 2 s.freeCtr).setWidth 8,
    ctx := ctxByte ctx, origin := origin, payload := (payload ++ List.replicate 40 0).take 40 }

/-- The state with the entry in the on-die copy and the head moved on. -/
def State.almPut (s : State) (e : Alm) (n : Nat) : State :=
  { s with freeCtr := s.freeCtr + n, alms := sset (fun _ => Alm.init) s.alms (s.almHead.toNat % 4096) e,
           almHead := s.almHead + 1 }

/-- What an Almanac entry does, for any projection that a GDDR7 byte write, a change of the GDDR7 and a cause of the
orrery block leave alone. -/
theorem State.almanac_as {γ : Type} (g : State → γ) (s : State) (kind : Byte) (sev : Sev) (ctx : Option (BitVec 4))
    (origin : Half) (payload : List Byte)
    (h1 : ∀ u a w, g (State.gddrPut u a w) = g u) (h2 : ∀ (u : State) x, g { u with gddr := x } = g u)
    (h3 : ∀ u b, g (State.raise u .orr b) = g u) :
    g (s.almanac kind sev ctx origin payload) = g (s.almPut (s.almEntry kind sev ctx origin payload)
      (match sev with | .urgent => 0 | .open_ => 1)) := by
  have hb : ∀ (e : Alm) (q : Nat), ∀ w ∈ bytesAt (fwBase + q % 262144 * 64) e.bytes, w.a < gddrBytes := by
    intro e q
    refine bytesAt_lt ?_
    rw [Alm.bytes_length]
    have : q % 262144 < 262144 := Nat.mod_lt _ (by decide)
    simp only [fwBase, gddrBytes]
    omega
  have key : ∀ (u : State) (e : Alm) (q : Nat) (c : Bool),
      g (if c then u.raise .orr 13 else u.land (bytesAt (fwBase + q % 262144 * 64) e.bytes)) = g u := by
    intro u e q c
    cases c
    · exact State.land_gddr g _ _ (hb _ _) h1 h2
    · exact h3 _ _
  cases sev <;> exact key _ _ _ _

/-- What an Almanac entry leaves alone. -/
theorem State.almanac_keeps {γ : Type} (g : State → γ) (s : State) (kind : Byte) (sev : Sev) (ctx : Option (BitVec 4))
    (origin : Half) (payload : List Byte)
    (h1 : ∀ u a w, g (State.gddrPut u a w) = g u) (h2 : ∀ (u : State) x, g { u with gddr := x } = g u)
    (h3 : ∀ u b, g (State.raise u .orr b) = g u)
    (h4 : ∀ (u : State) n a h, g { u with freeCtr := n, alms := a, almHead := h } = g u) :
    g (s.almanac kind sev ctx origin payload) = g s :=
  (State.almanac_as g s kind sev ctx origin payload h1 h2 h3).trans (h4 s _ _ _)

theorem State.gddrPut_alms (s : State) (a : Nat) (w : Wr) : ((s.gddrPut a w).almHead, (s.gddrPut a w).alms) = (s.almHead, s.alms) := by
  simp only [State.gddrPut]
  repeat' split
  all_goals rfl

theorem State.raise_alms (s : State) (lf : Leaf) (b : Nat) : ((s.raise lf b).almHead, (s.raise lf b).alms) = (s.almHead, s.alms) := by
  simp only [State.raise, State.raiseArg]
  split <;> cases lf <;> rfl

/-- The entry stands at its place in the on-die copy, and the head is one on. -/
theorem State.almanac_alms (s : State) (kind sev ctx origin payload) :
    (s.almanac kind sev ctx origin payload).almHead = s.almHead + 1 ∧
    (s.almanac kind sev ctx origin payload).alms =
      sset (fun _ => Alm.init) s.alms (s.almHead.toNat % 4096) (s.almEntry kind sev ctx origin payload) :=
  Prod.mk.inj (State.almanac_as (fun u => (u.almHead, u.alms)) s kind sev ctx origin payload
    (fun u a w => u.gddrPut_alms a w) (fun _ _ => rfl) (fun u b => u.raise_alms .orr b))

@[simp] theorem State.almanac_cores (s : State) (kind sev ctx origin payload) :
    (s.almanac kind sev ctx origin payload).cores = s.cores :=
  State.almanac_keeps (fun u => u.cores) s kind sev ctx origin payload (fun u a w => u.gddrPut_cores a w) (fun _ _ => rfl)
    (fun u b => u.raise_cores .orr b rfl) (fun _ _ _ _ => rfl)

@[simp] theorem State.almanac_sites (s : State) (kind sev ctx origin payload) :
    (s.almanac kind sev ctx origin payload).sites = s.sites :=
  State.almanac_keeps (fun u => u.sites) s kind sev ctx origin payload (fun u a w => u.gddrPut_sites a w) (fun _ _ => rfl)
    (fun u b => u.raise_sites .orr b rfl) (fun _ _ _ _ => rfl)

theorem State.almanac_quiet (s : State) (kind sev ctx origin payload) :
    (s.almanac kind sev ctx origin payload).quiet = s.quiet :=
  State.almanac_keeps (fun u => u.quiet) s kind sev ctx origin payload (fun u a w => u.gddrPut_quiet a w) (fun _ _ => rfl)
    (fun u b => u.raise_quiet .orr b) (fun _ _ _ _ => rfl)

@[simp] theorem State.almanac_core (s : State) (kind sev ctx origin payload) (k : Nat) :
    (s.almanac kind sev ctx origin payload).core k = s.core k := by
  simp only [State.core, State.almanac_cores]

/-- What equal quiet parts give, field by field. -/
theorem State.quiet_fields {s t : State} (h : t.quiet = s.quiet) : t.part = s.part ∧ t.tick = s.tick ∧ t.grid = s.grid ∧
    t.ports = s.ports ∧ t.trellis = s.trellis ∧ t.fab = s.fab ∧ t.ctxs = s.ctxs ∧ t.flash = s.flash ∧ t.pins = s.pins ∧
    t.notices = s.notices ∧ t.outbox = s.outbox ∧ t.pending = s.pending :=
  ⟨congrArg Quiet.part h, congrArg Quiet.tick h, congrArg Quiet.grid h, congrArg Quiet.ports h, congrArg Quiet.trellis h,
    congrArg Quiet.fab h, congrArg Quiet.ctxs h, congrArg Quiet.flash h, congrArg Quiet.pins h, congrArg Quiet.notices h,
    congrArg Quiet.outbox h, congrArg Quiet.pending h⟩

theorem State.errLog_quiet (s : State) (k : Nat) (addr : Half) (bank : Bool) (slot source cause : Nat) (tag : Half) :
    (s.errLog k addr bank slot source cause tag).quiet = s.quiet := by
  simp only [State.errLog, State.almanac_quiet]; rfl

end Sys2Proof.Machine
end

