-- ==== Sys2Proof/Laws/Cc.lean ====
section
/-! SUPPORT. What the control core's operations can do (08): the log touches only the error log of the core, window writes
drain into IMEM only, and the parts of a bundle write the registers, queues and counts they are said to. -/

namespace Sys2Proof.Machine

/-! ## One core differs -/

theorem OnlyCore.refl (k : Nat) (s : State) : OnlyCore k s s := ⟨rfl, fun _ _ => rfl⟩

theorem OnlyCore.trans {k : Nat} {s t u : State} (h1 : OnlyCore k s t) (h2 : OnlyCore k t u) : OnlyCore k s u := by
  refine ⟨?_, fun j hj => (h2.2 j hj).trans (h1.2 j hj)⟩
  have a := h1.1
  have b := h2.1
  calc ({ u with cores := s.cores } : State) = { ({ u with cores := t.cores } : State) with cores := s.cores } := rfl
    _ = { t with cores := s.cores } := by rw [b]
    _ = s := a

theorem OnlyCore.setCore (s : State) (k : Nat) (x : Core) : OnlyCore k s (s.setCore k x) :=
  ⟨rfl, fun j hj => by simp [hj]⟩

theorem OnlyCore.modCore (s : State) (k : Nat) (f : Core → Core) : OnlyCore k s (s.modCore k f) := OnlyCore.setCore s k _

theorem OnlyCc.modCc (s : State) (k : Nat) (f : Cc → Cc) : OnlyCc k s (s.modCc k f) :=
  ⟨OnlyCore.setCore s k _, by simp⟩

/-! ## The error log and leaf causes of a core -/

theorem State.errLog_core (s : State) (k j : Nat) (addr : Half) (bank : Bool) (slot source cause : Nat) (tag : Half) :
    (s.errLog k addr bank slot source cause tag).core j = if j = k then { s.core k with cc := { (s.core k).cc with
      errlog := sset (fun _ => { word0 := 0, tick := 0 }) (s.core k).cc.errlog (s.core k).cc.errNext.toNat
        { word0 := errWord addr bank slot source cause tag (s.core k).cc.errSeq, tick := s.tick },
      errNext := (s.core k).cc.errNext + 1, errSeq := (s.core k).cc.errSeq + 1 } } else s.core j := by
  simp only [State.errLog, State.almanac_core, State.modCc_eq, State.core_setCore]

theorem State.raise_cc_core (s : State) (k j b : Nat) :
    (s.raise (.cc k) b).core j = if j = k then { s.core k with cc := { (s.core k).cc with
      cause := setBit (s.core k).cc.cause b true } } else s.core j := by
  simp only [State.raise, State.raiseArg]
  split
  · exact State.core_setCore s k j _
  · exact State.core_setCore s k j _

/-- The parts of a control core that logging a condition leaves alone. -/
structure CcBody where
  regs : Sparse Word
  pc : Half
  bank : Bool
  loops : List LoopLevel
  st : CcSt
  eng : BitVec 3
  stopCode : Half
  ctl : CcCtl
  causeMask : Half
  beaconDrop : Word
  beacons : List Beacon
  verA : Half
  verB : Half
  meCnt : EngCnt
  veCnt : EngCnt
  seCnt : EngCnt
  perf : CcPerf
  hazard : List (BitVec 5)
  imemBusy : List (Bool × Nat × List Byte)
  dmem : Mem
  dmemPoison : Sparse Bool
  imemA : Mem
  imemB : Mem
  imemUes : Nat
  numStat : NumStat
  me : Me
  ve : Ve
  se : Se
  sp : Mem
  spPoison : Sparse Bool
  ctx : Option (BitVec 4)

def Core.body (c : Core) : CcBody :=
  { regs := c.cc.regs, pc := c.cc.pc, bank := c.cc.bank, loops := c.cc.loops, st := c.cc.st, eng := c.cc.eng,
    stopCode := c.cc.stopCode, ctl := c.cc.ctl, causeMask := c.cc.causeMask, beaconDrop := c.cc.beaconDrop,
    beacons := c.cc.beacons, verA := c.cc.verA, verB := c.cc.verB, meCnt := c.cc.meCnt, veCnt := c.cc.veCnt,
    seCnt := c.cc.seCnt, perf := c.cc.perf, hazard := c.cc.hazard, imemBusy := c.cc.imemBusy, dmem := c.cc.dmem,
    dmemPoison := c.cc.dmemPoison, imemA := c.cc.imemA, imemB := c.cc.imemB, imemUes := c.cc.imemUes,
    numStat := c.cc.numStat, me := c.me, ve := c.ve, se := c.se, sp := c.sp, spPoison := c.spPoison, ctx := c.ctx }

/-- Logging a condition leaves everything but the cause and the error log of the core alone. -/
theorem State.errLog_body (s : State) (k j : Nat) (addr : Half) (bank : Bool) (slot source cause : Nat) (tag : Half) :
    ((s.errLog k addr bank slot source cause tag).core j).body = (s.core j).body := by
  rw [State.errLog_core]; split
  · subst_vars; rfl
  · rfl

theorem State.raise_cc_body (s : State) (k j b : Nat) : ((s.raise (.cc k) b).core j).body = (s.core j).body := by
  rw [State.raise_cc_core]; split
  · subst_vars; rfl
  · rfl

theorem State.ccLog_body (s : State) (k j slot cause : Nat) : ((s.ccLog k slot cause).core j).body = (s.core j).body := by
  simp only [State.ccLog, State.errLog_body, State.raise_cc_body]

/-! ## IMEM windows -/

/-- Draining window writes changes the two banks and the list of writes only. -/
theorem Cc.drainImem_rest (c : Cc) : { c.drainImem with imemA := c.imemA, imemB := c.imemB, imemBusy := c.imemBusy } = c := by
  have h : ∀ (l : List (Bool × Nat × List Byte)) (d : Cc), { d with imemA := c.imemA, imemB := c.imemB, imemBusy := c.imemBusy } = c →
      ({ l.foldl (fun c w => if w.1 then { c with imemB := c.imemB.setBytes w.2.1 w.2.2 }
        else { c with imemA := c.imemA.setBytes w.2.1 w.2.2 }) d with imemA := c.imemA, imemB := c.imemB, imemBusy := c.imemBusy } : Cc) = c := by
    intro l
    induction l with
    | nil => intro d hd; exact hd
    | cons w r ih =>
      intro d hd
      obtain ⟨b, o, bs⟩ := w
      cases b <;> exact ih _ hd
  exact h _ _ rfl

/-! ## What a bundle's parts leave alone -/

/-- The other cores and the sites. -/
def State.off (k : Nat) (s : State) : (Nat → Core) × Sparse Site :=
  (fun j => if j = k then Core.init else s.core j, s.sites)

/-- Registers, engine counts, engines, memories and bundle count of a core. -/
def Core.main (c : Core) : (Sparse Word × EngCnt × EngCnt × EngCnt) × (Me × Ve × Se × Mem) × BitVec 3 × DWord :=
  ((c.cc.regs, c.cc.meCnt, c.cc.veCnt, c.cc.seCnt), (c.me, c.ve, c.se, c.sp), c.cc.eng, c.cc.perf.bundle)

theorem Core.main_of_body {a b : Core} (h : a.body = b.body) : a.main = b.main := by
  have h' := congrArg (fun x : CcBody =>
    ((x.regs, x.meCnt, x.veCnt, x.seCnt), (x.me, x.ve, x.se, x.sp), x.eng, x.perf.bundle)) h
  exact h'

@[simp] theorem State.off_setCore (s : State) (k : Nat) (x : Core) : (s.setCore k x).off k = s.off k := by
  simp only [State.off, State.setCore_sites, Prod.mk.injEq, and_true]
  funext j; split
  · rfl
  · simp_all

theorem State.off_of_cores {s t : State} (k : Nat) (h1 : t.cores = s.cores) (h2 : t.sites = s.sites) : t.off k = s.off k := by
  simp only [State.off, State.core, h1, h2]

theorem State.off_iff {s t : State} {k : Nat} : t.off k = s.off k ↔ (∀ j, j ≠ k → t.core j = s.core j) ∧ t.sites = s.sites := by
  constructor
  · intro h
    refine ⟨fun j hj => ?_, congrArg Prod.snd h⟩
    have h' := congrFun (congrArg Prod.fst h) j
    simpa only [State.off, if_neg hj] using h'
  · rintro ⟨h1, h2⟩
    simp only [State.off, h2, Prod.mk.injEq, and_true]
    funext j; split
    · rfl
    · exact h1 j (by assumption)

@[simp] theorem State.errLog_off (s : State) (k : Nat) (addr : Half) (bank : Bool) (slot source cause : Nat) (tag : Half) :
    (s.errLog k addr bank slot source cause tag).off k = s.off k := by
  simp only [State.errLog, State.modCc_eq]
  refine (State.off_of_cores k (State.almanac_cores _ _ _ _ _ _) (State.almanac_sites _ _ _ _ _ _)).trans ?_
  exact State.off_setCore s k _

@[simp] theorem State.raise_cc_off (s : State) (k b : Nat) : (s.raise (.cc k) b).off k = s.off k := by
  simp only [State.raise, State.raiseArg]
  split
  · exact State.off_setCore s k _
  · exact State.off_setCore s k _

@[simp] theorem State.ccLog_off (s : State) (k slot cause : Nat) : (s.ccLog k slot cause).off k = s.off k := by
  simp only [State.ccLog, State.errLog_off, State.raise_cc_off]

/-- Same other cores and sites, same body of core `k`. -/
def Near (k : Nat) (s t : State) : Prop := t.off k = s.off k ∧ (t.core k).main = (s.core k).main

theorem Near.refl (k : Nat) (s : State) : Near k s s := ⟨rfl, rfl⟩

theorem Near.trans {k : Nat} {s t u : State} (h1 : Near k s t) (h2 : Near k t u) : Near k s u :=
  ⟨h2.1.trans h1.1, h2.2.trans h1.2⟩

theorem Near.ccLog (s : State) (k slot cause : Nat) : Near k s (s.ccLog k slot cause) :=
  ⟨s.ccLog_off k slot cause, Core.main_of_body (s.ccLog_body k k slot cause)⟩

theorem Near.raise (s : State) (k b : Nat) : Near k s (s.raise (.cc k) b) :=
  ⟨s.raise_cc_off k b, Core.main_of_body (s.raise_cc_body k k b)⟩

theorem Near.modCc (s : State) (k : Nat) (f : Cc → Cc)
    (h : ∀ c : Cc, (f c).regs = c.regs ∧ (f c).meCnt = c.meCnt ∧ (f c).veCnt = c.veCnt ∧ (f c).seCnt = c.seCnt ∧
      (f c).eng = c.eng ∧ (f c).perf.bundle = c.perf.bundle) : Near k s (s.modCc k f) := by
  refine ⟨by simp, ?_⟩
  obtain ⟨h1, h2, h3, h4, h5, h6⟩ := h (s.core k).cc
  simp only [State.modCc_eq, State.core_setCore, if_true, Core.main, h1, h2, h3, h4, h5, h6]

theorem Near.eccDmem (s : State) (k w : Nat) (ue : Bool) : Near k s (s.eccHit k { at_ := .dmem, word := w, ue := ue }) := by
  cases ue
  · exact Near.raise s k 12
  · exact Near.modCc s k _ (fun c => ⟨rfl, rfl, rfl, rfl, rfl, rfl⟩)

theorem Near.s2 (s : State) (k : Nat) (o : DOp) (ecc : Ecc) : Near k s (s.s2 k o ecc).1 := by
  have h1 : ∀ (u : State) (x : Option (Nat × Word)) (y : Option (Nat × Word)) (p : Bool), Near k s u →
      Near k s (if p then (u.ccLog k 2 13, x) else (u, y)).1 := by
    intro u x y p hu
    cases p
    · exact hu
    · exact hu.trans (Near.ccLog u k 2 13)
  have h2 : ∀ (u : State) (f : Cc → Cc) (p : Bool), Near k s u →
      (∀ c : Cc, (f c).regs = c.regs ∧ (f c).meCnt = c.meCnt ∧ (f c).veCnt = c.veCnt ∧ (f c).seCnt = c.seCnt ∧
        (f c).eng = c.eng ∧ (f c).perf.bundle = c.perf.bundle) →
      Near k s (if p then (u.ccLog k 2 13, none) else (u.modCc k f, (none : Option (Nat × Word)))).1 := by
    intro u f p hu hf
    cases p
    · exact hu.trans (Near.modCc u k f hf)
    · exact hu.trans (Near.ccLog u k 2 13)
  have he : ∀ a ue, Near k s (s.eccHit k { at_ := .dmem, word := a, ue := ue }) := fun a ue => Near.eccDmem s k a ue
  cases o with
  | nop => exact Near.refl k s
  | rdreg rd off => exact Near.refl k s
  | load size sg rd rs1 imm =>
    simp only [State.s2]
    split
    · exact Near.ccLog s k 2 3
    · split
      · exact Near.ccLog s k 2 2
      · cases ecc
        · exact h1 s _ _ _ (Near.refl k s)
        · exact h1 _ _ _ _ (he _ _)
        · exact h1 _ _ _ _ (he _ _)
  | store size rs2 rs1 imm =>
    simp only [State.s2]
    split
    · exact Near.ccLog s k 2 3
    · split
      · exact Near.ccLog s k 2 2
      · cases ecc
        · exact h2 s _ _ (Near.refl k s) (fun c => ⟨rfl, rfl, rfl, rfl, rfl, rfl⟩)
        · exact h2 _ _ _ (he _ _) (fun c => ⟨rfl, rfl, rfl, rfl, rfl, rfl⟩)
        · exact h2 _ _ _ (he _ _) (fun c => ⟨rfl, rfl, rfl, rfl, rfl, rfl⟩)

/-- The register S2 writes is the one it names. -/
theorem State.s2_dest (s : State) (k : Nat) (o : DOp) (ecc : Ecc) (w : Nat × Word) (h : (s.s2 k o ecc).2 = some w) :
    w.1 = o.dest := by
  cases o with
  | nop => cases h
  | rdreg rd off => simp only [State.s2, State.sampled, Option.some.injEq] at h; rw [← h]; rfl
  | load size sg rd rs1 imm =>
    simp only [State.s2] at h
    repeat' split at h
    all_goals first | cases h; done | (simp only [Option.some.injEq] at h; rw [← h]; rfl)
  | store size rs2 rs1 imm =>
    simp only [State.s2] at h
    repeat' split at h
    all_goals cases h

theorem Near.modOrr (s : State) (k : Nat) (f : Orr → Orr) : Near k s (s.modOrr f) := ⟨rfl, rfl⟩

theorem Near.beacon (s : State) (k num : Nat) (v : Word) (a : Half) (b keep : Bool) : Near k s (s.beacon k num v a b keep) := by
  have h1 : ∀ (r : Beacon) (x : Bool), Near k s (if x then s.modCc k (fun c => { c with beacons := c.beacons ++ [r] })
      else (s.modCc k (fun c => { c with
        beaconDrop := if c.beaconDrop = BitVec.allOnes 32 then c.beaconDrop else c.beaconDrop + 1 })).raise (.cc k) 14) := by
    intro r x
    cases x
    · exact (Near.modCc s k (fun c => { c with
        beaconDrop := if c.beaconDrop = BitVec.allOnes 32 then c.beaconDrop else c.beaconDrop + 1 })
        (fun c => ⟨rfl, rfl, rfl, rfl, rfl, rfl⟩)).trans (Near.raise _ k 14)
    · exact Near.modCc s k (fun c => { c with beacons := c.beacons ++ [r] }) (fun c => ⟨rfl, rfl, rfl, rfl, rfl, rfl⟩)
  have h2 : ∀ (u : State) (n : Option (BitVec 4)) (g : BitVec 4 → Orr → Orr), Near k s u →
      Near k s (match keep, n with
        | true, some n => u.modOrr (g n)
        | _, _ => u) := by
    intro u n g hu
    cases keep <;> cases n
    case true.some n => exact hu.trans (Near.modOrr u k (g n))
    all_goals exact hu
  exact h2 _ _ _ (h1 _ _)

theorem Near.jump (s : State) (k t : Nat) : Near k s (s.jump k t).1 :=
  Near.modCc s k _ (fun c => ⟨rfl, rfl, rfl, rfl, rfl, rfl⟩)

theorem Near.s1 (s : State) (k : Nat) (c : Cc) (len : Nat) (o : SOp) : Near k s (s.s1 k c len o).1 := by
  cases o with
  | b off => exact Near.jump s k _
  | br op r1 r2 off =>
    simp only [State.s1]; split
    · exact Near.jump s k _
    · exact Near.refl k s
  | jr r1 =>
    simp only [State.s1]; split
    · exact Near.jump s k _
    · exact Near.ccLog s k 1 6
  | loop lv r1 stop =>
    simp only [State.s1, State.loopOp]; split
    · exact Near.ccLog s k 1 7
    · split
      · exact Near.refl k s
      · exact Near.modCc s k _ (fun c => ⟨rfl, rfl, rfl, rfl, rfl, rfl⟩)
  | switch chk r t => exact Near.modCc s k _ (fun c => ⟨rfl, rfl, rfl, rfl, rfl, rfl⟩)
  | beacon r1 num =>
    simp only [State.s1]; split
    · exact Near.beacon s k _ _ _ _ _
    · split
      · exact Near.beacon s k _ _ _ _ _
      · exact Near.refl k s
  | stop code =>
    exact (Near.modCc s k (fun c => { c with stopCode := BitVec.ofNat 16 code, loops := [] })
      (fun c => ⟨rfl, rfl, rfl, rfl, rfl, rfl⟩)).trans (Near.raise _ k 9)
  | _ => exact Near.refl k s

theorem Near.logBad (s : State) (k : Nat) (b : Bundle) (o0 o1 : Option SOp) (o2 : Option DOp) :
    Near k s (s.logBad k b o0 o1 o2) := by
  have h1 : ∀ (u : State) (bad : Bool) (slot : Nat), Near k u (if bad then u.ccLog k slot 0 else u) := by
    intro u bad slot
    cases bad
    · exact Near.refl k u
    · exact Near.ccLog u k slot 0
  exact ((h1 _ _ 0).trans (h1 _ _ 1)).trans (h1 _ _ 2)

theorem Near.hazards (s : State) (k : Nat) (o0 o1 : Option SOp) (o2 : Option DOp) : Near k s (s.hazards k o0 o1 o2) :=
  Near.modCc s k _ (fun c => ⟨rfl, rfl, rfl, rfl, rfl, rfl⟩)

theorem Cc.drainImem_main (c : Cc) : c.drainImem.regs = c.regs ∧ c.drainImem.meCnt = c.meCnt ∧ c.drainImem.veCnt = c.veCnt ∧
    c.drainImem.seCnt = c.seCnt ∧ c.drainImem.eng = c.eng ∧ c.drainImem.perf.bundle = c.perf.bundle := by
  have h := c.drainImem_rest
  have h1 := congrArg Cc.regs h
  have h2 := congrArg Cc.meCnt h
  have h3 := congrArg Cc.veCnt h
  have h4 := congrArg Cc.seCnt h
  have h5 := congrArg Cc.eng h
  have h6 := congrArg (fun d : Cc => d.perf.bundle) h
  exact ⟨h1, h2, h3, h4, h5, h6⟩

theorem Near.drain (s : State) (k : Nat) : Near k s (s.modCc k Cc.drainImem) := Near.modCc s k _ Cc.drainImem_main

/-- The end of a bundle counts it, and of the rest changes only where the core fetches next and its debug state. -/
theorem State.endBundle_near (s : State) (k len : Nat) (ctl : Ctl) (brk : Bool) :
    (s.endBundle k len ctl brk).off k = s.off k ∧
      ((s.endBundle k len ctl brk).core k).main =
        ((s.core k).main.1, (s.core k).main.2.1, (s.core k).main.2.2.1, (s.core k).main.2.2.2 + 1) := by
  have h : ∀ (u : State) (x : Bool), Near k u (if x then u.raise (.cc k) 8 else u) := by
    intro u x
    cases x
    · exact Near.refl k u
    · exact Near.raise u k 8
  have h' := fun u x => h u x
  constructor
  · exact ((h' _ _).1).trans (by simp only [State.modCc_eq]; exact State.off_setCore s k _)
  · exact ((h' _ _).2).trans (by simp only [State.modCc_eq, State.core_setCore, if_true]; rfl)

end Sys2Proof.Machine
end

