-- ==== Sys2Proof/Laws/Fixed.lean ====
section
/-! SUPPORT. What only start-up and site grafts change: the part, the roles of its sites, the graft map, the retirement
record, and the queue of commands, gathered so that one lemma per operation says that it leaves them alone. -/

namespace Sys2Proof.Machine

/-- The parts of the state that only start-up and site grafts change, and the queue. -/
structure Fixed where
  part : Part
  roles : Sparse Role
  map : Sparse (Option Nat)
  record : List Retired
  pending : List Instr

def State.fixed (s : State) : Fixed :=
  { part := s.part, roles := s.grid.roles, map := s.grid.map, record := s.flash.record, pending := s.pending }

/-- An update of other fields. -/
theorem fixed_upd (u : State) (a1 a3 a4 a5 a6 a7 a8 a9 a10 a11 a12 a13 a14 a16 a17 a18 a19 a20 a21 a22 a23 a24 a25 a26 a27) :
    State.fixed (State.mk u.part a1 u.grid a3 a4 a5 a6 a7 a8 a9 a10 a11 a12 a13 a14 u.flash a16 a17 a18 a19 a20 a21 a22 a23
      a24 a25 a26 a27 u.pending) = u.fixed := rfl

theorem fixed_ite {c : Prop} [Decidable c] (a b : State) : State.fixed (if c then a else b) = if c then a.fixed else b.fixed := by
  split <;> rfl

theorem fixed_foldl {α : Type} (f : State → α → State) (l : List α) (s : State) (h : ∀ u a, (f u a).fixed = u.fixed) :
    (l.foldl f s).fixed = s.fixed := by
  induction l generalizing s with
  | nil => rfl
  | cons a r ih => exact (ih (f s a)).trans (h s a)

end Sys2Proof.Machine
end

