-- ==== Sys2Proof/Laws/FixedCore.lean ====
section
/-! SUPPORT. What the operations of a core, of its memories and of the rings leave alone: the part, site roles,
graft map, retirement record and command queue (`State.fixed`). -/

namespace Sys2Proof.Machine

theorem State.setSite_fixed (s : State) (p : Nat) (x : Site) : (s.setSite p x).fixed = s.fixed := by rfl

theorem State.modSite_fixed (s : State) (p : Nat) (f : Site → Site) : (s.modSite p f).fixed = s.fixed := by rfl

theorem State.setCore_fixed (s : State) (k : Nat) (x : Core) : (s.setCore k x).fixed = s.fixed := by rfl

theorem State.modCore_fixed (s : State) (k : Nat) (f : Core → Core) : (s.modCore k f).fixed = s.fixed := by rfl

theorem State.setXd_fixed (s : State) (x : Nat) (v : Xd) : (s.setXd x v).fixed = s.fixed := by rfl

theorem State.modXd_fixed (s : State) (x : Nat) (f : Xd → Xd) : (s.modXd x f).fixed = s.fixed := by rfl

theorem State.setPort_fixed (s : State) (p : Nat) (v : Port) : (s.setPort p v).fixed = s.fixed := by rfl

theorem State.modPort_fixed (s : State) (p : Nat) (f : Port → Port) : (s.modPort p f).fixed = s.fixed := by rfl

theorem State.setCtx_fixed (s : State) (n : Nat) (v : Ctx) : (s.setCtx n v).fixed = s.fixed := by rfl

theorem State.modCtx_fixed (s : State) (n : Nat) (f : Ctx → Ctx) : (s.modCtx n f).fixed = s.fixed := by rfl

theorem State.setOc_fixed (s : State) (n : Nat) (v : OrrCore) : (s.setOc n v).fixed = s.fixed := by rfl

theorem State.setSeal_fixed (s : State) (n : Nat) (v : SealSt) : (s.setSeal n v).fixed = s.fixed := by rfl

theorem State.setRxwin_fixed (s : State) (n : Nat) (v : RxWin) : (s.setRxwin n v).fixed = s.fixed := by rfl

theorem State.modCc_fixed (s : State) (k : Nat) (f : Cc → Cc) : (s.modCc k f).fixed = s.fixed := by rfl

theorem State.modMe_fixed (s : State) (k : Nat) (f : Me → Me) : (s.modMe k f).fixed = s.fixed := by rfl

theorem State.modVe_fixed (s : State) (k : Nat) (f : Ve → Ve) : (s.modVe k f).fixed = s.fixed := by rfl

theorem State.modSe_fixed (s : State) (k : Nat) (f : Se → Se) : (s.modSe k f).fixed = s.fixed := by rfl

theorem State.modTr_fixed (s : State) (x : Nat) (f : TrDie → TrDie) : (s.modTr x f).fixed = s.fixed := by rfl

theorem State.modFab_fixed (s : State) (x : Nat) (f : FabDie → FabDie) : (s.modFab x f).fixed = s.fixed := by rfl

theorem State.modMc_fixed (s : State) (x : Nat) (f : Mc → Mc) : (s.modMc x f).fixed = s.fixed := by rfl

theorem State.modOrr_fixed (s : State) (f : Orr → Orr) : (s.modOrr f).fixed = s.fixed := by rfl

theorem State.modSec_fixed (s : State) (f : Sec → Sec) : (s.modSec f).fixed = s.fixed := by rfl

theorem State.modPwr_fixed (s : State) (f : Power → Power) : (s.modPwr f).fixed = s.fixed := by rfl

theorem State.modGis_fixed (s : State) (f : Gis → Gis) : (s.modGis f).fixed = s.fixed := by rfl

theorem State.fresh_fixed (s : State) (count : Nat) : (s.fresh count).2.fixed = s.fixed := by rfl

theorem State.emit_fixed (s : State) (o : Out) : (s.emit o).fixed = s.fixed := by rfl

theorem State.putLeaf_fixed (s : State) (b : Nat) (v : Bool) (x0 : Leaf) : (s.putLeaf b v x0).fixed = s.fixed := by
  unfold State.putLeaf
  split <;> simp only [↓fixed_upd, ↓State.modSite_fixed, ↓State.modXd_fixed, ↓State.modCc_fixed, ↓State.modMe_fixed,
      ↓State.modVe_fixed, ↓State.modSe_fixed, ↓State.modTr_fixed, ↓State.modFab_fixed, ↓State.modMc_fixed, ↓State.modOrr_fixed,
      ↓State.modSec_fixed, ↓State.modPwr_fixed, ↓State.modGis_fixed]

theorem State.raiseArg_fixed (s : State) (lf : Leaf) (b arg : Nat) : (s.raiseArg lf b arg).fixed = s.fixed := by
  unfold State.raiseArg
  simp only [↓fixed_ite, ↓ite_self, ↓State.modGis_fixed, ↓State.putLeaf_fixed]

theorem State.raise_fixed (s : State) (lf : Leaf) (b : Nat) : (s.raise lf b).fixed = s.fixed := by
  unfold State.raise
  simp only [↓State.raiseArg_fixed]

theorem State.raiseBed_fixed (s : State) (p b off : Nat) : (s.raiseBed p b off).fixed = s.fixed := by
  unfold State.raiseBed
  simp only [↓fixed_ite, ↓ite_self, ↓State.modSite_fixed, ↓State.raise_fixed]

theorem State.raiseSite_fixed (s : State) (p b core edge : Nat) : (s.raiseSite p b core edge).fixed = s.fixed := by
  unfold State.raiseSite
  simp only [↓fixed_ite, ↓ite_self, ↓State.modSite_fixed, ↓State.raiseArg_fixed]

theorem State.raiseMc_fixed (s : State) (x b chan addr : Nat) : (s.raiseMc x b chan addr).fixed = s.fixed := by
  unfold State.raiseMc
  simp only [↓fixed_ite, ↓ite_self, ↓State.modMc_fixed, ↓State.raise_fixed]

theorem State.raiseFab_fixed (s : State) (x b port addr win : Nat) : (s.raiseFab x b port addr win).fixed = s.fixed := by
  unfold State.raiseFab
  simp only [↓fixed_ite, ↓ite_self, ↓State.modFab_fixed, ↓State.raise_fixed]

theorem State.raiseTr_fixed (s : State) (x b tag rank step : Nat) : (s.raiseTr x b tag rank step).fixed = s.fixed := by
  unfold State.raiseTr
  simp only [↓fixed_ite, ↓ite_self, ↓State.modTr_fixed, ↓State.raise_fixed]

theorem State.raiseSec_fixed (s : State) (b addr cls : Nat) : (s.raiseSec b addr cls).fixed = s.fixed := by
  unfold State.raiseSec
  refine (State.raise_fixed ..).trans ?_
  split
  · exact State.modSec_fixed ..
  · rfl

theorem State.mapFault_fixed (s : State) (a : Nat) : (s.mapFault a).fixed = s.fixed := by
  unfold State.mapFault
  simp only [↓fixed_ite, ↓ite_self, ↓State.modGis_fixed]

theorem State.numStat_fixed (s : State) (k : Nat) (tag : Half) (order : Nat) (nan inf sat : Bool) : (s.numStat k tag order nan
    inf sat).fixed = s.fixed := by rfl

theorem State.meetAll_fixed (s : State) (x0 : List MemEv) : (s.meetAll x0).fixed = s.fixed := by
  induction x0 generalizing s with
  | nil => rfl
  | cons e r ih =>
    unfold State.meetAll; rw [ih]
    cases e <;> simp only [↓State.modMc_fixed, ↓State.fresh_fixed, ↓State.raise_fixed, ↓State.raiseBed_fixed,
        ↓State.raiseMc_fixed, ↓State.raiseSec_fixed, ↓State.mapFault_fixed]

theorem State.meet_fixed (s : State) (evs : List MemEv) : (s.meet evs).fixed = s.fixed := by
  exact State.meetAll_fixed ..

theorem State.gddrPut_fixed (s : State) (a : Nat) (w : Wr) : (s.gddrPut a w).fixed = s.fixed := by
  unfold State.gddrPut
  simp only [↓fixed_upd, ↓fixed_ite, ↓ite_self, ↓State.modMc_fixed, ↓State.fresh_fixed]

theorem State.putByte_fixed (s : State) (w : Wr) : (s.putByte w).fixed = s.fixed := by
  unfold State.putByte
  split <;> simp only [↓fixed_ite, ↓ite_self, ↓State.modSite_fixed, ↓State.modCore_fixed, ↓State.gddrPut_fixed]

theorem State.setPoison_fixed (s : State) (a : Nat) (v : Bool) : (s.setPoison a v).fixed = s.fixed := by
  unfold State.setPoison
  split <;> simp only [↓fixed_upd, ↓State.modSite_fixed, ↓State.modCore_fixed]

theorem State.stashCount_fixed (s : State) (ws : List Wr) : (s.stashCount ws).fixed = s.fixed := by
  unfold State.stashCount
  simp only [↓fixed_upd, ↓fixed_ite, ↓ite_self]

theorem State.land_fixed (s : State) (ws : List Wr) : (s.land ws).fixed = s.fixed := by
  unfold State.land
  simp only [fixed_foldl, implies_true, ↓State.putByte_fixed, ↓State.setPoison_fixed, ↓State.stashCount_fixed]

theorem State.writeNow_fixed (s : State) (req : Requester) (own : Option Nat) (a : Nat) (bs : List Byte) : (s.writeNow req own a
    bs).fixed = s.fixed := by
  unfold State.writeNow
  simp only [↓fixed_ite, ↓ite_self, ↓State.mapFault_fixed, ↓State.meet_fixed, ↓State.land_fixed]

theorem State.readNow_fixed (s : State) (req : Requester) (own : Option Nat) (a n : Nat) : (s.readNow req own a n).2.fixed =
    s.fixed := by
  unfold State.readNow
  simp only [↓fixed_ite, ↓ite_self, ↓State.mapFault_fixed, ↓State.meet_fixed]

theorem State.met_fixed (s : State) (a : Nat) (ev : List MemEv) : (s.met a ev).fixed = s.fixed := by
  unfold State.met
  simp only [↓fixed_ite, ↓ite_self, ↓State.mapFault_fixed, ↓State.meet_fixed]

theorem State.seenRun_fixed (s : State) (req : Requester) (own : Option Nat) (a n : Nat) : (s.seenRun req own a n).fixed =
    s.fixed := by
  unfold State.seenRun
  simp only [↓State.met_fixed]

theorem State.seenRuns_fixed (s : State) (req : Requester) (l : List (Nat × Nat)) : (s.seenRuns req l).fixed = s.fixed := by
  unfold State.seenRuns
  simp only [fixed_foldl, implies_true, ↓State.seenRun_fixed]

theorem State.rewriteRoutes_fixed (s : State) : s.rewriteRoutes.fixed = s.fixed := by rfl

theorem State.bedCorrect_fixed (s : State) (p off : Nat) : (s.bedCorrect p off).fixed = s.fixed := by
  unfold State.bedCorrect
  simp only [↓State.modSite_fixed, ↓State.raiseBed_fixed]

theorem State.rowDue_fixed (s : State) (p off : Nat) : (s.rowDue p off).fixed = s.fixed := by rfl

theorem State.bedPoisonAt_fixed (s : State) (p off : Nat) : (s.bedPoisonAt p off).fixed = s.fixed := by
  unfold State.bedPoisonAt
  simp only [↓State.modSite_fixed, ↓State.raiseBed_fixed]

theorem State.rowRepair_fixed (s : State) (p row : Nat) : (s.rowRepair p row).fixed = s.fixed := by
  unfold State.rowRepair
  simp only [↓fixed_ite, ↓ite_self, ↓State.modSite_fixed, ↓State.raiseBed_fixed]

theorem State.modBed_fixed (s : State) (p : Nat) (f : Mem → Mem) : (s.modBed p f).fixed = s.fixed := by rfl

theorem State.landAcked_fixed (s : State) (p : Nat) (sel : ProtWrite → Bool) : (s.landAcked p sel).fixed = s.fixed := by rfl

theorem State.landGroup_fixed (s : State) (g : Nat) (sel : ProtWrite → Bool) : (s.landGroup g sel).fixed = s.fixed := by
  unfold State.landGroup
  simp only [fixed_foldl, implies_true, ↓State.landAcked_fixed]

theorem State.sendDelta_fixed (s : State) (p : Nat) (w : ProtWrite) : (s.sendDelta p w).fixed = s.fixed := by
  unfold State.sendDelta
  simp only [↓State.modSite_fixed]
  (repeat' split) <;> (try simp only [↓State.modSite_fixed])

theorem State.protStep_fixed (s : State) (p : Nat) : (s.protStep p).fixed = s.fixed := by
  unfold State.protStep
  (repeat' split) <;> simp only [↓State.modSite_fixed, ↓State.sendDelta_fixed]

theorem State.takeDelta_fixed (s : State) (p : Nat) : (s.takeDelta p).fixed = s.fixed := by
  unfold State.takeDelta
  split <;> simp only [↓State.modSite_fixed]

theorem State.parityInit_fixed (s : State) (g k : Nat) : (s.parityInit g k).fixed = s.fixed := by
  unfold State.parityInit
  split <;> simp only [↓State.modSite_fixed]

theorem State.parityAll_fixed (s : State) : s.parityAll.fixed = s.fixed := by
  unfold State.parityAll
  simp only [fixed_foldl, implies_true, ↓State.parityInit_fixed]

theorem State.sbRepair_fixed (s : State) (p off : Nat) : (s.sbRepair p off).fixed = s.fixed := by
  unfold State.sbRepair
  split <;> simp only [↓fixed_ite, ↓ite_self, ↓State.modSite_fixed, ↓State.raiseBed_fixed, ↓State.rowDue_fixed,
      ↓State.bedPoisonAt_fixed, ↓State.landGroup_fixed]

theorem State.parityLost_fixed (s : State) (p off : Nat) : (s.parityLost p off).fixed = s.fixed := by
  unfold State.parityLost
  split <;> simp only [↓State.bedPoisonAt_fixed]

theorem State.seedbankRepair_fixed (s : State) (p off : Nat) (parityOk : Bool) : (s.seedbankRepair p off parityOk).fixed =
    s.fixed := by
  unfold State.seedbankRepair
  simp only [↓fixed_ite, ↓ite_self, ↓State.bedPoisonAt_fixed, ↓State.sbRepair_fixed, ↓State.parityLost_fixed]

theorem State.scrub_fixed (s : State) (p off : Nat) (e : Ecc) : (s.scrub p off e).fixed = s.fixed := by
  unfold State.scrub
  (repeat' split) <;> simp only [↓State.bedCorrect_fixed, ↓State.seedbankRepair_fixed]

theorem State.sbStop_fixed (s : State) : s.sbStop.fixed = s.fixed := by
  unfold State.sbStop
  simp only [↓fixed_upd, fixed_foldl, implies_true, State.fresh, ↓State.modSite_fixed]

theorem State.sbCtl_fixed (s : State) (v : DWord) : (s.sbCtl v).fixed = s.fixed := by
  unfold State.sbCtl
  simp only [↓fixed_upd, ↓fixed_ite, ↓ite_self, ↓State.sbStop_fixed]

theorem State.setUnprot_fixed (s : State) (bits : Nat) : (s.setUnprot bits).fixed = s.fixed := by
  unfold State.setUnprot
  simp only [↓fixed_upd, ↓fixed_ite, ↓ite_self, ↓State.raise_fixed]

theorem State.initEnd_fixed (s : State) : s.initEnd.fixed = s.fixed := by
  unfold State.initEnd
  simp only [↓fixed_upd, ↓fixed_ite, ↓ite_self, ↓State.raise_fixed, ↓State.parityAll_fixed, ↓State.setUnprot_fixed]

theorem State.rebuildChunk_fixed (s : State) (l p k : Nat) : (s.rebuildChunk l p k).fixed = s.fixed := by
  unfold State.rebuildChunk
  simp only [fixed_foldl, implies_true, ↓State.modSite_fixed, ↓State.raiseBed_fixed]

theorem State.rebuild_fixed (s : State) (l p : Nat) : (s.rebuild l p).fixed = s.fixed := by
  unfold State.rebuild
  simp only [↓fixed_ite, fixed_foldl, ↓ite_self, implies_true, ↓State.landGroup_fixed, ↓State.parityInit_fixed,
      ↓State.rebuildChunk_fixed]

theorem State.rebuildEnd_fixed (s : State) : s.rebuildEnd.fixed = s.fixed := by
  unfold State.rebuildEnd
  simp only [↓fixed_upd, ↓fixed_ite, ↓ite_self, ↓State.raise_fixed, ↓State.rebuild_fixed]

theorem State.devFail_fixed (s : State) (x ch a : Nat) : (s.devFail x ch a).fixed = s.fixed := by
  unfold State.devFail
  simp only [↓fixed_ite, ↓ite_self, ↓State.modMc_fixed, ↓State.raiseMc_fixed]

theorem State.crcRetry_fixed (s : State) (x ch row : Nat) : (s.crcRetry x ch row).fixed = s.fixed := by
  unfold State.crcRetry
  simp only [↓fixed_ite, ↓ite_self, ↓State.modMc_fixed, ↓State.raiseMc_fixed, ↓State.devFail_fixed]

theorem State.retrain_fixed (s : State) (x ch : Nat) (moved idle eyeGood : Bool) : (s.retrain x ch moved idle eyeGood).fixed =
    s.fixed := by
  unfold State.retrain
  simp only [↓fixed_upd, ↓fixed_ite, ↓ite_self, State.fresh, ↓State.modMc_fixed, ↓State.raiseMc_fixed, ↓State.devFail_fixed]

theorem State.almanac_fixed (s : State) (kind : Byte) (sev : Sev) (ctx : Option (BitVec 4)) (origin : Half) (payload : List Byte)
    : (s.almanac kind sev ctx origin payload).fixed = s.fixed := by
  unfold State.almanac
  simp only [↓fixed_upd, ↓fixed_ite, ↓ite_self, State.fresh, ↓State.raise_fixed, ↓State.land_fixed]

theorem State.errLog_fixed (s : State) (k : Nat) (addr : Half) (bank : Bool) (slot source cause : Nat) (tag : Half) : (s.errLog k
    addr bank slot source cause tag).fixed = s.fixed := by
  unfold State.errLog
  simp only [↓State.modCc_fixed, ↓State.almanac_fixed]

theorem State.take_fixed (s : State) (k : Nat) (e : Eng) : (s.take k e).fixed = s.fixed := by rfl

theorem State.finish_fixed (s : State) (k : Nat) (e : Eng) (q : QEntry) : (s.finish k e q).fixed = s.fixed := by rfl

theorem State.skipHead_fixed (s : State) (k : Nat) (e : Eng) (q : QEntry) (cause : Nat) : (s.skipHead k e q cause).fixed =
    s.fixed := by
  unfold State.skipHead
  simp only [↓State.raise_fixed, ↓State.errLog_fixed, ↓State.take_fixed, ↓State.finish_fixed]

theorem State.spHit_fixed (s : State) (k word : Nat) (ue : Bool) : (s.spHit k word ue).fixed = s.fixed := by
  unfold State.spHit
  simp only [↓fixed_ite, ↓ite_self, ↓State.modCore_fixed, ↓State.raise_fixed]

theorem State.eccHit_fixed (s : State) (k : Nat) (h : EccHit) : (s.eccHit k h).fixed = s.fixed := by
  unfold State.eccHit
  (repeat' split) <;> simp only [↓State.modCc_fixed, ↓State.modMe_fixed, ↓State.modVe_fixed, ↓State.raise_fixed,
      ↓State.bedCorrect_fixed, ↓State.seedbankRepair_fixed, ↓State.spHit_fixed]

theorem State.eccHits_fixed (s : State) (k : Nat) (hs : List EccHit) : (s.eccHits k hs).fixed = s.fixed := by
  unfold State.eccHits
  simp only [fixed_foldl, implies_true, ↓State.eccHit_fixed]

theorem State.skipDmem_fixed (s : State) (k : Nat) (e : Eng) (q : QEntry) : (s.skipDmem k e q).fixed = s.fixed := by
  unfold State.skipDmem
  simp only [↓State.raise_fixed, ↓State.errLog_fixed, ↓State.take_fixed, ↓State.finish_fixed]

theorem State.beacon_fixed (s : State) (k : Nat) (num : Nat) (value : Word) (addr : Half) (bank keep : Bool) : (s.beacon k num
    value addr bank keep).fixed = s.fixed := by
  unfold State.beacon
  simp only [↓State.modCc_fixed, ↓State.modOrr_fixed, ↓State.raise_fixed]
  (repeat' split) <;> (try simp only [↓State.modCc_fixed, ↓State.modOrr_fixed, ↓State.raise_fixed])

theorem State.ccLog_fixed (s : State) (k slot cause : Nat) : (s.ccLog k slot cause).fixed = s.fixed := by
  unfold State.ccLog
  simp only [↓State.raise_fixed, ↓State.errLog_fixed]

theorem State.endBundle_fixed (s : State) (k : Nat) (len : Nat) (ctl : Ctl) (brk : Bool) : (s.endBundle k len ctl brk).fixed =
    s.fixed := by
  unfold State.endBundle
  simp only [↓fixed_ite, ↓ite_self, ↓State.modCc_fixed, ↓State.raise_fixed]

theorem State.issue_fixed (s : State) (k : Nat) (e : Eng) (w : Nat) : (s.issue k e w).fixed = s.fixed := by
  unfold State.issue
  simp only [↓fixed_ite, ↓ite_self, ↓State.modCore_fixed, ↓State.modCc_fixed, ↓State.raise_fixed, ↓State.errLog_fixed,
      ↓State.beacon_fixed]

theorem State.s2_fixed (s : State) (k : Nat) (o : DOp) (ecc : Ecc) : (s.s2 k o ecc).1.fixed = s.fixed := by
  unfold State.s2
  simp only [↓State.modCc_fixed, ↓State.eccHit_fixed, ↓State.ccLog_fixed]
  (repeat' split) <;> (try simp only [↓State.modCc_fixed, ↓State.eccHit_fixed, ↓State.ccLog_fixed])

theorem State.loopOp_fixed (s : State) (k : Nat) (c : Cc) (len level rs1 stop : Nat) : (s.loopOp k c len level rs1 stop).1.fixed
    = s.fixed := by
  unfold State.loopOp
  simp only [↓State.modCc_fixed, ↓State.ccLog_fixed]
  (repeat' split) <;> (try simp only [↓State.modCc_fixed, ↓State.ccLog_fixed])

theorem State.jump_fixed (s : State) (k : Nat) (t : Nat) : (s.jump k t).1.fixed = s.fixed := by rfl

theorem State.s1_fixed (s : State) (k : Nat) (c : Cc) (len : Nat) (x0 : SOp) : (s.s1 k c len x0).1.fixed = s.fixed := by
  unfold State.s1
  simp only [↓State.modCc_fixed, ↓State.raise_fixed, ↓State.beacon_fixed, ↓State.ccLog_fixed, ↓State.loopOp_fixed,
      ↓State.jump_fixed]
  (repeat' split) <;> (try simp only [↓State.modCc_fixed, ↓State.raise_fixed, ↓State.beacon_fixed, ↓State.ccLog_fixed,
      ↓State.loopOp_fixed, ↓State.jump_fixed])

theorem State.runBundle_fixed (s : State) (k : Nat) (b : Bundle) (o0 o1 : Option SOp) (o2 : Option DOp) (cmds : List (Eng × Nat))
    (dmem : Ecc) (w0 : Option (Nat × Word)) : (s.runBundle k b o0 o1 o2 cmds dmem w0).fixed = s.fixed := by
  unfold State.runBundle
  simp only [fixed_foldl, implies_true, ↓State.modCc_fixed, ↓State.endBundle_fixed, ↓State.issue_fixed, ↓State.s2_fixed,
      ↓State.s1_fixed]
  (repeat' split) <;> (try simp only [fixed_foldl, implies_true, ↓State.modCc_fixed, ↓State.endBundle_fixed, ↓State.issue_fixed,
      ↓State.s2_fixed, ↓State.s1_fixed])

theorem State.logBad_fixed (s : State) (k : Nat) (b : Bundle) (o0 o1 : Option SOp) (o2 : Option DOp) : (s.logBad k b o0 o1
    o2).fixed = s.fixed := by
  unfold State.logBad
  simp only [↓fixed_ite, ↓ite_self, ↓State.ccLog_fixed]

theorem State.queueStall_fixed (s : State) (k : Nat) (full : List Eng) : (s.queueStall k full).fixed = s.fixed := by rfl

theorem State.breakBefore_fixed (s : State) (k why : Nat) : (s.breakBefore k why).fixed = s.fixed := by rfl

theorem State.hazards_fixed (s : State) (k : Nat) (o0 o1 : Option SOp) (o2 : Option DOp) : (s.hazards k o0 o1 o2).fixed = s.fixed
    := by rfl

theorem State.bundleStep_fixed (s : State) (k : Nat) (imem dmem : Ecc) : (s.bundleStep k imem dmem).fixed = s.fixed := by
  unfold State.bundleStep
  simp only [↓fixed_ite, ↓ite_self, ↓State.modCc_fixed, ↓State.raise_fixed, ↓State.ccLog_fixed, ↓State.endBundle_fixed,
      ↓State.runBundle_fixed, ↓State.logBad_fixed, ↓State.queueStall_fixed, ↓State.breakBefore_fixed, ↓State.hazards_fixed]

theorem State.ccStart_fixed (s : State) (k : Nat) (pc : Half) (bank : Bool) : (s.ccStart k pc bank).fixed = s.fixed := by rfl

theorem State.ccPause_fixed (s : State) (k : Nat) (pause : Bool) : (s.ccPause k pause).fixed = s.fixed := by rfl

theorem State.ccResume_fixed (s : State) (k : Nat) : (s.ccResume k).fixed = s.fixed := by rfl

theorem State.imemRefuse_fixed (s : State) (k unit : Nat) (bank : Bool) : (s.imemRefuse k unit bank).fixed = s.fixed := by
  unfold State.imemRefuse
  simp only [↓State.emit_fixed, ↓State.raise_fixed, ↓State.errLog_fixed]

theorem State.imemVer_fixed (s : State) (k : Nat) (va vb : Half) : (s.imemVer k va vb).fixed = s.fixed := by
  unfold State.imemVer
  simp only [↓fixed_ite, ↓ite_self, ↓State.modCc_fixed, ↓State.fresh_fixed, ↓State.imemRefuse_fixed]

theorem State.xreg_fixed (s : State) (k x : Nat) (wr : Option Word) : (s.xreg k x wr).fixed = s.fixed := by
  unfold State.xreg
  split <;> simp only [↓fixed_ite, ↓ite_self, ↓State.modCc_fixed, ↓State.emit_fixed]

theorem State.spoilTiles_fixed (s : State) (k : Nat) (ts : List Nat) : (s.spoilTiles k ts).fixed = s.fixed := by
  unfold State.spoilTiles
  simp only [↓fixed_upd, fixed_foldl, implies_true, State.fresh, ↓State.modMe_fixed]

theorem State.imemWrite_fixed (s : State) (k : Nat) (bank : Bool) (o : Nat) (bs : List Byte) : (s.imemWrite k bank o bs).fixed =
    s.fixed := by
  unfold State.imemWrite
  simp only [↓fixed_ite, ↓ite_self, ↓State.modCc_fixed, ↓State.imemRefuse_fixed]

theorem State.dmemWindow_fixed (s : State) (k o : Nat) (bs : List Byte) : (s.dmemWindow k o bs).fixed = s.fixed := by
  unfold State.dmemWindow
  simp only [↓fixed_upd, ↓fixed_ite, ↓ite_self, State.fresh, ↓State.modCc_fixed, ↓State.raise_fixed, ↓State.errLog_fixed]

theorem State.winWrite_fixed (s : State) (k p c o : Nat) (bs : List Byte) : (s.winWrite k p c o bs).fixed = s.fixed := by
  unfold State.winWrite
  simp only [↓fixed_ite, ↓ite_self, ↓State.land_fixed, ↓State.imemWrite_fixed, ↓State.dmemWindow_fixed]

theorem State.coreWindow_fixed (s : State) (req : Requester) (site : Nat) (core off : Nat) (acc : Access) (ecc : List EccHit) :
    (s.coreWindow req site core off acc ecc).fixed = s.fixed := by
  unfold State.coreWindow
  (repeat' split) <;> simp only [↓fixed_ite, ↓ite_self, ↓State.modCc_fixed, ↓State.emit_fixed, ↓State.raiseSec_fixed,
      ↓State.mapFault_fixed, ↓State.eccHits_fixed, ↓State.spoilTiles_fixed, ↓State.winWrite_fixed]

theorem State.drainBeacon_fixed (s : State) (k : Nat) : (s.drainBeacon k).fixed = s.fixed := by
  unfold State.drainBeacon
  split <;> simp only [↓State.modCc_fixed, ↓State.almanac_fixed]

theorem State.seErr_fixed (s : State) (k : Nat) (tag : Half) (b : SeErr) : (s.seErr k tag b).fixed = s.fixed := by
  unfold State.seErr
  simp only [↓fixed_ite, ↓ite_self, ↓State.modSe_fixed]

theorem State.skipOwner_fixed (s : State) (k : Nat) (e : Eng) (q : QEntry) (hq : Nat) : (s.skipOwner k e q hq).fixed = s.fixed :=
    by
  unfold State.skipOwner
  simp only [↓State.raise_fixed, ↓State.errLog_fixed, ↓State.take_fixed, ↓State.finish_fixed, ↓State.seErr_fixed]

theorem State.modHq_fixed (s : State) (k q : Nat) (f : Hq → Hq) : (s.modHq k q f).fixed = s.fixed := by rfl

theorem State.beginWait_fixed (s : State) (k : Nat) (w : HqWait) : (s.beginWait k w).fixed = s.fixed := by rfl

theorem State.endWait_fixed (s : State) (k ep : Nat) : (s.endWait k ep).fixed = s.fixed := by rfl

theorem State.localWait_fixed (s : State) (k ep q : Nat) (acq : Bool) : (s.localWait k ep q acq).fixed = s.fixed := by rfl

theorem State.hqStall_fixed (s : State) (k ep : Nat) : (s.hqStall k ep).fixed = s.fixed := by
  unfold State.hqStall
  simp only [↓State.modSe_fixed, ↓State.raise_fixed]
  (repeat' split) <;> (try simp only [↓State.modSe_fixed, ↓State.raise_fixed])

theorem State.hqPop_fixed (s : State) (k q : Nat) : (s.hqPop k q).2.fixed = s.fixed := by
  unfold State.hqPop
  simp only [↓State.modCtx_fixed, ↓State.modSe_fixed, ↓State.raise_fixed, ↓State.almanac_fixed, ↓State.modHq_fixed]
  (repeat' split) <;> (try simp only [↓State.modCtx_fixed, ↓State.modSe_fixed, ↓State.raise_fixed, ↓State.almanac_fixed,
      ↓State.modHq_fixed])

theorem State.hqRelease_fixed (s : State) (k q : Nat) : (s.hqRelease k q).fixed = s.fixed := by
  unfold State.hqRelease
  simp only [↓fixed_upd, ↓fixed_ite, ↓State.modHq_fixed]
  (repeat' split) <;> (try simp only [↓fixed_upd, ↓fixed_ite, ↓State.modHq_fixed])

theorem State.landStream_fixed (s : State) (st : Stream) (ws : List Wr) : (s.landStream st ws).fixed = s.fixed := by
  unfold State.landStream
  simp only [↓fixed_upd, ↓fixed_ite, ↓ite_self, State.fresh, ↓State.land_fixed]

theorem State.tdStat_fixed (s : State) (k : Nat) (a : Acc) : (s.tdStat k a).fixed = s.fixed := by rfl

theorem State.skipUnknown_fixed (s : State) (k : Nat) (e : Eng) (ops : List Nat) (cause : Nat) (x0 : Nat) : (s.skipUnknown k e
    ops cause x0).fixed = s.fixed := by
  induction x0 generalizing s with
  | zero => rfl
  | succ n ih =>
    unfold State.skipUnknown
    split
    · split
      · rfl
      · rw [ih]; exact State.skipHead_fixed ..
    · rfl

theorem State.meRun_fixed (s : State) (l : SiteNo) (c : CoreNo) (op : Nat) (f : Nat → QEntry → State → State) (hf : ∀ (v0 : Nat)
    (v1 : QEntry) (v2 : State), (f v0 v1 v2).fixed = State.fixed v2) : (s.meRun l c op f).fixed = s.fixed := by
  unfold State.meRun
  simp only
  split
  · rfl
  · split
    · simp only [fixed_ite, State.skipHead_fixed, hf, State.skipUnknown_fixed, ite_self]
    · exact State.skipUnknown_fixed ..

theorem State.meFeed_fixed (k : Nat) (q : QEntry) (s : State) : (State.meFeed k q s).fixed = s.fixed := by
  unfold State.meFeed
  simp only [↓fixed_ite, ↓ite_self, ↓State.modMe_fixed, ↓State.take_fixed, ↓State.finish_fixed, ↓State.skipHead_fixed]

theorem State.meMask_fixed (ecc : List EccHit) (k : Nat) (q : QEntry) (s : State) : (State.meMask ecc k q s).fixed = s.fixed := by
  unfold State.meMask
  simp only [↓fixed_ite, ↓State.modMe_fixed, ↓State.take_fixed, ↓State.finish_fixed, ↓State.skipHead_fixed, ↓State.eccHits_fixed,
      ↓State.skipDmem_fixed]
  (repeat' split) <;> (try simp only [↓fixed_ite, ↓State.modMe_fixed, ↓State.take_fixed, ↓State.finish_fixed,
      ↓State.skipHead_fixed, ↓State.eccHits_fixed, ↓State.skipDmem_fixed])

theorem State.endFeed_fixed (s : State) (k : Nat) (p : MeWork → Bool) : (s.endFeed k p).fixed = s.fixed := by
  unfold State.endFeed
  simp only [fixed_foldl, implies_true, ↓State.modMe_fixed, ↓State.hqRelease_fixed]

theorem State.meMma_fixed (ecc : List EccHit) (k : Nat) (q : QEntry) (s : State) : (State.meMma ecc k q s).fixed = s.fixed := by
  unfold State.meMma
  simp only [fixed_foldl, implies_true, ↓State.modMe_fixed, ↓State.take_fixed, ↓State.skipHead_fixed, ↓State.eccHits_fixed,
      ↓State.skipOwner_fixed, ↓State.endWait_fixed, ↓State.localWait_fixed, ↓State.hqPop_fixed, ↓State.endFeed_fixed]
  (repeat' split) <;> (try simp only [fixed_foldl, implies_true, ↓State.modMe_fixed, ↓State.take_fixed, ↓State.skipHead_fixed,
      ↓State.eccHits_fixed, ↓State.skipOwner_fixed, ↓State.endWait_fixed, ↓State.localWait_fixed, ↓State.hqPop_fixed,
      ↓State.endFeed_fixed])

theorem State.mmaDone_fixed (s : State) (k : Nat) (upset : List (BitVec 14 × Word)) (chk : List (BitVec 7 × Word × Word)) :
    (s.mmaDone k upset chk).fixed = s.fixed := by
  unfold State.mmaDone
  simp only [fixed_foldl, implies_true, ↓State.modMe_fixed, ↓State.raise_fixed, ↓State.numStat_fixed, ↓State.finish_fixed,
      ↓State.hqRelease_fixed]
  (repeat' split) <;> (try simp only [fixed_foldl, implies_true, ↓State.modMe_fixed, ↓State.raise_fixed, ↓State.numStat_fixed,
      ↓State.finish_fixed, ↓State.hqRelease_fixed])

theorem State.storeFault_fixed (s : State) (k : Nat) (q : QEntry) : (s.storeFault k q).fixed = s.fixed := by
  unfold State.storeFault
  simp only [↓State.raise_fixed, ↓State.errLog_fixed]

theorem State.meSt_fixed (ecc : List EccHit) (k : Nat) (q : QEntry) (s : State) : (State.meSt ecc k q s).fixed = s.fixed := by
  unfold State.meSt
  simp only [↓fixed_ite, ↓State.modMe_fixed, ↓State.meet_fixed, ↓State.take_fixed, ↓State.skipHead_fixed, ↓State.eccHits_fixed,
      ↓State.skipDmem_fixed, ↓State.tdStat_fixed, ↓State.storeFault_fixed]
  (repeat' split) <;> (try simp only [↓fixed_ite, ↓State.modMe_fixed, ↓State.meet_fixed, ↓State.take_fixed,
      ↓State.skipHead_fixed, ↓State.eccHits_fixed, ↓State.skipDmem_fixed, ↓State.tdStat_fixed, ↓State.storeFault_fixed])

theorem State.stDone_fixed (s : State) (k : Nat) : (s.stDone k).fixed = s.fixed := by
  unfold State.stDone
  split <;> simp only [↓fixed_ite, ↓ite_self, ↓State.modMe_fixed, ↓State.numStat_fixed, ↓State.finish_fixed,
      ↓State.landStream_fixed, ↓State.storeFault_fixed]

theorem State.meLdacc_fixed (ecc : List EccHit) (k : Nat) (q : QEntry) (s : State) : (State.meLdacc ecc k q s).fixed = s.fixed :=
    by
  unfold State.meLdacc
  simp only [↓fixed_ite, ↓ite_self, ↓State.modMe_fixed, ↓State.take_fixed, ↓State.skipHead_fixed, ↓State.eccHits_fixed]

theorem State.ldaccDone_fixed (s : State) (k : Nat) : (s.ldaccDone k).fixed = s.fixed := by
  unfold State.ldaccDone
  split <;> simp only [↓State.modMe_fixed, ↓State.numStat_fixed, ↓State.finish_fixed]

theorem State.meZero_fixed (k : Nat) (q : QEntry) (s : State) : (State.meZero k q s).fixed = s.fixed := by
  unfold State.meZero
  simp only [↓fixed_ite, ↓ite_self, ↓State.modMe_fixed, ↓State.take_fixed, ↓State.finish_fixed, ↓State.skipHead_fixed]

theorem State.mePin_fixed (k : Nat) (q : QEntry) (s : State) : (State.mePin k q s).fixed = s.fixed := by
  unfold State.mePin
  simp only [↓fixed_ite, ↓ite_self, ↓State.modMe_fixed, ↓State.take_fixed, ↓State.finish_fixed, ↓State.skipHead_fixed]

theorem State.meSeal_fixed (k : Nat) (q : QEntry) (s : State) : (State.meSeal k q s).fixed = s.fixed := by
  unfold State.meSeal
  simp only [↓fixed_ite, ↓ite_self, ↓State.modMe_fixed, ↓State.take_fixed, ↓State.finish_fixed, ↓State.skipHead_fixed]

theorem State.meSelftest_fixed (k : Nat) (q : QEntry) (s : State) : (State.meSelftest k q s).fixed = s.fixed := by
  unfold State.meSelftest
  simp only [↓fixed_ite, ↓ite_self, ↓State.modMe_fixed, ↓State.fresh_fixed, ↓State.take_fixed, ↓State.skipHead_fixed]

theorem State.selftestDone_fixed (s : State) (k : Nat) (fails : BitVec 130) : (s.selftestDone k fails).fixed = s.fixed := by
  unfold State.selftestDone
  split <;> simp only [↓fixed_ite, ↓ite_self, ↓State.modMe_fixed, ↓State.raise_fixed, ↓State.finish_fixed]

theorem State.levelBoundary_fixed (s : State) (k : Nat) (ve : Bool) : (s.levelBoundary k ve).fixed = s.fixed := by
  unfold State.levelBoundary
  simp only [↓fixed_ite, ↓ite_self, ↓State.modMe_fixed, ↓State.modVe_fixed]

theorem State.veSkip_fixed (s : State) (k : Nat) (q : QEntry) (b : VBad) : (s.veSkip k q b).fixed = s.fixed := by
  unfold State.veSkip
  simp only [↓fixed_ite, ↓ite_self, ↓State.modVe_fixed, ↓State.skipHead_fixed]

theorem State.veSkipUnknown_fixed (s : State) (k : Nat) (x0 : Nat) : (s.veSkipUnknown k x0).fixed = s.fixed := by
  induction x0 generalizing s with
  | zero => rfl
  | succ n ih =>
    unfold State.veSkipUnknown
    split
    · split
      · rfl
      · rw [ih]; exact State.veSkip_fixed ..
    · rfl

theorem State.veRun_fixed (s : State) (l : SiteNo) (c : CoreNo) (op : Nat) (f : Nat → QEntry → State → State) (hf : ∀ (v0 : Nat)
    (v1 : QEntry) (v2 : State), (f v0 v1 v2).fixed = State.fixed v2) : (s.veRun l c op f).fixed = s.fixed := by
  unfold State.veRun
  simp only
  split
  · rfl
  · split
    · simp only [fixed_ite, hf, State.veSkipUnknown_fixed, ite_self]
    · exact State.veSkipUnknown_fixed ..

theorem State.veStart_fixed (s : State) (k : Nat) (q : QEntry) (ecc : List EccHit) (ch : Chain) (w : RDesc) (rs : List (Option
    RDesc)) (hin : Option (Nat × Nat)) (hout : Option Nat) : (s.veStart k q ecc ch w rs hin hout).fixed = s.fixed := by
  unfold State.veStart
  split <;> simp only [↓fixed_upd, State.fresh, ↓State.modVe_fixed, ↓State.meet_fixed, ↓State.take_fixed, ↓State.eccHits_fixed,
      ↓State.modHq_fixed, ↓State.endWait_fixed, ↓State.tdStat_fixed]

theorem State.vePopIn_fixed (s : State) (k : Nat) (h : Option Nat) (r : Option (Nat × Nat) × State) (e : s.vePopIn k h = some r) :
    r.2.fixed = s.fixed := by
  unfold State.vePopIn at e
  split at e
  · cases e; rfl
  · cases e; rfl
  · split at e
    · cases e; simp only [State.endWait_fixed, State.hqPop_fixed]
    · cases e

theorem State.veGo_fixed (s : State) (ecc : List EccHit) (k : Nat) (q : QEntry) (ch : Chain) (w : RDesc) (rs : List (Option
    RDesc)) : (s.veGo ecc k q ch w rs).fixed = s.fixed := by
  unfold State.veGo
  simp only
  (repeat' split) <;> first
    | rfl
    | (simp only [↓State.skipOwner_fixed, ↓State.localWait_fixed]; done)
    | (simp only [State.veStart_fixed, State.localWait_fixed, State.modVe_fixed]; exact State.vePopIn_fixed _ _ _ _ (by
        assumption))

theorem State.veChain_fixed (ecc : List EccHit) (k : Nat) (q : QEntry) (s : State) : (State.veChain ecc k q s).fixed = s.fixed :=
    by
  unfold State.veChain
  simp only
  (repeat' split) <;> first
    | rfl
    | (simp only [↓State.veSkip_fixed, ↓State.skipDmem_fixed, ↓State.veGo_fixed, ↓State.eccHits_fixed]; done)

theorem State.chainDone_fixed (s : State) (k : Nat) : (s.chainDone k).fixed = s.fixed := by
  unfold State.chainDone
  (repeat' split) <;> simp only [↓State.modVe_fixed, ↓State.numStat_fixed, ↓State.finish_fixed, ↓State.modHq_fixed,
      ↓State.hqRelease_fixed, ↓State.landStream_fixed]

theorem State.veTload_fixed (ecc : List EccHit) (k : Nat) (q : QEntry) (s : State) : (State.veTload ecc k q s).fixed = s.fixed :=
    by
  unfold State.veTload
  simp only [↓fixed_upd, ↓fixed_ite, ↓ite_self, State.fresh, ↓State.modVe_fixed, ↓State.take_fixed, ↓State.eccHits_fixed,
      ↓State.veSkip_fixed]

theorem State.tloadDone_fixed (s : State) (k : Nat) : (s.tloadDone k).fixed = s.fixed := by
  unfold State.tloadDone
  split <;> simp only [↓State.modVe_fixed, ↓State.finish_fixed]

theorem State.veTswap_fixed (k : Nat) (q : QEntry) (s : State) : (State.veTswap k q s).fixed = s.fixed := by
  unfold State.veTswap
  simp only [↓fixed_ite, ↓ite_self, ↓State.modVe_fixed, ↓State.take_fixed, ↓State.veSkip_fixed]

theorem State.swapDone_fixed (s : State) (k table : Nat) : (s.swapDone k table).fixed = s.fixed := by
  unfold State.swapDone
  split <;> simp only [↓fixed_ite, ↓ite_self, ↓State.modVe_fixed, ↓State.finish_fixed]

theorem State.modSeCtx_fixed (s : State) (k x : Nat) (f : SeCtx → SeCtx) : (s.modSeCtx k x f).fixed = s.fixed := by rfl

theorem State.issueMore_fixed (s : State) (k x : Nat) : (s.issueMore k x).fixed = s.fixed := by rfl

theorem State.issueMove_fixed (s : State) (k x : Nat) (mv : Moved) (group : Option Mcast) (credit : Bool) : (s.issueMove k x mv
    group credit).fixed = s.fixed := by
  unfold State.issueMove
  simp only [↓fixed_ite, ↓ite_self, ↓State.meet_fixed, ↓State.tdStat_fixed, ↓State.modSeCtx_fixed, ↓State.issueMore_fixed]

theorem State.seSkip_fixed (s : State) (k : Nat) (q : QEntry) (b : SeErr) : (s.seSkip k q b).fixed = s.fixed := by
  unfold State.seSkip
  simp only [↓State.skipHead_fixed, ↓State.seErr_fixed]

theorem State.seSkipUnknown_fixed (s : State) (k : Nat) (x0 : Nat) : (s.seSkipUnknown k x0).fixed = s.fixed := by
  induction x0 generalizing s with
  | zero => rfl
  | succ n ih =>
    unfold State.seSkipUnknown
    split
    · split
      · rfl
      · rw [ih]; exact State.seSkip_fixed ..
    · rfl

theorem State.seRun_fixed (s : State) (l : SiteNo) (c : CoreNo) (op : Nat) (f : Nat → QEntry → State → State) (hf : ∀ (v0 : Nat)
    (v1 : QEntry) (v2 : State), (f v0 v1 v2).fixed = State.fixed v2) : (s.seRun l c op f).fixed = s.fixed := by
  unfold State.seRun
  simp only
  split
  · rfl
  · split
    · rfl
    · split
      · simp only [fixed_ite, State.seSkip_fixed, hf, State.seSkipUnknown_fixed, ite_self]
      · exact State.seSkipUnknown_fixed ..

theorem State.tdInfo_fixed (s : State) (k index check dim : Nat) (tag : Half) : (s.tdInfo k index check dim tag).fixed = s.fixed
    := by
  unfold State.tdInfo
  simp only [↓fixed_ite, ↓ite_self, ↓State.modSe_fixed]

theorem State.setDesc_fixed (s : State) (k i : Nat) (d : Option Desc) : (s.setDesc k i d).fixed = s.fixed := by rfl

theorem State.seTdesc_fixed (ecc : List EccHit) (k : Nat) (q : QEntry) (s : State) : (State.seTdesc ecc k q s).fixed = s.fixed :=
    by
  unfold State.seTdesc
  simp only [↓fixed_ite, ↓State.take_fixed, ↓State.finish_fixed, ↓State.eccHits_fixed, ↓State.skipDmem_fixed,
      ↓State.seSkip_fixed, ↓State.tdInfo_fixed, ↓State.setDesc_fixed]
  (repeat' split) <;> (try simp only [↓fixed_ite, ↓State.take_fixed, ↓State.finish_fixed, ↓State.eccHits_fixed,
      ↓State.skipDmem_fixed, ↓State.seSkip_fixed, ↓State.tdInfo_fixed, ↓State.setDesc_fixed])

theorem State.seStart_fixed (ecc : List EccHit) (k : Nat) (q : QEntry) (s : State) : (State.seStart ecc k q s).fixed = s.fixed :=
    by
  unfold State.seStart
  simp only [↓fixed_ite, ↓State.take_fixed, ↓State.eccHits_fixed, ↓State.skipDmem_fixed, ↓State.modSeCtx_fixed,
      ↓State.seSkip_fixed]
  (repeat' split) <;> (try simp only [↓fixed_ite, ↓State.take_fixed, ↓State.eccHits_fixed, ↓State.skipDmem_fixed,
      ↓State.modSeCtx_fixed, ↓State.seSkip_fixed])

theorem State.endCtx_fixed (s : State) (k x : Nat) : (s.endCtx k x).fixed = s.fixed := by
  unfold State.endCtx
  simp only [↓State.finish_fixed, ↓State.endWait_fixed, ↓State.modSeCtx_fixed]
  (repeat' split) <;> (try simp only [↓State.finish_fixed, ↓State.endWait_fixed, ↓State.modSeCtx_fixed])

theorem State.drainCtx_fixed (s : State) (k x : Nat) : (s.drainCtx k x).fixed = s.fixed := by
  unfold State.drainCtx
  simp only [↓fixed_ite, ↓ite_self, ↓State.endCtx_fixed]

theorem State.seCopy_fixed (credit : Bool) (ecc : List EccHit) (k : Nat) (q : QEntry) (s : State) : (State.seCopy credit ecc k q
    s).fixed = s.fixed := by
  unfold State.seCopy
  simp only [↓fixed_ite, ↓State.take_fixed, ↓State.eccHits_fixed, ↓State.modSeCtx_fixed, ↓State.issueMove_fixed,
      ↓State.seSkip_fixed, ↓State.drainCtx_fixed]
  (repeat' split) <;> (try simp only [↓fixed_ite, ↓State.take_fixed, ↓State.eccHits_fixed, ↓State.modSeCtx_fixed,
      ↓State.issueMove_fixed, ↓State.seSkip_fixed, ↓State.drainCtx_fixed])

theorem State.seHqcfg_fixed (ecc : List EccHit) (k : Nat) (q : QEntry) (s : State) : (State.seHqcfg ecc k q s).fixed = s.fixed :=
    by
  unfold State.seHqcfg
  simp only [↓fixed_upd, ↓fixed_ite, ↓State.take_fixed, ↓State.finish_fixed, ↓State.eccHits_fixed, ↓State.skipDmem_fixed,
      ↓State.modHq_fixed, ↓State.seSkip_fixed]
  (repeat' split) <;> (try simp only [↓fixed_upd, ↓fixed_ite, ↓State.take_fixed, ↓State.finish_fixed, ↓State.eccHits_fixed,
      ↓State.skipDmem_fixed, ↓State.modHq_fixed, ↓State.seSkip_fixed])

theorem State.seMcast_fixed (k : Nat) (q : QEntry) (s : State) : (State.seMcast k q s).fixed = s.fixed := by rfl

theorem State.seFence_fixed (k : Nat) (q : QEntry) (s : State) : (State.seFence k q s).fixed = s.fixed := by rfl

theorem State.fenceDone_fixed (s : State) (k : Nat) : (s.fenceDone k).fixed = s.fixed := by
  unfold State.fenceDone
  split <;> simp only [↓fixed_ite, ↓ite_self, ↓State.modSe_fixed, ↓State.finish_fixed]

theorem State.logCtx_fixed (s : State) (k x cause : Nat) : (s.logCtx k x cause).fixed = s.fixed := by
  unfold State.logCtx
  split <;> simp only [↓State.errLog_fixed]

theorem State.spStop_fixed (s : State) (k x cause hq : Nat) : (s.spStop k x cause hq).fixed = s.fixed := by
  unfold State.spStop
  simp only [↓State.raise_fixed, ↓State.seErr_fixed, ↓State.endWait_fixed, ↓State.modSeCtx_fixed, ↓State.drainCtx_fixed,
      ↓State.logCtx_fixed]

theorem State.spRun_fixed (s : State) (l : SiteNo) (c : CoreNo) (x : BitVec 3) (op : Nat) (f : Nat → Nat → DWord → State → State)
    (hf : ∀ (v0 : Nat) (v1 : Nat) (v2 : DWord) (v3 : State), (f v0 v1 v2 v3).fixed = State.fixed v3) : (s.spRun l c x op f).fixed
    = s.fixed := by
  unfold State.spRun
  simp only
  split
  · rfl
  · split
    · rfl
    · split
      · rfl
      · simp only [fixed_ite, hf, ite_self]

theorem State.spNext_fixed (s : State) (k x : Nat) : (s.spNext k x).fixed = s.fixed := by rfl

theorem State.spXfer_fixed (credit : Bool) (ecc : List EccHit) (k x : Nat) (w : DWord) (s : State) : (State.spXfer credit ecc k x
    w s).fixed = s.fixed := by
  unfold State.spXfer
  simp only [↓State.eccHits_fixed, ↓State.issueMove_fixed, ↓State.spStop_fixed]
  (repeat' split) <;> (try simp only [↓State.eccHits_fixed, ↓State.issueMove_fixed, ↓State.spStop_fixed])

theorem State.spWait_fixed (s : State) (k x kind q : Nat) (site core : Nat) (acq : Bool) : (s.spWait k x kind q site core
    acq).fixed = s.fixed := by rfl

theorem State.memberAcquire_fixed (s : State) (k q : Nat) (m : Nat × Nat × Nat) : (s.memberAcquire k q m).fixed = s.fixed := by
  unfold State.memberAcquire
  simp only [↓fixed_ite, ↓ite_self, ↓State.modSe_fixed, ↓State.modHq_fixed]

theorem State.memberPush_fixed (s : State) (q : Nat) (m : Nat × Nat × Nat) : (s.memberPush q m).fixed = s.fixed := by
  unfold State.memberPush
  simp only [↓fixed_upd, ↓fixed_ite, ↓ite_self, ↓State.modHq_fixed]

theorem State.spAcq_fixed (k x : Nat) (w : DWord) (s : State) : (State.spAcq k x w s).fixed = s.fixed := by
  unfold State.spAcq
  simp only [↓fixed_ite, fixed_foldl, implies_true, ↓State.modSeCtx_fixed, ↓State.spStop_fixed, ↓State.spNext_fixed,
      ↓State.spWait_fixed, ↓State.memberAcquire_fixed]
  (repeat' split) <;> (try simp only [↓fixed_ite, fixed_foldl, implies_true, ↓State.modSeCtx_fixed, ↓State.spStop_fixed,
      ↓State.spNext_fixed, ↓State.spWait_fixed, ↓State.memberAcquire_fixed])

theorem State.spPush_fixed (k x : Nat) (w : DWord) (s : State) : (State.spPush k x w s).fixed = s.fixed := by
  unfold State.spPush
  simp only [↓fixed_ite, fixed_foldl, ↓ite_self, implies_true, ↓State.modSeCtx_fixed, ↓State.spStop_fixed, ↓State.spNext_fixed,
      ↓State.memberPush_fixed]

theorem State.spPop_fixed (k x : Nat) (w : DWord) (s : State) : (State.spPop k x w s).fixed = s.fixed := by
  unfold State.spPop
  simp only [↓fixed_ite, ↓ite_self, ↓State.hqPop_fixed, ↓State.modSeCtx_fixed, ↓State.spStop_fixed, ↓State.spNext_fixed,
      ↓State.spWait_fixed]

theorem State.spRel_fixed (k x : Nat) (w : DWord) (s : State) : (State.spRel k x w s).fixed = s.fixed := by
  unfold State.spRel
  simp only [↓fixed_ite, ↓ite_self, ↓State.hqRelease_fixed, ↓State.modSeCtx_fixed, ↓State.spStop_fixed, ↓State.spNext_fixed]

theorem State.spWaitt_fixed (k x : Nat) (w : DWord) (s : State) : (State.spWaitt k x w s).fixed = s.fixed := by
  unfold State.spWaitt
  simp only [↓fixed_ite, ↓ite_self, ↓State.modSeCtx_fixed, ↓State.spNext_fixed]

theorem State.xferDone_fixed (s : State) (k x : Nat) : (s.xferDone k x).fixed = s.fixed := by
  unfold State.xferDone
  simp only [↓fixed_ite, ↓ite_self, ↓State.modSe_fixed, ↓State.raise_fixed, ↓State.numStat_fixed, ↓State.landStream_fixed,
      ↓State.modSeCtx_fixed, ↓State.drainCtx_fixed, ↓State.logCtx_fixed, ↓State.spStop_fixed]
  (repeat' split) <;> (try simp only [↓fixed_ite, ↓ite_self, ↓State.modSe_fixed, ↓State.raise_fixed, ↓State.numStat_fixed,
      ↓State.landStream_fixed, ↓State.modSeCtx_fixed, ↓State.drainCtx_fixed, ↓State.logCtx_fixed, ↓State.spStop_fixed])

theorem State.oseen_fixed (s : State) (a n : Nat) : (s.oseen a n).fixed = s.fixed := by
  unfold State.oseen
  simp only [↓State.seenRun_fixed]

theorem State.owrite_fixed (s : State) (a : Nat) (bs : List Byte) : (s.owrite a bs).fixed = s.fixed := by
  unfold State.owrite
  simp only [↓State.writeNow_fixed]

theorem State.eachCore_fixed (s : State) (cs : List (Nat × Nat × Nat)) (f : Core → Core) : (s.eachCore cs f).fixed = s.fixed := by
  unfold State.eachCore
  simp only [fixed_foldl, implies_true, ↓State.modCore_fixed]

theorem State.plic_fixed (s : State) (src : Nat) : (s.plic src).fixed = s.fixed := by rfl

theorem State.hostTick_fixed (s : State) : s.hostTick.fixed = s.fixed := by
  unfold State.hostTick
  simp only [↓fixed_upd, ↓fixed_ite, ↓ite_self, State.fresh]

theorem State.almCtx_fixed (s : State) (n op : Nat) : (s.almCtx n op).fixed = s.fixed := by
  unfold State.almCtx
  simp only [↓State.almanac_fixed]

theorem State.almDriver_fixed (s : State) (op : Nat) : (s.almDriver op).fixed = s.fixed := by
  unfold State.almDriver
  simp only [↓State.almanac_fixed]

theorem State.almFw_fixed (s : State) (op : Nat) (v : Word) : (s.almFw op v).fixed = s.fixed := by
  unfold State.almFw
  simp only [↓State.almanac_fixed]

theorem State.almOrr_fixed (s : State) (op oc : Nat) : (s.almOrr op oc).fixed = s.fixed := by
  unfold State.almOrr
  simp only [↓State.almanac_fixed]

theorem State.almGraft_fixed (s : State) (kind old new : Nat) (ticks : Nat) : (s.almGraft kind old new ticks).fixed = s.fixed :=
    by
  unfold State.almGraft
  simp only [↓State.almanac_fixed]

theorem State.sramWritten_fixed (s : State) (lo hi : Nat) : (s.sramWritten lo hi).fixed = s.fixed := by rfl

theorem State.complete_fixed (s : State) (n : Nat) (irq : Bool) (r : List Byte) : (s.complete n irq r).fixed = s.fixed := by
  unfold State.complete
  simp only [↓fixed_ite, ↓ite_self, ↓State.modCtx_fixed, ↓State.owrite_fixed, ↓State.plic_fixed]

end Sys2Proof.Machine
end

