-- ==== Sys2Proof/Laws/FixedStep.lean ====
section
/-! SUPPORT. What the operations of Trellis, of the training step and of the orrery leave alone: the part, site roles,
graft map, retirement record and command queue (`State.fixed`). -/

namespace Sys2Proof.Machine

theorem State.setEpoch_fixed (s : State) : s.setEpoch.fixed = s.fixed := by rfl

theorem State.raiseCfg_fixed (s : State) : s.raiseCfg.fixed = s.fixed := by
  unfold State.raiseCfg
  simp only [fixed_foldl, implies_true, ↓State.raiseTr_fixed]

theorem State.badCfg_fixed (s : State) (n : Nat) : (s.badCfg n).fixed = s.fixed := by
  unfold State.badCfg
  simp only [fixed_foldl, implies_true, ↓State.modCtx_fixed, ↓State.modTr_fixed, ↓State.almCtx_fixed, ↓State.raiseCfg_fixed]

theorem State.bind_fixed (s : State) (n : Nat) : (s.bind n).fixed = s.fixed := by
  unfold State.bind
  simp only [↓fixed_upd, fixed_foldl, implies_true, ↓State.modCtx_fixed, ↓State.modTr_fixed, ↓State.seenRuns_fixed,
      ↓State.setEpoch_fixed, ↓State.badCfg_fixed]
  (repeat' split) <;> (try simp only [↓fixed_upd, fixed_foldl, implies_true, ↓State.modCtx_fixed, ↓State.modTr_fixed,
      ↓State.seenRuns_fixed, ↓State.setEpoch_fixed, ↓State.badCfg_fixed])

theorem State.bucketSeen_fixed (s : State) (n : Nat) (e : TagEntry) : (s.bucketSeen n e).fixed = s.fixed := by
  unfold State.bucketSeen
  simp only [fixed_foldl, implies_true, ↓State.seenRun_fixed]

theorem State.keepBucket_fixed (s : State) (t : Nat) (e : TagEntry) : (s.keepBucket t e).fixed = s.fixed := by rfl

theorem State.handoff_fixed (s : State) (x : Nat) (bs : List Byte) : (s.handoff x bs).fixed = s.fixed := by
  unfold State.handoff
  split <;> simp only [↓fixed_ite, ↓ite_self, ↓State.modTr_fixed, ↓State.raiseTr_fixed, ↓State.keepBucket_fixed]

theorem State.foldDrop_fixed (s : State) (t rank step : Nat) : (s.foldDrop t rank step).fixed = s.fixed := by
  unfold State.foldDrop
  simp only [↓State.raiseTr_fixed]

theorem State.foldNotice_fixed (s : State) (m : MemberNotice) : (s.foldNotice m).fixed = s.fixed := by
  unfold State.foldNotice
  simp only [↓fixed_upd, ↓fixed_ite, ↓ite_self, ↓State.foldDrop_fixed]

theorem State.foldSegment_fixed (s : State) (m : SegmentMsg) : (s.foldSegment m).fixed = s.fixed := by
  unfold State.foldSegment
  simp only [↓fixed_upd, ↓fixed_ite, ↓ite_self, ↓State.foldDrop_fixed]

theorem State.markStep_fixed (s : State) (n : Nat) (step : Word) (f : StepRec → StepRec) : (s.markStep n step f).fixed = s.fixed
    := by rfl

theorem State.complRecord_fixed (s : State) (c : TrCfg) (t : Nat) (m : CloseNotice) : (s.complRecord c t m).fixed = s.fixed := by
  unfold State.complRecord
  simp only [↓fixed_upd, ↓fixed_ite, ↓ite_self, ↓State.modCtx_fixed, ↓State.modTr_fixed, ↓State.raiseTr_fixed,
      ↓State.writeNow_fixed, ↓State.markStep_fixed]

theorem State.tryComplete_fixed (s : State) (tag : BitVec 12) (step : Word) : (s.tryComplete tag step).fixed = s.fixed := by
  unfold State.tryComplete
  split <;> simp only [↓fixed_ite, ↓ite_self, ↓State.complRecord_fixed]

theorem State.retain_fixed (s : State) (m : SegmentMsg) : (s.retain m).fixed = s.fixed := by
  unfold State.retain
  split <;> simp only [↓fixed_upd, ↓State.writeNow_fixed, ↓State.tryComplete_fixed]

theorem State.ownSeg_fixed (s : State) (c : TrCfg) (e : TagEntry) (m : CloseNotice) (seg : Nat) : (s.ownSeg c e m seg).fixed =
    s.fixed := by
  unfold State.ownSeg
  simp only [↓fixed_upd, ↓State.modTr_fixed, ↓State.emit_fixed, ↓State.retain_fixed]
  (repeat' split) <;> (try simp only [↓fixed_upd, ↓State.modTr_fixed, ↓State.emit_fixed, ↓State.retain_fixed])

theorem State.retryOwed_fixed (s : State) (tag : BitVec 12) (step : Word) : (s.retryOwed tag step).fixed = s.fixed := by
  unfold State.retryOwed
  split <;> simp only [↓fixed_upd, ↓fixed_ite, fixed_foldl, ↓ite_self, implies_true, ↓State.ownSeg_fixed]

theorem State.takeClose_fixed (s : State) (m : CloseNotice) : (s.takeClose m).fixed = s.fixed := by
  unfold State.takeClose
  split <;> simp only [↓fixed_upd, ↓fixed_ite, fixed_foldl, ↓ite_self, implies_true, ↓State.foldSegment_fixed,
      ↓State.markStep_fixed, ↓State.tryComplete_fixed, ↓State.retryOwed_fixed]

theorem State.closeBucket_fixed (s : State) (h : HeadRec) (excl backups : List Nat) : (s.closeBucket h excl backups).fixed =
    s.fixed := by
  unfold State.closeBucket
  simp only [↓fixed_upd, ↓fixed_ite, ↓ite_self, ↓State.modTr_fixed, ↓State.emit_fixed, ↓State.raiseTr_fixed,
      ↓State.takeClose_fixed]

theorem State.settle_fixed (s : State) (h : HeadRec) : (s.settle h).fixed = s.fixed := by
  unfold State.settle
  simp only [↓fixed_ite, ↓ite_self, ↓State.closeBucket_fixed]

theorem State.graceExpire_fixed (s : State) (t : Nat) (step : Word) : (s.graceExpire t step).fixed = s.fixed := by
  unfold State.graceExpire
  split <;> simp only [↓fixed_upd, ↓fixed_ite, ↓ite_self, ↓State.raiseTr_fixed, ↓State.settle_fixed]

theorem State.headNotice_fixed (s : State) (m : MemberNotice) : (s.headNotice m).fixed = s.fixed := by
  unfold State.headNotice
  simp only [↓fixed_upd, ↓fixed_ite, ↓ite_self, ↓State.raiseTr_fixed, ↓State.foldNotice_fixed, ↓State.closeBucket_fixed,
      ↓State.settle_fixed, ↓State.graceExpire_fixed]

theorem State.stale_fixed (s : State) (t rank step : Nat) : (s.stale t rank step).fixed = s.fixed := by
  unfold State.stale
  simp only [↓State.raiseTr_fixed]

theorem State.noticeAt_fixed (s : State) (m : MemberNotice) : (s.noticeAt m).fixed = s.fixed := by
  unfold State.noticeAt
  simp only [↓fixed_ite, ↓ite_self, ↓State.raiseTr_fixed, ↓State.foldNotice_fixed, ↓State.headNotice_fixed, ↓State.stale_fixed]

theorem State.compareCopies_fixed (s : State) (m : SegmentMsg) : (s.compareCopies m).fixed = s.fixed := by
  unfold State.compareCopies
  split <;> simp only [↓fixed_ite, ↓ite_self, ↓State.raiseTr_fixed, ↓State.almanac_fixed]

theorem State.stage_fixed (s : State) (m : SegmentMsg) : (s.stage m).fixed = s.fixed := by
  unfold State.stage
  simp only [↓fixed_upd, ↓fixed_ite, ↓ite_self, ↓State.foldSegment_fixed, ↓State.retryOwed_fixed, ↓State.compareCopies_fixed]

theorem State.segmentAt_fixed (s : State) (m : SegmentMsg) : (s.segmentAt m).fixed = s.fixed := by
  unfold State.segmentAt
  simp only [↓fixed_ite, ↓State.modTr_fixed, ↓State.foldSegment_fixed, ↓State.stale_fixed, ↓State.stage_fixed]
  (repeat' split) <;> (try simp only [↓fixed_ite, ↓State.modTr_fixed, ↓State.foldSegment_fixed, ↓State.stale_fixed,
      ↓State.stage_fixed])

theorem State.closeNoticeAt_fixed (s : State) (m : CloseNotice) : (s.closeNoticeAt m).fixed = s.fixed := by
  unfold State.closeNoticeAt
  simp only [↓fixed_ite, ↓ite_self, ↓State.takeClose_fixed, ↓State.stale_fixed]

theorem State.writeBackAt_fixed (s : State) (m : SegmentMsg) : (s.writeBackAt m).fixed = s.fixed := by
  unfold State.writeBackAt
  simp only [↓fixed_ite, ↓ite_self, ↓State.modTr_fixed, ↓State.retain_fixed, ↓State.stale_fixed]

theorem State.sentElems_fixed (s : State) (t : Nat) (cur : List (Half × Bool)) : (s.sentElems t cur).2.fixed = s.fixed := by
  unfold State.sentElems
  simp only [↓fixed_upd, State.fresh]
  (repeat' split) <;> (try simp only [↓fixed_upd, State.fresh])

theorem State.sendSeg_fixed (s : State) (t : Nat) (e : TagEntry) (es : List (Half × Bool)) (i : Nat) : (s.sendSeg t e es i).fixed
    = s.fixed := by
  unfold State.sendSeg
  simp only [↓fixed_ite, ↓ite_self, ↓State.modTr_fixed, ↓State.emit_fixed, ↓State.stage_fixed]

theorem State.startBucket_fixed (s : State) (x t : Nat) : (s.startBucket x t).fixed = s.fixed := by
  unfold State.startBucket
  split <;> simp only [↓fixed_ite, fixed_foldl, ↓ite_self, implies_true, ↓State.modTr_fixed, ↓State.emit_fixed,
      ↓State.raiseTr_fixed, ↓State.bucketSeen_fixed, ↓State.markStep_fixed, ↓State.headNotice_fixed, ↓State.sentElems_fixed,
      ↓State.sendSeg_fixed]

theorem State.trBegin_fixed (s : State) (n : Nat) (step : Word) : (s.trBegin n step).fixed = s.fixed := by rfl

theorem State.trAbort_fixed (s : State) (step : Word) : (s.trAbort step).fixed = s.fixed := by rfl

theorem State.trDone_fixed (s : State) (step : Word) : (s.trDone step).fixed = s.fixed := by rfl

theorem State.trEpoch_fixed (s : State) (epoch : Word) : (s.trEpoch epoch).fixed = s.fixed := by
  unfold State.trEpoch
  simp only [↓fixed_upd, ↓fixed_ite, ↓ite_self, ↓State.almanac_fixed, ↓State.foldDrop_fixed]

theorem State.trFresh_fixed (s : State) : s.trFresh.fixed = s.fixed := by rfl

theorem State.heartbeatAt_fixed (s : State) (src : BitVec 13) (rank : Half) (epoch step : Word) (_sent : DWord) : (s.heartbeatAt
    src rank epoch step _sent).fixed = s.fixed := by
  unfold State.heartbeatAt
  simp only [↓fixed_upd, ↓fixed_ite, ↓ite_self, ↓State.stale_fixed]

theorem State.startWatch_fixed (s : State) : s.startWatch.fixed = s.fixed := by rfl

theorem State.modSrec_fixed (s : State) (n : Nat) (f : StepRec → StepRec) : (s.modSrec n f).fixed = s.fixed := by rfl

theorem State.modUpd_fixed (s : State) (n : Nat) (f : StepRec → StepRec) : (s.modUpd n f).fixed = s.fixed := by rfl

theorem State.prunePorts_fixed (s : State) (on : Bool) : (s.prunePorts on).fixed = s.fixed := by
  unfold State.prunePorts
  simp only [fixed_foldl, implies_true, ↓State.modPort_fixed]

theorem State.stepBoundary_fixed (s : State) : s.stepBoundary.fixed = s.fixed := by
  unfold State.stepBoundary
  simp only [↓fixed_upd, ↓fixed_ite, ↓ite_self, ↓State.prunePorts_fixed]

theorem State.writeSrec_fixed (s : State) (n : Nat) : (s.writeSrec n).fixed = s.fixed := by
  unfold State.writeSrec
  simp only [↓State.almanac_fixed, ↓State.owrite_fixed]

theorem State.setPhase_fixed (s : State) (n ph : Nat) : (s.setPhase n ph).fixed = s.fixed := by
  unfold State.setPhase
  simp only [↓State.modSrec_fixed, ↓State.writeSrec_fixed]

theorem State.writeHeaders_fixed (s : State) (cs : List (Nat × Nat × Nat)) (p : Policy) (r : StepRec) : (s.writeHeaders cs p
    r).fixed = s.fixed := by
  unfold State.writeHeaders
  simp only [fixed_foldl, implies_true, ↓State.dmemWindow_fixed]

theorem State.stopCores_fixed (s : State) (n : Nat) : (s.stopCores n).fixed = s.fixed := by
  unfold State.stopCores
  simp only [↓State.modCtx_fixed, ↓State.eachCore_fixed]

theorem State.bwdEnd_fixed (s : State) (n : Nat) : (s.bwdEnd n).fixed = s.fixed := by
  unfold State.bwdEnd
  split <;> simp only [↓fixed_ite, ↓ite_self, ↓State.emit_fixed, ↓State.modSrec_fixed, ↓State.setPhase_fixed]

theorem State.fwdBeacon_fixed (s : State) (n : Nat) : (s.fwdBeacon n).fixed = s.fixed := by
  unfold State.fwdBeacon
  simp only [↓fixed_ite, ↓ite_self, ↓State.modOrr_fixed, ↓State.setPhase_fixed]

theorem State.finishStep_fixed (s : State) (n j : Nat) (status : Byte) : (s.finishStep n j status).fixed = s.fixed := by rfl

theorem State.repeatStep_fixed (s : State) (n j : Nat) : (s.repeatStep n j).fixed = s.fixed := by rfl

theorem State.stopCtx_fixed (s : State) (n : Nat) : (s.stopCtx n).fixed = s.fixed := by
  unfold State.stopCtx
  simp only [↓State.modCtx_fixed, ↓State.almCtx_fixed, ↓State.modSrec_fixed, ↓State.writeSrec_fixed]

theorem State.abortStep_fixed (s : State) (n : Nat) (bits : Byte) : (s.abortStep n bits).fixed = s.fixed := by
  unfold State.abortStep
  split <;> simp only [↓fixed_ite, ↓ite_self, ↓State.modCtx_fixed, ↓State.trAbort_fixed, ↓State.modSrec_fixed,
      ↓State.stepBoundary_fixed, ↓State.setPhase_fixed, ↓State.stopCores_fixed, ↓State.finishStep_fixed, ↓State.repeatStep_fixed,
      ↓State.stopCtx_fixed]

theorem State.decide__fixed (s : State) (n : Nat) (d : DecisionMsg) : (State.decide_ s n d).fixed = s.fixed := by
  unfold State.decide_
  split <;> simp only [↓fixed_ite, ↓ite_self, ↓State.modSrec_fixed, ↓State.setPhase_fixed, ↓State.abortStep_fixed]

theorem State.decisionAt_fixed (s : State) (ctx : BitVec 4) (d : DecisionMsg) : (s.decisionAt ctx d).fixed = s.fixed := by
  unfold State.decisionAt
  simp only [↓fixed_ite, ↓ite_self, ↓State.emit_fixed, ↓State.decide__fixed]

theorem State.nodeVote_fixed (s : State) (n : Nat) (v : VoteWord) : (s.nodeVote n v).fixed = s.fixed := by
  unfold State.nodeVote
  simp only [↓fixed_ite, ↓State.emit_fixed, ↓State.modSrec_fixed, ↓State.decide__fixed]
  (repeat' split) <;> (try simp only [↓fixed_ite, ↓State.emit_fixed, ↓State.modSrec_fixed, ↓State.decide__fixed])

theorem State.voteWordAt_fixed (s : State) (ctx : BitVec 4) (v : VoteWord) : (s.voteWordAt ctx v).fixed = s.fixed := by
  unfold State.voteWordAt
  simp only [↓fixed_ite, ↓ite_self, ↓State.nodeVote_fixed]

theorem State.tallyResult_fixed (s : State) (n : Nat) : (s.tallyResult n).fixed = s.fixed := by
  unfold State.tallyResult
  simp only [↓fixed_ite, ↓ite_self, ↓State.modSrec_fixed, ↓State.nodeVote_fixed]

theorem State.earlyVote_fixed (s : State) (n : Nat) : (s.earlyVote n).fixed = s.fixed := by
  unfold State.earlyVote
  simp only [↓fixed_ite, ↓ite_self, ↓State.modSrec_fixed, ↓State.nodeVote_fixed]

theorem State.decisionAsked_fixed (s : State) (ctx : BitVec 4) (step epoch : Word) (rank : Half) : (s.decisionAsked ctx step
    epoch rank).fixed = s.fixed := by
  unfold State.decisionAsked
  simp only [↓fixed_ite, ↓ite_self, ↓State.emit_fixed]

theorem State.writeUpd_fixed (s : State) (n : Nat) : (s.writeUpd n).fixed = s.fixed := by
  unfold State.writeUpd
  split <;> simp only [↓State.almanac_fixed, ↓State.writeSrec_fixed]

theorem State.stepDone_fixed (s : State) (n : Nat) : (s.stepDone n).fixed = s.fixed := by
  unfold State.stepDone
  simp only [↓State.modCtx_fixed, ↓State.trDone_fixed, ↓State.modSrec_fixed, ↓State.stepBoundary_fixed, ↓State.writeSrec_fixed,
      ↓State.setPhase_fixed, ↓State.finishStep_fixed, ↓State.writeUpd_fixed]
  (repeat' split) <;> (try simp only [↓State.modCtx_fixed, ↓State.trDone_fixed, ↓State.modSrec_fixed, ↓State.stepBoundary_fixed,
      ↓State.writeSrec_fixed, ↓State.setPhase_fixed, ↓State.finishStep_fixed, ↓State.writeUpd_fixed])

theorem State.nodeAck_fixed (s : State) (n : Nat) (rank : Half) : (s.nodeAck n rank).fixed = s.fixed := by
  unfold State.nodeAck
  simp only [↓fixed_ite, ↓ite_self, ↓State.emit_fixed, ↓State.modUpd_fixed, ↓State.stepDone_fixed]

theorem State.commitAckAt_fixed (s : State) (ctx : BitVec 4) (step epoch : Word) (rank : Half) : (s.commitAckAt ctx step epoch
    rank).fixed = s.fixed := by
  unfold State.commitAckAt
  simp only [↓fixed_ite, ↓ite_self, ↓State.nodeAck_fixed]

theorem State.doneAt_fixed (s : State) (ctx : BitVec 4) (step epoch : Word) : (s.doneAt ctx step epoch).fixed = s.fixed := by
  unfold State.doneAt
  simp only [↓fixed_ite, ↓ite_self, ↓State.emit_fixed, ↓State.stepDone_fixed]

theorem State.shardRestore_fixed (s : State) (n : Nat) : (s.shardRestore n).fixed = s.fixed := by
  unfold State.shardRestore
  simp only [↓fixed_upd, ↓fixed_ite, ↓ite_self, ↓State.modCtx_fixed, ↓State.parityAll_fixed, ↓State.modUpd_fixed,
      ↓State.writeUpd_fixed]

theorem State.propose_fixed (s : State) (m : Membership) : (s.propose m).fixed = s.fixed := by
  unfold State.propose
  simp only [↓fixed_upd, fixed_foldl, implies_true, ↓State.emit_fixed]

theorem State.revote_fixed (s : State) (n : Nat) (epoch : Word) : (s.revote n epoch).fixed = s.fixed := by
  unfold State.revote
  simp only [↓fixed_ite, ↓ite_self, ↓State.modSrec_fixed, ↓State.nodeVote_fixed]

theorem State.reack_fixed (s : State) (n : Nat) (epoch : Word) : (s.reack n epoch).fixed = s.fixed := by
  unfold State.reack
  simp only [↓fixed_ite, ↓ite_self, ↓State.modUpd_fixed, ↓State.nodeAck_fixed]

theorem State.writeVoteTime_fixed (s : State) (n : Nat) (m : Membership) : (s.writeVoteTime n m).fixed = s.fixed := by
  unfold State.writeVoteTime
  simp only [↓fixed_ite, ↓ite_self, ↓State.almanac_fixed]

theorem State.rootLost_fixed (s : State) (n : Nat) (epoch : Word) : (s.rootLost n epoch).fixed = s.fixed := by
  unfold State.rootLost
  simp only [↓fixed_ite, ↓ite_self, ↓State.modSrec_fixed, ↓State.earlyVote_fixed, ↓State.revote_fixed, ↓State.reack_fixed]

theorem State.installEpoch_fixed (s : State) (first : Word) : (s.installEpoch first).fixed = s.fixed := by
  unfold State.installEpoch
  (repeat' split) <;> simp only [↓fixed_upd, ↓fixed_ite, ↓ite_self, ↓State.modCtx_fixed, ↓State.setEpoch_fixed,
      ↓State.trEpoch_fixed, ↓State.trFresh_fixed, ↓State.startWatch_fixed, ↓State.writeVoteTime_fixed, ↓State.rootLost_fixed]

theorem State.commitEpoch_fixed (s : State) : s.commitEpoch.fixed = s.fixed := by
  unfold State.commitEpoch
  split <;> simp only [↓fixed_ite, ↓ite_self, ↓State.emit_fixed, ↓State.installEpoch_fixed]

theorem State.installDue_fixed (s : State) : s.installDue.fixed = s.fixed := by
  unfold State.installDue
  split <;> simp only [↓fixed_ite, ↓ite_self, ↓State.installEpoch_fixed]

theorem State.memberFailed_fixed (s : State) (addr : BitVec 13) : (s.memberFailed addr).fixed = s.fixed := by
  unfold State.memberFailed
  simp only [↓fixed_upd, ↓State.nodeVote_fixed, ↓State.propose_fixed]
  (repeat' split) <;> (try simp only [↓fixed_upd, ↓State.nodeVote_fixed, ↓State.propose_fixed])

theorem State.takeSequencing_fixed (s : State) : s.takeSequencing.fixed = s.fixed := by
  unfold State.takeSequencing
  (repeat' split) <;> simp only [↓fixed_upd, ↓fixed_ite, ↓ite_self, ↓State.propose_fixed]

theorem State.loseLodestar_fixed (s : State) : s.loseLodestar.fixed = s.fixed := by rfl

theorem State.reportFailed_fixed (s : State) (addr : BitVec 13) (epoch : Word) (rank cause : Nat) : (s.reportFailed addr epoch
    rank cause).fixed = s.fixed := by
  unfold State.reportFailed
  simp only [↓fixed_ite, ↓ite_self, ↓State.emit_fixed, ↓State.memberFailed_fixed, ↓State.loseLodestar_fixed]

theorem State.hbExpire_fixed (s : State) (rank : Nat) : (s.hbExpire rank).fixed = s.fixed := by
  unfold State.hbExpire
  simp only [↓fixed_upd, ↓fixed_ite, ↓ite_self, ↓State.raiseTr_fixed, ↓State.reportFailed_fixed]

theorem State.loneExpire_fixed (s : State) (addr : BitVec 13) : (s.loneExpire addr).fixed = s.fixed := by
  unfold State.loneExpire
  split <;> simp only [↓fixed_upd, ↓fixed_ite, ↓ite_self, ↓State.raiseTr_fixed, ↓State.reportFailed_fixed]

theorem State.failureAt_fixed (s : State) (addr : BitVec 13) (epoch : Word) (_rank : Half) (_cause : Byte) : (s.failureAt addr
    epoch _rank _cause).fixed = s.fixed := by
  unfold State.failureAt
  simp only [↓fixed_ite, ↓ite_self, ↓State.memberFailed_fixed]

theorem State.beginSwitch_fixed (s : State) (m : Nat) : (s.beginSwitch m).fixed = s.fixed := by
  unfold State.beginSwitch
  simp only [↓fixed_ite, fixed_foldl, ↓ite_self, implies_true, ↓State.modCtx_fixed, ↓State.ccPause_fixed]

theorem State.preempt_fixed (s : State) : s.preempt.fixed = s.fixed := by
  unfold State.preempt
  simp only [↓fixed_ite, fixed_foldl, ↓ite_self, implies_true, ↓State.beginSwitch_fixed]

theorem State.gddrFill_fixed (s : State) (lo hi : Nat) (src : List FreeSrc) : (s.gddrFill lo hi src).fixed = s.fixed := by rfl

theorem State.fillSave_fixed (s : State) (m : Nat) (src : Nat → List FreeSrc) : (s.fillSave m src).fixed = s.fixed := by
  unfold State.fillSave
  simp only
  split
  · refine fixed_foldl _ _ _ (fun u a => ?_)
    split
    · exact State.modBed_fixed ..
    · rfl
  · exact State.gddrFill_fixed ..

theorem State.switchOut_fixed (s : State) (m : Nat) : (s.switchOut m).fixed = s.fixed := by
  unfold State.switchOut
  simp only [↓fixed_upd, ↓fixed_ite, fixed_foldl, ↓ite_self, implies_true, State.fresh, ↓State.modCore_fixed,
      ↓State.modCtx_fixed, ↓State.almCtx_fixed, ↓State.fillSave_fixed]

theorem State.activatePace_fixed (s : State) (n : Nat) : (s.activatePace n).fixed = s.fixed := by
  unfold State.activatePace
  simp only [↓fixed_ite, ↓ite_self, ↓State.modCtx_fixed]

theorem State.switchIn_fixed (s : State) (n : Nat) : (s.switchIn n).fixed = s.fixed := by
  unfold State.switchIn
  simp only [State.almCtx_fixed, State.activatePace_fixed, State.modOrr_fixed, State.modCtx_fixed]
  refine fixed_foldl _ _ _ (fun u a => ?_)
  simp only [State.fresh]
  split <;> exact State.modCore_fixed ..

theorem State.schedule_fixed (s : State) (n : Nat) : (s.schedule n).fixed = s.fixed := by
  unfold State.schedule
  simp only [↓fixed_ite, fixed_foldl, ↓ite_self, implies_true, ↓State.eachCore_fixed, ↓State.beginSwitch_fixed,
      ↓State.switchOut_fixed, ↓State.switchIn_fixed]

theorem State.claim_fixed (s : State) (n : Nat) : (s.claim n).fixed = s.fixed := by
  unfold State.claim
  simp only [↓fixed_ite, ↓ite_self, ↓State.modCtx_fixed, ↓State.raise_fixed, ↓State.oseen_fixed]

theorem State.pollCtx_fixed (s : State) (n : Nat) : (s.pollCtx n).fixed = s.fixed := by
  unfold State.pollCtx
  simp only [↓fixed_ite, fixed_foldl, ↓ite_self, implies_true, ↓State.modCtx_fixed, ↓State.raise_fixed, ↓State.oseen_fixed,
      ↓State.owrite_fixed, ↓State.claim_fixed]

theorem State.modEntry_fixed (s : State) (n j : Nat) (f : Entry → Entry) : (s.modEntry n j f).fixed = s.fixed := by rfl

theorem State.startEntry_fixed (s : State) (n : Nat) (e : Entry) : (s.startEntry n e).fixed = s.fixed := by rfl

theorem State.markEntry_fixed (s : State) (n : Nat) (e : Entry) : (s.markEntry n e).fixed = s.fixed := by rfl

theorem State.startCores_fixed (s : State) (n : Nat) (e : Entry) : (s.startCores n e).fixed = s.fixed := by
  unfold State.startCores
  simp only [fixed_foldl, implies_true, ↓State.modCore_fixed, ↓State.ccStart_fixed]

theorem State.loadCore_fixed (s : State) (k : Nat) (e : Entry) (img : List Byte) : (s.loadCore k e img).1.fixed = s.fixed := by
  unfold State.loadCore
  (repeat' split) <;> simp only [↓State.modCc_fixed, ↓State.imemRefuse_fixed, ↓State.dmemWindow_fixed]

theorem State.loadAll_fixed (s : State) (cs : List (Nat × Nat × Nat)) (e : Entry) : (s.loadAll cs e).1.fixed = s.fixed := by
  unfold State.loadAll
  have h : ∀ (l : List (Nat × Nat × Nat)) (acc : State × Bool) (img : List Byte),
      (l.foldl (fun (acc : State × Bool) x =>
        ((acc.1.loadCore x.2.2 e img).1, acc.2 || (acc.1.loadCore x.2.2 e img).2)) acc).1.fixed = acc.1.fixed := by
    intro l
    induction l with
    | nil => intros; rfl
    | cons a r ih => intro acc img; exact (ih _ _).trans (State.loadCore_fixed ..)
  exact (h cs (_, false) _).trans (State.oseen_fixed ..)

theorem State.secAsk_fixed (s : State) (code ctx : Nat) (a0 len : Nat) : (s.secAsk code ctx a0 len).fixed = s.fixed := by
  unfold State.secAsk
  simp only [↓State.modSec_fixed, ↓State.owrite_fixed]

theorem State.loadEntry_fixed (s : State) (n : Nat) (e : Entry) : (s.loadEntry n e).fixed = s.fixed := by
  unfold State.loadEntry
  simp only [↓fixed_ite, ↓ite_self, ↓State.modCtx_fixed, ↓State.modEntry_fixed, ↓State.startEntry_fixed, ↓State.loadAll_fixed,
      ↓State.secAsk_fixed]

theorem State.beginStep_fixed (s : State) (n : Nat) (e : Entry) (p : Policy) : (s.beginStep n e p).fixed = s.fixed := by
  unfold State.beginStep
  simp only [↓fixed_upd, ↓fixed_ite, ↓ite_self, State.fresh, ↓State.modCtx_fixed, ↓State.modOrr_fixed, ↓State.eachCore_fixed,
      ↓State.trBegin_fixed, ↓State.modSrec_fixed, ↓State.writeSrec_fixed, ↓State.writeHeaders_fixed, ↓State.startEntry_fixed,
      ↓State.startCores_fixed]

theorem State.stepEntry_fixed (s : State) (n : Nat) (e : Entry) : (s.stepEntry n e).fixed = s.fixed := by
  unfold State.stepEntry
  simp only [↓fixed_ite, ↓State.oseen_fixed, ↓State.modSrec_fixed, ↓State.stopCtx_fixed, ↓State.modEntry_fixed,
      ↓State.beginStep_fixed]
  (repeat' split) <;> (try simp only [↓fixed_ite, ↓State.oseen_fixed, ↓State.modSrec_fixed, ↓State.stopCtx_fixed,
      ↓State.modEntry_fixed, ↓State.beginStep_fixed])

theorem State.entryFinished_fixed (s : State) (n : Nat) : (s.entryFinished n).fixed = s.fixed := by
  unfold State.entryFinished
  split <;> simp only [↓State.modCtx_fixed, ↓State.complete_fixed]

theorem State.periodEnd_fixed (s : State) (n : Nat) : (s.periodEnd n).fixed = s.fixed := by
  unfold State.periodEnd
  simp only [↓fixed_ite, ↓ite_self, ↓State.modCtx_fixed, ↓State.almanac_fixed]

theorem State.resetQueues_fixed (s : State) (n : Nat) : (s.resetQueues n).fixed = s.fixed := by
  unfold State.resetQueues
  refine (fixed_foldl _ _ _ (fun u a => fixed_foldl _ _ _ (fun v b => ?_))).trans ?_
  · split
    · split
      · split
        · exact State.modSe_fixed ..
        · rfl
      · rfl
    · rfl
  · simp only [↓fixed_upd, State.eachCore_fixed]

theorem State.deadlock_fixed (s : State) (n : Nat) (cyc : List (WNode × Nat × List WNode)) : (s.deadlock n cyc).fixed = s.fixed
    := by
  unfold State.deadlock
  simp only [↓fixed_ite, ↓ite_self, ↓State.modCtx_fixed, ↓State.almanac_fixed, ↓State.eachCore_fixed, ↓State.modSrec_fixed,
      ↓State.earlyVote_fixed, ↓State.resetQueues_fixed]

theorem State.deadlockCheck_fixed (s : State) (n : Nat) (since : DWord) : (s.deadlockCheck n since).fixed = s.fixed := by
  unfold State.deadlockCheck
  simp only [↓fixed_ite, ↓ite_self, ↓State.almanac_fixed, ↓State.deadlock_fixed]

theorem State.bindNext_fixed (s : State) : s.bindNext.fixed = s.fixed := by
  unfold State.bindNext
  split <;> simp only [↓fixed_ite, ↓ite_self, ↓State.bind_fixed, ↓State.startWatch_fixed]

theorem State.holdNotice_fixed (s : State) (v : Bool) : (s.holdNotice v).fixed = s.fixed := by rfl

theorem State.enterHold_fixed (s : State) : s.enterHold.fixed = s.fixed := by
  unfold State.enterHold
  simp only [fixed_foldl, implies_true, ↓State.modCtx_fixed, ↓State.modOrr_fixed, ↓State.raise_fixed, ↓State.almDriver_fixed,
      ↓State.holdNotice_fixed]

theorem State.leadTick_fixed (s : State) : s.leadTick.fixed = s.fixed := by
  unfold State.leadTick
  simp only [↓fixed_ite, ↓ite_self, ↓State.modOrr_fixed, ↓State.commitEpoch_fixed, ↓State.installDue_fixed,
      ↓State.takeSequencing_fixed, ↓State.bindNext_fixed, ↓State.enterHold_fixed]

theorem State.schedTick_fixed (s : State) (oc : Nat) : (s.schedTick oc).fixed = s.fixed := by
  unfold State.schedTick
  simp only [↓fixed_ite, fixed_foldl, ↓ite_self, implies_true, ↓State.setOc_fixed, ↓State.sramWritten_fixed,
      ↓State.schedule_fixed, ↓State.pollCtx_fixed, ↓State.deadlockCheck_fixed, ↓State.leadTick_fixed]

theorem State.ocCrash_fixed (s : State) (oc : Nat) : (s.ocCrash oc).fixed = s.fixed := by
  unfold State.ocCrash
  simp only [↓fixed_ite, ↓State.almOrr_fixed, ↓State.raise_fixed, ↓State.setOc_fixed, ↓ite_self]

theorem State.wdogExpire_fixed (s : State) (oc : Nat) : (s.wdogExpire oc).fixed = s.fixed := by
  unfold State.wdogExpire
  simp only [↓fixed_ite, ↓State.ocCrash_fixed, ↓ite_self]

theorem State.takeover_fixed (s : State) (oc : Nat) : (s.takeover oc).fixed = s.fixed := by
  unfold State.takeover
  split <;> simp only [↓fixed_ite, fixed_foldl, ↓ite_self, implies_true, ↓State.modCtx_fixed, ↓State.setOc_fixed,
      ↓State.modOrr_fixed, ↓State.raise_fixed, ↓State.almOrr_fixed]

end Sys2Proof.Machine
end

