-- ==== Sys2Proof/Laws/FixedIo.lean ====
section
/-! SUPPORT. What the operations of security, of the fabric, of firmware and of the admin ring leave alone: the part, site roles,
graft map, retirement record and command queue (`State.fixed`). -/

namespace Sys2Proof.Machine

theorem State.extendC_fixed (s : State) (n : Nat) (d : List Byte) : (s.extendC n d).fixed = s.fixed := by rfl

theorem State.setChan_fixed (s : State) (c1 : Bool) (v : SecChan) : (s.setChan c1 v).fixed = s.fixed := by rfl

theorem State.secDone_fixed (s : State) (c1 : Bool) (result seq : Nat) : (s.secDone c1 result seq).fixed = s.fixed := by rfl

theorem State.secSeen_fixed (s : State) (a n : Nat) : (s.secSeen a n).fixed = s.fixed := by
  unfold State.secSeen
  simp only [↓State.seenRun_fixed]

theorem State.secGo_fixed (s : State) (c1 : Bool) : (s.secGo c1).fixed = s.fixed := by
  unfold State.secGo
  simp only [↓fixed_ite, ↓ite_self, ↓State.raiseSec_fixed, ↓State.setChan_fixed, ↓State.secDone_fixed, ↓State.secSeen_fixed]

theorem State.secServe_fixed (s : State) (c1 : Bool) (code : Nat) (f : SecReq → State → State × Nat) (hf : ∀ (v0 : SecReq) (v1 :
    State), (f v0 v1).1.fixed = State.fixed v1) : (s.secServe c1 code f).fixed = s.fixed := by
  unfold State.secServe
  simp only [fixed_ite, State.secDone_fixed, hf, State.modSec_fixed, ite_self]

theorem State.sigFail_fixed (s : State) : s.sigFail.1.fixed = s.fixed := by
  unfold State.sigFail
  simp only [↓State.raiseSec_fixed]

theorem State.secReport_fixed (q : SecReq) (s : State) : (State.secReport q s).1.fixed = s.fixed := by
  unfold State.secReport
  (repeat' split) <;> simp only [↓fixed_ite, ↓ite_self, ↓State.setSeal_fixed, ↓State.writeNow_fixed, ↓State.secSeen_fixed]

theorem State.drawKey_fixed (s : State) (slot : Nat) : (s.drawKey slot).fixed = s.fixed := by rfl

theorem State.setRegion_fixed (s : State) (i : Nat) (g : XtsRegion) : (s.setRegion i g).fixed = s.fixed := by rfl

theorem State.sealAccept_fixed (s : State) (n : Nat) (b : List Byte) (rs : List (Nat × Nat)) : (s.sealAccept n b rs).fixed =
    s.fixed := by
  unfold State.sealAccept
  simp only [↓fixed_upd, fixed_foldl, implies_true, State.fresh, ↓State.setSeal_fixed, ↓State.extendC_fixed,
      ↓State.drawKey_fixed, ↓State.setRegion_fixed]

theorem State.sealCfg_fixed (q : SecReq) (s : State) : (State.sealCfg q s).1.fixed = s.fixed := by
  unfold State.sealCfg
  simp only [↓State.secSeen_fixed, ↓State.sealAccept_fixed]
  (repeat' split) <;> (try simp only [↓State.secSeen_fixed, ↓State.sealAccept_fixed])

theorem State.keyDeliver_fixed (q : SecReq) (s : State) : (State.keyDeliver q s).1.fixed = s.fixed := by
  unfold State.keyDeliver
  simp only [↓State.setSeal_fixed, ↓State.raiseSec_fixed, ↓State.secSeen_fixed]
  (repeat' split) <;> (try simp only [↓State.setSeal_fixed, ↓State.raiseSec_fixed, ↓State.secSeen_fixed])

theorem State.importChunks_fixed (s : State) (n a0 a1 : Nat) (ck mid aad : List Byte) (x0 : Nat) (x1 : Nat) (x2 : Nat) :
    (s.importChunks n a0 a1 ck mid aad x0 x1 x2).1.fixed = s.fixed := by
  induction x0 generalizing s x1 x2 with
  | zero => rfl
  | succ f ih =>
    unfold State.importChunks
    simp only
    split
    · rw [ih]; exact (State.writeNow_fixed ..).trans (State.secSeen_fixed ..)
    · exact (State.modSec_fixed ..).trans ((State.writeNow_fixed ..).trans (State.secSeen_fixed ..))

theorem State.secImport_fixed (q : SecReq) (s : State) : (State.secImport q s).1.fixed = s.fixed := by
  unfold State.secImport
  simp only [↓State.raiseSec_fixed, ↓State.secSeen_fixed, ↓State.importChunks_fixed]
  (repeat' split) <;> (try simp only [↓State.raiseSec_fixed, ↓State.secSeen_fixed, ↓State.importChunks_fixed])

theorem State.exportChunks_fixed (s : State) (n a0 a1 : Nat) (key mid aad : List Byte) (x0 : Nat) (x1 : Nat) (x2 : Nat) :
    (s.exportChunks n a0 a1 key mid aad x0 x1 x2).fixed = s.fixed := by
  induction x0 generalizing s x1 x2 with
  | zero => rfl
  | succ f ih =>
    unfold State.exportChunks
    simp only
    rw [ih]; exact (State.writeNow_fixed ..).trans (State.seenRun_fixed ..)

theorem State.secExport_fixed (q : SecReq) (s : State) : (State.secExport q s).1.fixed = s.fixed := by
  unfold State.secExport
  simp only [↓fixed_upd, State.fresh, ↓State.writeNow_fixed, ↓State.secSeen_fixed, ↓State.sigFail_fixed,
      ↓State.exportChunks_fixed]
  (repeat' split) <;> (try simp only [↓fixed_upd, State.fresh, ↓State.writeNow_fixed, ↓State.secSeen_fixed, ↓State.sigFail_fixed,
      ↓State.exportChunks_fixed])

theorem State.ownerSet_fixed (q : SecReq) (s : State) : (State.ownerSet q s).1.fixed = s.fixed := by
  unfold State.ownerSet
  simp only [↓State.modSec_fixed, ↓State.raiseSec_fixed, ↓State.secSeen_fixed, ↓State.sigFail_fixed]
  (repeat' split) <;> (try simp only [↓State.modSec_fixed, ↓State.raiseSec_fixed, ↓State.secSeen_fixed, ↓State.sigFail_fixed])

theorem State.peerPolicy_fixed (q : SecReq) (s : State) : (State.peerPolicy q s).1.fixed = s.fixed := by
  unfold State.peerPolicy
  simp only [↓State.modSec_fixed, ↓State.secSeen_fixed, ↓State.sigFail_fixed]
  (repeat' split) <;> (try simp only [↓State.modSec_fixed, ↓State.secSeen_fixed, ↓State.sigFail_fixed])

theorem State.extendReq_fixed (q : SecReq) (s : State) : (State.extendReq q s).1.fixed = s.fixed := by
  unfold State.extendReq
  split <;> simp only [↓State.modSec_fixed, ↓State.secSeen_fixed]

theorem State.svnCommit_fixed (q : SecReq) (s : State) : (State.svnCommit q s).1.fixed = s.fixed := by
  unfold State.svnCommit
  (repeat' split) <;> simp only [↓State.modSec_fixed]

theorem State.linkAttest_fixed (q : SecReq) (s : State) : (State.linkAttest q s).1.fixed = s.fixed := by
  unfold State.linkAttest
  simp only [↓State.writeNow_fixed, ↓State.secSeen_fixed, ↓State.sigFail_fixed]
  (repeat' split) <;> (try simp only [↓State.writeNow_fixed, ↓State.secSeen_fixed, ↓State.sigFail_fixed])

theorem State.codeMeasure_fixed (q : SecReq) (s : State) : (State.codeMeasure q s).1.fixed = s.fixed := by
  unfold State.codeMeasure
  split <;> simp only [↓State.extendC_fixed, ↓State.secSeen_fixed]

theorem State.zeroBeds_fixed (s : State) (ls : List Nat) : (s.zeroBeds ls).fixed = s.fixed := by
  unfold State.zeroBeds
  simp only [fixed_ite, State.parityAll_fixed, ite_self]
  refine fixed_foldl _ _ _ (fun u a => ?_)
  split
  · exact State.modSite_fixed ..
  · rfl

theorem State.eraseCtx_fixed (s : State) (n : Nat) : (s.eraseCtx n).fixed = s.fixed := by
  unfold State.eraseCtx
  simp only [↓fixed_upd, ↓State.setSeal_fixed, ↓State.eachCore_fixed, ↓State.zeroBeds_fixed]

theorem State.eraseReq_fixed (q : SecReq) (s : State) : (State.eraseReq q s).1.fixed = s.fixed := by
  unfold State.eraseReq
  (repeat' split) <;> simp only [↓State.eraseCtx_fixed]

theorem State.portDown_fixed (s : State) (p : Nat) : (s.portDown p).fixed = s.fixed := by
  unfold State.portDown
  simp only [↓State.modPort_fixed, ↓State.raiseFab_fixed]

theorem State.sendFlit_fixed (s : State) (p : Nat) (t : TxFlit) : (s.sendFlit p t).fixed = s.fixed := by
  unfold State.sendFlit
  simp only [↓fixed_ite, ↓ite_self, ↓State.modPort_fixed, ↓State.emit_fixed]

theorem State.pump_fixed  (x0 : Nat) (x1 : Nat) (x2 : State) : (State.pump x0 x1 x2).fixed = x2.fixed := by
  induction x0 generalizing x1 x2 with
  | zero => rfl
  | succ f ih =>
    unfold State.pump
    simp only
    split
    · rfl
    · split
      · rfl
      · rw [ih]; simp only [State.sendFlit_fixed, State.modPort_fixed]

theorem State.putPacket_fixed (s : State) (p : Nat) (cls : BitVec 2) (vc : Bool) (bs : List Byte) : (s.putPacket p cls vc
    bs).fixed = s.fixed := by
  unfold State.putPacket
  simp only [↓State.modPort_fixed, ↓State.pump_fixed]

theorem State.sendControl_fixed (s : State) (p : Nat) (o : Out) : (s.sendControl p o).fixed = s.fixed := by
  unfold State.sendControl
  simp only [↓fixed_upd, State.fresh, ↓State.modPort_fixed, ↓State.emit_fixed, ↓State.pump_fixed]

theorem State.deliver_fixed (s : State) (x p : Nat) (cls : BitVec 2) (bs : List Byte) : (s.deliver x p cls bs).fixed = s.fixed :=
    by
  unfold State.deliver
  simp only [↓fixed_upd, ↓fixed_ite, ↓ite_self, ↓State.emit_fixed, ↓State.raiseFab_fixed]

theorem State.routeFrom_fixed (s : State) (x p : Nat) (since : DWord) (cls : BitVec 2) (vc : Bool) (bs : List Byte) :
    (s.routeFrom x p since cls vc bs).fixed = s.fixed := by
  unfold State.routeFrom
  simp only [↓fixed_upd, ↓State.putPacket_fixed, ↓State.deliver_fixed]
  (repeat' split) <;> (try simp only [↓fixed_upd, ↓State.putPacket_fixed, ↓State.deliver_fixed])

theorem State.route_fixed (s : State) (x p : Nat) (cls : BitVec 2) (vc : Bool) (bs : List Byte) : (s.route x p cls vc bs).fixed =
    s.fixed := by
  unfold State.route
  simp only [↓State.routeFrom_fixed]

theorem State.retryPackets_fixed (s : State) : s.retryPackets.fixed = s.fixed := by
  unfold State.retryPackets
  simp only [↓fixed_upd, fixed_foldl, implies_true, ↓State.routeFrom_fixed]

theorem State.ackUpTo_fixed (s : State) (p : Nat) (ack : Half) : (s.ackUpTo p ack).fixed = s.fixed := by
  unfold State.ackUpTo
  simp only [↓fixed_ite, ↓ite_self, ↓State.modPort_fixed]

theorem State.takeCredit_fixed (s : State) (p : Nat) (f : List Byte) : (s.takeCredit p f).fixed = s.fixed := by
  unfold State.takeCredit
  simp only [↓fixed_ite, ↓ite_self, ↓State.modPort_fixed]

theorem State.askResend_fixed (s : State) (p : Nat) : (s.askResend p).fixed = s.fixed := by
  unfold State.askResend
  simp only [↓fixed_ite, ↓ite_self, ↓State.modPort_fixed, ↓State.raiseFab_fixed, ↓State.sendControl_fixed]

theorem State.takePackets_fixed  (x0 : Nat) (x1 : Nat) (x2 : BitVec 2) (x3 : Bool) (x4 : State) : (State.takePackets x0 x1 x2 x3
    x4).fixed = x4.fixed := by
  induction x0 generalizing x4 with
  | zero => rfl
  | succ f ih =>
    unfold State.takePackets
    simp only
    split
    · rfl
    · rw [ih]; simp only [State.route_fixed, State.modPort_fixed]

theorem State.payload_fixed (s : State) (p : Nat) (f data : List Byte) : (s.payload p f data).fixed = s.fixed := by
  unfold State.payload
  simp only [↓fixed_ite, ↓ite_self, ↓State.modPort_fixed, ↓State.emit_fixed, ↓State.takePackets_fixed]

theorem State.frame_fixed (s : State) (p : Nat) : (s.frame p).fixed = s.fixed := by
  unfold State.frame
  simp only [fixed_foldl, implies_true, ↓State.modPort_fixed, ↓State.raiseFab_fixed, ↓State.portDown_fixed, ↓State.payload_fixed]
  (repeat' split) <;> (try simp only [fixed_foldl, implies_true, ↓State.modPort_fixed, ↓State.raiseFab_fixed,
      ↓State.portDown_fixed, ↓State.payload_fixed])

theorem State.accept_fixed (s : State) (p : Nat) (f : List Byte) : (s.accept p f).fixed = s.fixed := by
  unfold State.accept
  simp only [↓fixed_ite, ↓ite_self, ↓State.modPort_fixed, ↓State.raiseFab_fixed, ↓State.portDown_fixed, ↓State.payload_fixed,
      ↓State.frame_fixed]

theorem State.flitIn_fixed (s : State) (p : Nat) (f : List Byte) : (s.flitIn p f).fixed = s.fixed := by
  unfold State.flitIn
  simp only [↓fixed_ite, ↓ite_self, ↓State.pump_fixed, ↓State.retryPackets_fixed, ↓State.ackUpTo_fixed, ↓State.takeCredit_fixed,
      ↓State.askResend_fixed, ↓State.accept_fixed]

theorem State.resendFrom_fixed (s : State) (p i : Nat) : (s.resendFrom p i).fixed = s.fixed := by
  unfold State.resendFrom
  simp only [↓fixed_ite, fixed_foldl, ↓ite_self, implies_true, ↓State.modPort_fixed, ↓State.modFab_fixed, ↓State.emit_fixed,
      ↓State.portDown_fixed]

theorem State.narrow_fixed (s : State) (p : Nat) (tx : Bool) (seq : Half) : (s.narrow p tx seq).fixed = s.fixed := by
  unfold State.narrow
  simp only [↓fixed_ite, ↓ite_self, ↓State.modPort_fixed, ↓State.raiseFab_fixed, ↓State.portDown_fixed]

theorem State.laneFail_fixed (s : State) (p : Nat) (tx : Bool) (lane : Nat) (seq : Half) : (s.laneFail p tx lane seq).fixed =
    s.fixed := by
  unfold State.laneFail
  simp only [↓fixed_ite, ↓ite_self, ↓State.modPort_fixed, ↓State.raiseFab_fixed, ↓State.sendControl_fixed, ↓State.narrow_fixed]

theorem State.attestBegin_fixed (s : State) (p : Nat) (i : LinkUpInfo) : (s.attestBegin p i).fixed = s.fixed := by
  unfold State.attestBegin
  simp only [↓fixed_upd, ↓fixed_ite, ↓ite_self, State.fresh, ↓State.modPort_fixed, ↓State.modSec_fixed, ↓State.emit_fixed]

theorem State.agreeKeys_fixed (s : State) (p : Nat) (i : LinkUpInfo) : (s.agreeKeys p i).2.fixed = s.fixed := by
  unfold State.agreeKeys
  split <;> simp only [↓fixed_upd, State.fresh, ↓State.emit_fixed]

theorem State.attestFail_fixed (s : State) (p : Nat) (i : LinkUpInfo) : (s.attestFail p i).fixed = s.fixed := by
  unfold State.attestFail
  simp only [↓fixed_ite, ↓ite_self, ↓State.raiseFab_fixed, ↓State.raiseSec_fixed]

theorem State.portUp_fixed (s : State) (p : Nat) (i : LinkUpInfo) (enc : Bool) (keys : List Byte) : (s.portUp p i enc keys).fixed
    = s.fixed := by
  unfold State.portUp
  simp only [↓State.modPort_fixed, ↓State.retryPackets_fixed]

theorem State.linkUp_fixed (s : State) (p : Nat) (i : LinkUpInfo) : (s.linkUp p i).fixed = s.fixed := by
  unfold State.linkUp
  simp only [↓fixed_ite, ↓ite_self, ↓State.modPort_fixed, ↓State.attestBegin_fixed, ↓State.agreeKeys_fixed,
      ↓State.attestFail_fixed, ↓State.portUp_fixed]

theorem State.fabSend_fixed (s : State) (req : Requester) (x : Nat) (b : List Byte) : (s.fabSend req x b).fixed = s.fixed := by
  unfold State.fabSend
  split <;> simp only [↓fixed_ite, fixed_foldl, ↓ite_self, implies_true, ↓State.modFab_fixed, ↓State.raiseFab_fixed,
      ↓State.met_fixed, ↓State.route_fixed]

theorem State.rxWrite_fixed (s : State) (port : Nat) (p : WritePacket) (notify : Bool) : (s.rxWrite port p notify).fixed =
    s.fixed := by
  unfold State.rxWrite
  simp only [↓State.setRxwin_fixed, ↓State.emit_fixed, ↓State.raiseFab_fixed, ↓State.writeNow_fixed]
  (repeat' split) <;> (try simp only [↓State.setRxwin_fixed, ↓State.emit_fixed, ↓State.raiseFab_fixed, ↓State.writeNow_fixed])

theorem State.refusalAt_fixed (s : State) (port : BitVec 4) (src : BitVec 13) (win : Byte) (_reason : Byte) (_off _tick : DWord)
    : (s.refusalAt port src win _reason _off _tick).fixed = s.fixed := by
  unfold State.refusalAt
  simp only [↓State.modFab_fixed, ↓State.raiseFab_fixed]

theorem State.setAddr_fixed (s : State) (n : Nat) : (s.setAddr n).fixed = s.fixed := by
  unfold State.setAddr
  simp only [↓fixed_upd, ↓fixed_ite, ↓ite_self]

theorem State.openWin15_fixed (s : State) : s.openWin15.fixed = s.fixed := by rfl

theorem State.modFabSys_fixed (s : State) (f : Fab → Fab) : (s.modFabSys f).fixed = s.fixed := by rfl

theorem State.elect_fixed (s : State) (port : BitVec 4) (lowest : BitVec 13) (generation : Word) : (s.elect port lowest
    generation).fixed = s.fixed := by
  unfold State.elect
  simp only [↓fixed_ite, ↓ite_self, ↓State.modFabSys_fixed]

theorem State.steer_fixed (s : State) (target : Int) : (s.steer target).fixed = s.fixed := by
  unfold State.steer
  simp only [↓fixed_ite, ↓ite_self, ↓State.modFabSys_fixed]

theorem State.timeMessage_fixed (s : State) (port : BitVec 4) (m : TimeMsg) : (s.timeMessage port m).fixed = s.fixed := by
  unfold State.timeMessage
  simp only [↓fixed_upd, ↓fixed_ite, ↓ite_self, ↓State.emit_fixed, ↓State.modFabSys_fixed, ↓State.steer_fixed]

theorem State.askDelays_fixed (s : State) : s.askDelays.fixed = s.fixed := by
  unfold State.askDelays
  simp only [fixed_foldl, implies_true, ↓State.modPort_fixed, ↓State.emit_fixed]

theorem State.delayAsked_fixed (s : State) (port : BitVec 4) (t1 : DWord) : (s.delayAsked port t1).fixed = s.fixed := by
  unfold State.delayAsked
  simp only [↓fixed_ite, ↓ite_self, ↓State.emit_fixed]

theorem State.delayAnswered_fixed (s : State) (port : BitVec 4) (t1 t2 t3 : DWord) : (s.delayAnswered port t1 t2 t3).fixed =
    s.fixed := by
  unfold State.delayAnswered
  simp only [↓fixed_ite, ↓ite_self, ↓State.modPort_fixed]

theorem State.proposal_fixed (s : State) (src : BitVec 13) (epoch : Word) (digest : List Byte) : (s.proposal src epoch
    digest).fixed = s.fixed := by
  unfold State.proposal
  simp only [↓fixed_ite, ↓State.emit_fixed, ↓State.oseen_fixed, ↓State.raiseCfg_fixed, ↓State.modFabSys_fixed]
  (repeat' split) <;> (try simp only [↓fixed_ite, ↓State.emit_fixed, ↓State.oseen_fixed, ↓State.raiseCfg_fixed,
      ↓State.modFabSys_fixed])

theorem State.proposalAnswer_fixed (s : State) (src : BitVec 13) (epoch : Word) (accept : Bool) : (s.proposalAnswer src epoch
    accept).fixed = s.fixed := by
  unfold State.proposalAnswer
  split <;> simp only [↓fixed_ite, ↓ite_self, ↓State.propose_fixed, ↓State.commitEpoch_fixed, ↓State.modFabSys_fixed]

theorem State.epochCommitAt_fixed (s : State) (src : BitVec 13) (epoch firstStep : Word) : (s.epochCommitAt src epoch
    firstStep).fixed = s.fixed := by
  unfold State.epochCommitAt
  split <;> simp only [↓fixed_ite, ↓ite_self, ↓State.installDue_fixed, ↓State.modFabSys_fixed]

theorem State.heldAt_fixed (s : State) (src : BitVec 13) (held : Bool) : (s.heldAt src held).fixed = s.fixed := by
  unfold State.heldAt
  simp only [↓fixed_ite, ↓ite_self, ↓State.emit_fixed, ↓State.modFabSys_fixed]

theorem State.loadBlk_fixed (s : State) (v : DWord) : (s.loadBlk v).fixed = s.fixed := by
  unfold State.loadBlk
  simp only [↓fixed_ite, ↓ite_self, ↓State.modOrr_fixed, ↓State.raise_fixed, ↓State.oseen_fixed]

theorem State.slotSeen_fixed (s : State) (slot : Bool) : (s.slotSeen slot).fixed = s.fixed := by
  unfold State.slotSeen
  simp only [↓State.oseen_fixed]

theorem State.loadFail_fixed (s : State) (step : Nat) : (s.loadFail step).fixed = s.fixed := by
  unfold State.loadFail
  simp only [↓fixed_ite, ↓ite_self, ↓State.modOrr_fixed, ↓State.raise_fixed, ↓State.raiseSec_fixed]

theorem State.sramLoad_fixed (s : State) (b : List Byte) : (s.sramLoad b).fixed = s.fixed := by rfl

theorem State.startImage_fixed (s : State) (img : Image) (fallback : Bool) : (s.startImage img fallback).fixed = s.fixed := by
  unfold State.startImage
  simp only [fixed_foldl, implies_true, ↓State.setOc_fixed, ↓State.modOrr_fixed, ↓State.modSec_fixed, ↓State.rewriteRoutes_fixed,
      ↓State.almFw_fixed, ↓State.openWin15_fixed, ↓State.sramLoad_fixed]

theorem State.acceptSlot_fixed (s : State) (slot : Bool) (img : Image) : (s.acceptSlot slot img).fixed = s.fixed := by
  unfold State.acceptSlot
  simp only [↓State.modOrr_fixed, ↓State.startImage_fixed]

theorem State.fwLoad_fixed (s : State) (slot : Bool) : (s.fwLoad slot).1.fixed = s.fixed := by
  unfold State.fwLoad
  simp only [↓State.slotSeen_fixed, ↓State.loadFail_fixed, ↓State.acceptSlot_fixed]
  (repeat' split) <;> (try simp only [↓State.slotSeen_fixed, ↓State.loadFail_fixed, ↓State.acceptSlot_fixed])

theorem State.writeHandoff_fixed (s : State) (out : Nat) : (s.writeHandoff out).fixed = s.fixed := by
  unfold State.writeHandoff
  simp only [↓State.modOrr_fixed, ↓State.fresh_fixed, ↓State.owrite_fixed, ↓State.gddrFill_fixed]

theorem State.fwUpdate_fixed (s : State) (slot : Bool) : (s.fwUpdate slot).1.fixed = s.fixed := by
  unfold State.fwUpdate
  simp only [↓State.modOrr_fixed, ↓State.raise_fixed, ↓State.slotSeen_fixed, ↓State.loadFail_fixed, ↓State.acceptSlot_fixed,
      ↓State.writeHandoff_fixed]
  (repeat' split) <;> (try simp only [↓State.modOrr_fixed, ↓State.raise_fixed, ↓State.slotSeen_fixed, ↓State.loadFail_fixed,
      ↓State.acceptSlot_fixed, ↓State.writeHandoff_fixed])

theorem State.writeLkg_fixed (s : State) (img : Image) : (s.writeLkg img).fixed = s.fixed := by
  unfold State.writeLkg
  have h : ∀ (u : State) (fl : Flash), fl.record = u.flash.record → State.fixed { u with flash := fl } = u.fixed :=
    fun u fl e => by simp only [State.fixed, e]
  split
  · exact State.raise_fixed ..
  · simp only [State.almFw_fixed, fixed_ite, State.modSec_fixed, State.modOrr_fixed, ite_self]
    exact h _ _ (by split <;> rfl)

theorem State.confirm_fixed (s : State) (req : Requester) : (s.confirm req).fixed = s.fixed := by
  unfold State.confirm
  split <;> simp only [↓fixed_ite, ↓ite_self, ↓State.modOrr_fixed, ↓State.almFw_fixed, ↓State.writeLkg_fixed]

theorem State.fallbackCtx_fixed (s : State) (n : Nat) : (s.fallbackCtx n).fixed = s.fixed := by
  unfold State.fallbackCtx
  simp only [↓fixed_ite, ↓ite_self, ↓State.modCtx_fixed, ↓State.eachCore_fixed, ↓State.trAbort_fixed, ↓State.modSrec_fixed,
      ↓State.setPhase_fixed, ↓State.finishStep_fixed]

theorem State.confirmExpire_fixed (s : State) : s.confirmExpire.fixed = s.fixed := by
  unfold State.confirmExpire
  simp only [fixed_foldl, implies_true, ↓State.modOrr_fixed, ↓State.raise_fixed, ↓State.almFw_fixed, ↓State.enterHold_fixed,
      ↓State.startImage_fixed, ↓State.fallbackCtx_fixed]
  (repeat' split) <;> (try simp only [fixed_foldl, implies_true, ↓State.modOrr_fixed, ↓State.raise_fixed, ↓State.almFw_fixed,
      ↓State.enterHold_fixed, ↓State.startImage_fixed, ↓State.fallbackCtx_fixed])

theorem State.flashRecord_fixed (s : State) (ok : Bool) (f : Flash → Flash) (hf : ∀ v, (f v).record = v.record) : (s.flashRecord
    ok f).fixed = s.fixed := by
  unfold State.flashRecord
  split
  · simp only [State.fixed, hf]
  · simp only [State.modOrr_fixed, State.almFw_fixed]

theorem State.rowRepairRec_fixed (s : State) (p row : Nat) (ok : Bool) : (s.rowRepairRec p row ok).fixed = s.fixed := by
  unfold State.rowRepairRec
  simp only [↓fixed_ite, ↓ite_self, implies_true, ↓State.rowRepair_fixed, ↓State.flashRecord_fixed]

theorem State.adminDone_fixed (s : State) (b : List Byte) (status : Nat) : (s.adminDone b status).fixed = s.fixed := by
  unfold State.adminDone
  simp only [↓State.modOrr_fixed, ↓State.owrite_fixed, ↓State.plic_fixed]

theorem State.adminSeen_fixed (s : State) : s.adminSeen.fixed = s.fixed := by
  unfold State.adminSeen
  simp only [↓State.seenRuns_fixed]

theorem State.adminRefuse_fixed (s : State) (b : List Byte) (bad : Bool) : (s.adminRefuse b bad).fixed = s.fixed := by
  unfold State.adminRefuse
  simp only [↓fixed_ite, ↓ite_self, ↓State.raise_fixed, ↓State.adminDone_fixed]

theorem State.adminServe_fixed (s : State) (code : Nat) (resv : List Byte → Bool) (f : List Byte → State → State × Option Nat)
    (hf : ∀ (v0 : List Byte) (v1 : State), (f v0 v1).1.fixed = State.fixed v1) : (s.adminServe code resv f).fixed = s.fixed := by
  unfold State.adminServe
  split
  · rfl
  · split
    · exact (State.raise_fixed ..).trans (State.adminSeen_fixed ..)
    · split
      · exact State.adminSeen_fixed ..
      · simp only [fixed_ite, State.adminRefuse_fixed, State.adminSeen_fixed]
        split
        · rfl
        · split
          · rfl
          · split
            · rfl
            · split
              · rfl
              · split
                · exact (State.adminDone_fixed ..).trans ((hf _ _).trans (State.adminSeen_fixed ..))
                · exact (hf _ _).trans (State.adminSeen_fixed ..)

theorem State.createCtx_fixed (s : State) (n : Nat) (d : CtxDesc) : (s.createCtx n d).fixed = s.fixed := by
  unfold State.createCtx
  simp only [↓fixed_ite, fixed_foldl, ↓ite_self, implies_true, ↓State.setCtx_fixed, ↓State.setSeal_fixed, ↓State.modFab_fixed,
      ↓State.almCtx_fixed, ↓State.preempt_fixed]

theorem State.ctxCreate_fixed (b : List Byte) (s : State) : (State.ctxCreate b s).1.fixed = s.fixed := by
  unfold State.ctxCreate
  simp only [↓State.oseen_fixed, ↓State.createCtx_fixed]
  (repeat' split) <;> (try simp only [↓State.oseen_fixed, ↓State.createCtx_fixed])

theorem State.reportClaimed_fixed (s : State) (n : Nat) : (s.reportClaimed n).fixed = s.fixed := by
  unfold State.reportClaimed
  simp only [fixed_foldl, implies_true, ↓State.complete_fixed]

theorem State.unbind_fixed (s : State) (n : Nat) : (s.unbind n).fixed = s.fixed := by
  unfold State.unbind
  (repeat' split) <;> (first | rfl | (simp only [↓fixed_upd, ↓fixed_ite, fixed_foldl, ↓ite_self, implies_true,
      ↓State.modTr_fixed, ↓State.complete_fixed]; (repeat' split) <;> (try simp only [↓fixed_upd, ↓fixed_ite, fixed_foldl,
      ↓ite_self, implies_true, ↓State.modTr_fixed, ↓State.complete_fixed])))

theorem State.freeCtx_fixed (s : State) (n : Nat) : (s.freeCtx n).fixed = s.fixed := by
  unfold State.freeCtx
  simp only [↓State.setCtx_fixed, ↓State.setSeal_fixed, ↓State.eachCore_fixed, ↓State.almCtx_fixed, ↓State.fillSave_fixed,
      ↓State.reportClaimed_fixed, ↓State.unbind_fixed]

theorem State.destroyStep_fixed (s : State) (n : Nat) : (s.destroyStep n).1.fixed = s.fixed := by
  unfold State.destroyStep
  simp only [↓State.modCtx_fixed, ↓State.setSeal_fixed, ↓State.eachCore_fixed, ↓State.secAsk_fixed, ↓State.freeCtx_fixed]
  (repeat' split) <;> (try simp only [↓State.modCtx_fixed, ↓State.setSeal_fixed, ↓State.eachCore_fixed, ↓State.secAsk_fixed,
      ↓State.freeCtx_fixed])

theorem State.ctxDestroy_fixed (b : List Byte) (s : State) : (State.ctxDestroy b s).1.fixed = s.fixed := by
  unfold State.ctxDestroy
  simp only [↓State.destroyStep_fixed]
  (repeat' split) <;> (try simp only [↓State.destroyStep_fixed])

theorem State.ctxHold_fixed (b : List Byte) (s : State) : (State.ctxHold b s).1.fixed = s.fixed := by
  unfold State.ctxHold
  simp only [↓State.modCtx_fixed, ↓State.almCtx_fixed]
  (repeat' split) <;> (try simp only [↓State.modCtx_fixed, ↓State.almCtx_fixed])

theorem State.ctxResume_fixed (b : List Byte) (s : State) : (State.ctxResume b s).1.fixed = s.fixed := by
  unfold State.ctxResume
  simp only [↓State.modCtx_fixed, ↓State.almCtx_fixed, ↓State.preempt_fixed]
  (repeat' split) <;> (try simp only [↓State.modCtx_fixed, ↓State.almCtx_fixed, ↓State.preempt_fixed])

theorem State.setStash_fixed (s : State) (k : Nat) (r : Stash) : (s.setStash k r).fixed = s.fixed := by rfl

theorem State.stashSet_fixed (b : List Byte) (s : State) : (State.stashSet b s).1.fixed = s.fixed := by
  unfold State.stashSet
  simp only [↓State.gddrFill_fixed, ↓State.setStash_fixed]
  (repeat' split) <;> (try simp only [↓State.gddrFill_fixed, ↓State.setStash_fixed])

theorem fabSysReg_fixed (s : State) (off : Nat) (v : DWord) (t : State) (h : fabSysReg s off v = some t) : t.fixed = s.fixed := by
  unfold fabSysReg at h
  simp only at h
  split at h
  · cases h; exact State.setAddr_fixed ..
  · split at h
    · cases h; rfl
    · split at h
      · cases h; rfl
      · split at h
        · cases h; exact State.setRxwin_fixed ..
        · split at h
          · cases h; exact State.setRxwin_fixed ..
          · cases h

theorem fabItem_fixed (s : State) (a : Nat) (v : DWord) (t : State) (h : fabItem s a v = some t) : t.fixed = s.fixed := by
  unfold fabItem at h
  split at h
  · split at h
    · cases h
    · split at h
      · cases h
      · cases h
        exact fixed_foldl _ _ _ (fun u x => State.modFab_fixed ..)
  · split at h
    · exact fabSysReg_fixed _ _ _ _ h
    · cases h
  · cases h

theorem fabItems_fixed (l : List (Nat × DWord)) (s t : State) (h : fabItems l s = some t) : t.fixed = s.fixed := by
  induction l generalizing s with
  | nil => cases h; rfl
  | cons a r ih =>
    unfold fabItems at h
    cases ha : fabItem s a.1 a.2 with
    | none => rw [ha] at h; cases h
    | some u => rw [ha] at h; exact (ih u h).trans (fabItem_fixed _ _ _ _ ha)

theorem State.fabCfg_fixed (b : List Byte) (s : State) : (State.fabCfg b s).1.fixed = s.fixed := by
  unfold State.fabCfg
  simp only
  split
  · rfl
  · split
    · rename_i t ht
      split
      · exact (fabItems_fixed _ _ _ ht).trans (State.oseen_fixed ..)
      · exact State.oseen_fixed ..
    · exact State.oseen_fixed ..

theorem State.mcastSet_fixed (b : List Byte) (s : State) : (State.mcastSet b s).1.fixed = s.fixed := by
  unfold State.mcastSet
  simp only
  split <;> rfl

theorem State.ethRing_fixed (b : List Byte) (s : State) : (State.ethRing b s).1.fixed = s.fixed := by
  unfold State.ethRing
  simp only [↓fixed_upd]
  (repeat' split) <;> (try simp only [↓fixed_upd])

theorem State.fwSlot_fixed (f : State → Bool → State × Nat) (b : List Byte) (s : State) (hf : ∀ (v0 : State) (v1 : Bool), (f v0
    v1).1.fixed = State.fixed v0) : (State.fwSlot f b s).1.fixed = s.fixed := by
  unfold State.fwSlot
  simp only
  split
  · rfl
  · exact hf _ _

theorem State.detach_fixed (bb : List Byte) (s : State) : (State.detach bb s).1.fixed = s.fixed := by
  unfold State.detach
  simp only [↓State.modOrr_fixed, ↓State.almDriver_fixed]

theorem State.leaveHold_fixed (s : State) : s.leaveHold.fixed = s.fixed := by
  unfold State.leaveHold
  simp only [↓fixed_ite, ↓ite_self, ↓State.modOrr_fixed, ↓State.holdNotice_fixed]

theorem State.resumeAll_fixed (s : State) : s.resumeAll.fixed = s.fixed := by
  unfold State.resumeAll
  simp only [↓fixed_ite, fixed_foldl, ↓ite_self, implies_true, ↓State.modCtx_fixed]

theorem State.destroyAll_fixed (s : State) : s.destroyAll.1.fixed = s.fixed := by
  unfold State.destroyAll
  have h : ∀ (l : List Nat) (acc : State × Bool),
      (l.foldl (fun (acc : State × Bool) n =>
        if !acc.2 || (acc.1.ctx n).st == .free then acc else acc.1.destroyStep n) acc).1.fixed = acc.1.fixed := by
    intro l
    induction l with
    | nil => intros; rfl
    | cons a r ih =>
      intro acc
      refine (ih _).trans ?_
      simp only
      split
      · rfl
      · exact State.destroyStep_fixed ..
  exact h _ _

theorem State.reattach_fixed (b : List Byte) (s : State) : (State.reattach b s).1.fixed = s.fixed := by
  unfold State.reattach
  simp only [↓State.almDriver_fixed, ↓State.preempt_fixed, ↓State.leaveHold_fixed, ↓State.resumeAll_fixed,
      ↓State.destroyAll_fixed]
  (repeat' split) <;> (try simp only [↓State.almDriver_fixed, ↓State.preempt_fixed, ↓State.leaveHold_fixed,
      ↓State.resumeAll_fixed, ↓State.destroyAll_fixed])

theorem State.setAdminBase_fixed (s : State) (v : DWord) : (s.setAdminBase v).fixed = s.fixed := by
  unfold State.setAdminBase
  simp only [↓fixed_ite, ↓ite_self, ↓State.modOrr_fixed]

theorem State.attach_fixed (s : State) : s.attach.fixed = s.fixed := by
  unfold State.attach
  simp only [↓fixed_ite, ↓ite_self, ↓State.modOrr_fixed, ↓State.raise_fixed, ↓State.seenRuns_fixed, ↓State.almDriver_fixed]

theorem State.driverLost_fixed (s : State) : s.driverLost.fixed = s.fixed := by
  unfold State.driverLost
  simp only [↓fixed_ite, ↓ite_self, ↓State.modOrr_fixed, ↓State.raise_fixed, ↓State.almDriver_fixed]

theorem State.setEthRing_fixed (s : State) (k : Nat) (r : Ring) : (s.setEthRing k r).fixed = s.fixed := by rfl

theorem State.descDone_fixed (s : State) (port k : Nat) (r : Ring) (len flags status : Nat) : (s.descDone port k r len flags
    status).fixed = s.fixed := by
  unfold State.descDone
  simp only [↓fixed_ite, ↓ite_self, ↓State.writeNow_fixed, ↓State.plic_fixed, ↓State.setEthRing_fixed]

theorem State.rxPoll_fixed (s : State) (port k : Nat) (r : Ring) (d : List Byte) : (s.rxPoll port k r d).fixed = s.fixed := by
  unfold State.rxPoll
  split <;> simp only [↓fixed_upd, ↓State.writeNow_fixed, ↓State.descDone_fixed]

theorem State.txPoll_fixed (s : State) (port k : Nat) (r : Ring) (d : List Byte) : (s.txPoll port k r d).fixed = s.fixed := by
  unfold State.txPoll
  simp only [↓fixed_upd, ↓fixed_ite, ↓ite_self, ↓State.emit_fixed, ↓State.seenRun_fixed, ↓State.descDone_fixed]

theorem State.ethPoll_fixed (s : State) (port : Nat) (rx : Bool) (ring : Nat) : (s.ethPoll port rx ring).fixed = s.fixed := by
  unfold State.ethPoll
  simp only [↓State.seenRun_fixed, ↓State.setEthRing_fixed, ↓State.rxPoll_fixed, ↓State.txPoll_fixed]
  (repeat' split) <;> (try simp only [↓State.seenRun_fixed, ↓State.setEthRing_fixed, ↓State.rxPoll_fixed, ↓State.txPoll_fixed])

theorem State.frameIn_fixed (s : State) (port ring : Nat) (f : List Byte) (fcs : Bool) : (s.frameIn port ring f fcs).fixed =
    s.fixed := by
  unfold State.frameIn
  simp only [↓fixed_upd, ↓fixed_ite, ↓ite_self, ↓State.ethPoll_fixed]

end Sys2Proof.Machine
end

