-- ==== Sys2Proof/Laws/FixedPower.lean ====
section
/-! SUPPORT. What the operations of faults, of power and of the registers leave alone: the part, site roles,
graft map, retirement record and command queue (`State.fixed`). -/

namespace Sys2Proof.Machine

theorem State.haltMe_fixed (s : State) (k : Nat) : (s.haltMe k).fixed = s.fixed := by
  unfold State.haltMe
  simp only [↓fixed_upd, fixed_foldl, implies_true, State.fresh, ↓State.modMe_fixed, ↓State.finish_fixed]

theorem State.haltVe_fixed (s : State) (k : Nat) : (s.haltVe k).fixed = s.fixed := by
  unfold State.haltVe
  simp only [↓fixed_upd, fixed_foldl, implies_true, State.fresh, ↓State.modVe_fixed, ↓State.land_fixed, ↓State.finish_fixed]

theorem State.haltSe_fixed (s : State) (k : Nat) : (s.haltSe k).fixed = s.fixed := by
  unfold State.haltSe
  simp only [↓fixed_upd, ↓fixed_ite, fixed_foldl, ↓ite_self, implies_true, State.fresh, ↓State.modSe_fixed, ↓State.land_fixed,
      ↓State.finish_fixed, ↓State.modSeCtx_fixed, ↓State.endCtx_fixed]
  (repeat' split) <;> (try simp only [↓fixed_upd, ↓fixed_ite, fixed_foldl, ↓ite_self, implies_true, State.fresh,
      ↓State.modSe_fixed, ↓State.land_fixed, ↓State.finish_fixed, ↓State.modSeCtx_fixed, ↓State.endCtx_fixed])

theorem State.haltCore_fixed (s : State) (k : Nat) : (s.haltCore k).fixed = s.fixed := by
  unfold State.haltCore
  simp only [↓State.modCore_fixed, ↓State.modCc_fixed, ↓State.raise_fixed, ↓State.haltMe_fixed, ↓State.haltVe_fixed,
      ↓State.haltSe_fixed]

theorem State.haltArrive_fixed (s : State) (k : Nat) : (s.haltArrive k).fixed = s.fixed := by
  unfold State.haltArrive
  simp only [↓fixed_ite, ↓State.modGis_fixed, ↓State.haltCore_fixed]
  (repeat' split) <;> (try simp only [↓fixed_ite, ↓State.modGis_fixed, ↓State.haltCore_fixed])

theorem State.haltCtx_fixed (s : State) (n : Nat) : (s.haltCtx n).fixed = s.fixed := by
  unfold State.haltCtx
  simp only [↓fixed_ite, ↓ite_self, ↓State.modCtx_fixed, ↓State.modUpd_fixed, ↓State.earlyVote_fixed]

theorem State.haltGo_fixed (s : State) (mask : Half) (reason : Nat) : (s.haltGo mask reason).fixed = s.fixed := by
  unfold State.haltGo
  simp only [fixed_foldl, implies_true, ↓State.modGis_fixed, ↓State.almanac_fixed, ↓State.haltCtx_fixed]

theorem State.queueGraft_fixed (s : State) (g : Graft) : (s.queueGraft g).fixed = s.fixed := by
  unfold State.queueGraft
  simp only [↓fixed_ite, ↓ite_self, ↓State.modGis_fixed]

theorem State.haltFor_fixed (s : State) (u : Urgent) (mask : Half) (kind p c : Nat) : (s.haltFor u mask kind p c).fixed = s.fixed
    := by
  unfold State.haltFor
  simp only [↓State.haltGo_fixed, ↓State.queueGraft_fixed]

theorem State.coreFault_fixed (s : State) (u : Urgent) (k kind : Nat) : (s.coreFault u k kind).fixed = s.fixed := by
  unfold State.coreFault
  simp only [↓State.haltFor_fixed]

theorem State.siteFault_fixed (s : State) (u : Urgent) (p : Nat) : (s.siteFault u p).fixed = s.fixed := by
  unfold State.siteFault
  split <;> simp only [↓State.haltFor_fixed]

theorem State.faultCtxs_fixed (s : State) (ns : List Nat) : (s.faultCtxs ns).fixed = s.fixed := by
  unfold State.faultCtxs
  simp only [fixed_foldl, implies_true, ↓State.modSrec_fixed]

theorem State.edgeFault_fixed (s : State) (u : Urgent) (p : Nat) : (s.edgeFault u p).fixed = s.fixed := by
  unfold State.edgeFault
  simp only [fixed_foldl, implies_true, ↓State.haltGo_fixed, ↓State.siteFault_fixed, ↓State.rewriteRoutes_fixed]

theorem State.answer_fixed (s : State) (u : Urgent) : (s.answer u).fixed = s.fixed := by
  unfold State.answer
  split <;> simp only [↓State.haltFor_fixed, ↓State.coreFault_fixed, ↓State.siteFault_fixed, ↓State.faultCtxs_fixed,
      ↓State.edgeFault_fixed]

theorem State.claimUrgent_fixed (s : State) (oc : Nat) : (s.claimUrgent oc).fixed = s.fixed := by
  unfold State.claimUrgent
  split <;> simp only [↓fixed_ite, ↓ite_self, ↓State.modGis_fixed, ↓State.almanac_fixed, ↓State.answer_fixed]

theorem State.hwEvent_fixed (s : State) (x0 : HwEvent) : (s.hwEvent x0).fixed = s.fixed := by
  unfold State.hwEvent
  split <;> simp only [↓fixed_ite, ↓ite_self, ↓State.raise_fixed, ↓State.raiseSite_fixed, ↓State.ocCrash_fixed]

theorem State.edgeFail_fixed (s : State) (p e : Nat) : (s.edgeFail p e).fixed = s.fixed := by
  unfold State.edgeFail
  split
  · rfl
  · exact State.raiseSite_fixed ..

theorem State.dropGraft_fixed (s : State) (g : Graft) : (s.dropGraft g).fixed = s.fixed := by rfl

theorem State.columnGraft_fixed (s : State) (p c : Nat) (fails : BitVec 130) (recOk : Bool) : (s.columnGraft p c fails
    recOk).fixed = s.fixed := by
  unfold State.columnGraft
  split <;> simp only [↓fixed_upd, ↓fixed_ite, ↓ite_self, implies_true, State.fresh, ↓State.modMe_fixed, ↓State.raise_fixed,
      ↓State.almGraft_fixed, ↓State.flashRecord_fixed, ↓State.queueGraft_fixed, ↓State.dropGraft_fixed]

theorem State.replayImg_fixed (s : State) (e : Entry) : (s.replayImg e).1.fixed = s.fixed := by
  unfold State.replayImg
  dsimp only
  split
  · exact State.oseen_fixed ..
  · exact State.oseen_fixed ..

theorem State.replay_fixed (s : State) (k l c : Nat) : (s.replay k l c).fixed = s.fixed := by
  unfold State.replay
  split <;> simp only [fixed_foldl, implies_true, ↓State.replayImg_fixed, ↓State.loadCore_fixed]

theorem State.takeCore_fixed (s : State) (k l c : Nat) (ctx : Option (BitVec 4)) : (s.takeCore k l c ctx).fixed = s.fixed := by
  unfold State.takeCore
  simp only [↓State.modCore_fixed, ↓State.replay_fixed]

theorem State.coreGraft_fixed (s : State) (p c : Nat) (recOk : Bool) : (s.coreGraft p c recOk).fixed = s.fixed := by
  unfold State.coreGraft
  simp only [implies_true, ↓State.modSite_fixed, ↓State.modCore_fixed, ↓State.raiseSite_fixed, ↓State.almGraft_fixed,
      ↓State.flashRecord_fixed, ↓State.siteFault_fixed, ↓State.dropGraft_fixed, ↓State.takeCore_fixed]
  (repeat' split) <;> (try simp only [implies_true, ↓State.modSite_fixed, ↓State.modCore_fixed, ↓State.raiseSite_fixed,
      ↓State.almGraft_fixed, ↓State.flashRecord_fixed, ↓State.siteFault_fixed, ↓State.dropGraft_fixed, ↓State.takeCore_fixed])

theorem State.rebuildFails_fixed (s : State) (l : Nat) : (s.rebuildFails l).fixed = s.fixed := by
  unfold State.rebuildFails
  simp only [↓fixed_upd, ↓State.raise_fixed, ↓State.setUnprot_fixed]

theorem State.graftSeedbank_fixed (s : State) (p q l : Nat) (t0 : DWord) : (s.graftSeedbank p q l t0).fixed = s.fixed := by
  unfold State.graftSeedbank
  simp only [↓fixed_upd, ↓fixed_ite, ↓ite_self, ↓State.rebuildFails_fixed]

theorem State.loseHolder_fixed (s : State) (p : Nat) : (s.loseHolder p).fixed = s.fixed := by
  unfold State.loseHolder
  simp only [↓fixed_upd, fixed_foldl, implies_true, ↓State.modSite_fixed]

theorem State.released_fixed (s : State) (n : Nat) : (s.released n).fixed = s.fixed := by rfl

theorem State.reload_fixed (s : State) (n : Nat) : (s.reload n).fixed = s.fixed := by
  unfold State.reload
  simp only [fixed_foldl, implies_true, ↓State.almGraft_fixed, ↓State.dropGraft_fixed, ↓State.replay_fixed]

theorem State.stepRestart_fixed (s : State) (n : Nat) : (s.stepRestart n).fixed = s.fixed := by
  unfold State.stepRestart
  (repeat' split) <;> simp only [↓State.writeHeaders_fixed, ↓State.finishStep_fixed, ↓State.startCores_fixed,
      ↓State.beginStep_fixed, ↓State.released_fixed, ↓State.reload_fixed]

theorem State.halfFail_fixed (s : State) (x : Nat) (half : Bool) : (s.halfFail x half).fixed = s.fixed := by
  unfold State.halfFail
  simp only [↓fixed_ite, ↓ite_self, ↓State.modXd_fixed, ↓State.modTr_fixed, ↓State.raise_fixed]

theorem State.hartGraft_fixed (s : State) (n : Nat) : (s.hartGraft n).fixed = s.fixed := by
  unfold State.hartGraft
  simp only [↓fixed_upd, ↓fixed_ite, ↓ite_self, ↓State.raise_fixed]

theorem State.goOff_fixed (s : State) : s.goOff.fixed = s.fixed := by
  unfold State.goOff
  simp only [↓fixed_ite, ↓ite_self, ↓State.modPwr_fixed, ↓State.almanac_fixed]

theorem State.enterP4_fixed (s : State) : s.enterP4.fixed = s.fixed := by
  unfold State.enterP4
  simp only [↓fixed_upd, fixed_foldl, implies_true, ↓State.modPwr_fixed, ↓State.modGis_fixed, ↓State.haltCtx_fixed]

theorem State.enterLevel_fixed (s : State) : s.enterLevel.fixed = s.fixed := by
  unfold State.enterLevel
  simp only [↓fixed_upd, ↓fixed_ite, ↓State.modPwr_fixed, ↓State.emit_fixed, ↓State.raise_fixed, ↓State.prunePorts_fixed,
      ↓State.goOff_fixed, ↓State.enterP4_fixed]
  (repeat' split) <;> (try simp only [↓fixed_upd, ↓fixed_ite, ↓State.modPwr_fixed, ↓State.emit_fixed, ↓State.raise_fixed,
      ↓State.prunePorts_fixed, ↓State.goOff_fixed, ↓State.enterP4_fixed])

theorem State.enterLevels_fixed (s : State) (v : Nat) (x0 : Nat) : (s.enterLevels v x0).fixed = s.fixed := by
  induction x0 generalizing s with
  | zero => rfl
  | succ f ih =>
    unfold State.enterLevels
    split
    · split
      · rw [ih]; exact State.enterLevel_fixed ..
      · rfl
    · rfl

theorem State.overvoltage_fixed (s : State) : s.overvoltage.fixed = s.fixed := by
  unfold State.overvoltage
  split <;> simp only [↓fixed_ite, ↓ite_self, ↓State.raise_fixed, ↓State.goOff_fixed]

theorem State.warmGo_fixed (s : State) : s.warmGo.fixed = s.fixed := by
  unfold State.warmGo
  simp only [↓fixed_upd, fixed_foldl, implies_true, ↓State.eraseCtx_fixed, ↓State.haltGo_fixed]

theorem State.sysRst_fixed (s : State) (req : Requester) (v : DWord) : (s.sysRst req v).fixed = s.fixed := by
  unfold State.sysRst
  (repeat' split) <;> simp only [↓fixed_upd, ↓State.warmGo_fixed]

theorem State.undoLevel_fixed (s : State) (n : Nat) : (s.undoLevel n).fixed = s.fixed := by
  unfold State.undoLevel
  split <;> simp only [↓fixed_upd, ↓fixed_ite, fixed_foldl, ↓ite_self, implies_true, ↓State.emit_fixed,
      ↓State.stepBoundary_fixed, ↓State.replay_fixed, ↓State.warmGo_fixed]

theorem State.leaveLevel_fixed (s : State) : s.leaveLevel.fixed = s.fixed := by
  unfold State.leaveLevel
  simp only [↓State.modPwr_fixed, ↓State.raise_fixed, ↓State.undoLevel_fixed]
  (repeat' split) <;> (try simp only [↓State.modPwr_fixed, ↓State.raise_fixed, ↓State.undoLevel_fixed])

theorem State.governorTick_fixed (s : State) (watts : Half) : (s.governorTick watts).fixed = s.fixed := by
  unfold State.governorTick
  simp only [↓fixed_ite, ↓ite_self, ↓State.modPwr_fixed, ↓State.raise_fixed]

theorem State.phaseRetire_fixed (s : State) (d : Nat) : (s.phaseRetire d).fixed = s.fixed := by
  unfold State.phaseRetire
  simp only [↓fixed_ite, ↓ite_self, ↓State.modPwr_fixed, ↓State.raise_fixed, ↓State.raiseSite_fixed, ↓State.goOff_fixed]

theorem State.thermalSample_fixed (s : State) (n : Nat) (c : Byte) : (s.thermalSample n c).fixed = s.fixed := by
  unfold State.thermalSample
  simp only [↓fixed_upd, ↓fixed_ite, ↓ite_self, ↓State.raise_fixed, ↓State.goOff_fixed]

theorem State.throttleStep_fixed (s : State) : s.throttleStep.fixed = s.fixed := by
  unfold State.throttleStep
  simp only [↓fixed_upd, ↓fixed_ite, ↓ite_self, ↓State.modPwr_fixed]

theorem State.refclkReturn_fixed (s : State) : s.refclkReturn.fixed = s.fixed := by
  unfold State.refclkReturn
  simp only [↓fixed_upd, ↓fixed_ite, ↓ite_self, ↓State.raise_fixed]

theorem State.bootFail_fixed (s : State) : s.bootFail.fixed = s.fixed := by
  unfold State.bootFail
  simp only [↓State.raiseSec_fixed, ↓State.almanac_fixed]

theorem State.trainAll_fixed (s : State) (bad : List (Nat × Nat)) : (s.trainAll bad).fixed = s.fixed := by
  unfold State.trainAll
  simp only [↓fixed_upd, fixed_foldl, implies_true, State.fresh, ↓State.modMc_fixed, ↓State.devFail_fixed]

theorem State.ccDbg_fixed (s : State) (k n : Nat) : (s.ccDbg k n).fixed = s.fixed := by
  unfold State.ccDbg
  simp only [↓fixed_ite, ↓ite_self, ↓State.modCc_fixed, ↓State.modSec_fixed, ↓State.ccResume_fixed]

theorem State.ccWrite_fixed (s : State) (k off : Nat) (v : DWord) : (s.ccWrite k off v).fixed = s.fixed := by
  unfold State.ccWrite
  split <;> simp only [↓fixed_ite, ↓ite_self, ↓State.modCc_fixed, ↓State.ccStart_fixed, ↓State.ccPause_fixed,
      ↓State.imemVer_fixed, ↓State.xreg_fixed, ↓State.ccDbg_fixed]

theorem State.meWrite_fixed (s : State) (k off : Nat) (v : DWord) : (s.meWrite k off v).fixed = s.fixed := by
  unfold State.meWrite
  split <;> simp only [↓State.modMe_fixed]

theorem State.veWrite_fixed (s : State) (k off : Nat) (v : DWord) : (s.veWrite k off v).fixed = s.fixed := by
  unfold State.veWrite
  split <;> simp only [↓State.modVe_fixed]

theorem State.seWrite_fixed (s : State) (k off : Nat) (v : DWord) : (s.seWrite k off v).fixed = s.fixed := by
  unfold State.seWrite
  split <;> simp only [↓State.modSe_fixed]

theorem State.coreWrite_fixed (s : State) (k off : Nat) (v : DWord) : (s.coreWrite k off v).fixed = s.fixed := by
  unfold State.coreWrite
  split <;> simp only [↓State.ccWrite_fixed, ↓State.meWrite_fixed, ↓State.veWrite_fixed, ↓State.seWrite_fixed]

theorem State.siteBlockWrite_fixed (s : State) (p off : Nat) (v : DWord) : (s.siteBlockWrite p off v).fixed = s.fixed := by
  unfold State.siteBlockWrite
  split <;> simp only [↓State.modSite_fixed]

theorem State.siteWrite_fixed (s : State) (p off : Nat) (v : DWord) : (s.siteWrite p off v).fixed = s.fixed := by
  unfold State.siteWrite
  simp only [↓fixed_ite, ↓ite_self, ↓State.coreWrite_fixed, ↓State.siteBlockWrite_fixed]

theorem State.fabDieWrite_fixed (s : State) (x off : Nat) (v : DWord) : (s.fabDieWrite x off v).fixed = s.fixed := by
  unfold State.fabDieWrite
  simp only [↓fixed_ite, ↓ite_self, ↓State.modFab_fixed, ↓State.retryPackets_fixed]

theorem State.xdWrite_fixed (s : State) (x off : Nat) (v : DWord) : (s.xdWrite x off v).fixed = s.fixed := by
  unfold State.xdWrite
  simp only [↓fixed_ite, ↓ite_self, ↓State.modXd_fixed, ↓State.modTr_fixed, ↓State.modMc_fixed, ↓State.handoff_fixed,
      ↓State.fabSend_fixed, ↓State.fabDieWrite_fixed]

theorem State.stashWrite_fixed (s : State) (off : Nat) (v : DWord) : (s.stashWrite off v).fixed = s.fixed := by
  unfold State.stashWrite
  simp only [↓fixed_ite, ↓ite_self, ↓State.gddrFill_fixed, ↓State.setStash_fixed]

theorem State.fabSysWrite_fixed (s : State) (req : Requester) (off : Nat) (v : DWord) : (s.fabSysWrite req off v).fixed = s.fixed
    := by
  unfold State.fabSysWrite
  split
  · rfl
  · split
    · rename_i t ht
      split
      · rfl
      · exact fabSysReg_fixed _ _ _ _ ht
    · rfl

theorem State.sbWrite_fixed (s : State) (off : Nat) (v : DWord) : (s.sbWrite off v).fixed = s.fixed := by
  unfold State.sbWrite
  split <;> simp only [↓fixed_upd, ↓State.sbCtl_fixed]

theorem State.orrWrite_fixed (s : State) (req : Requester) (off : Nat) (v : DWord) : (s.orrWrite req off v).fixed = s.fixed := by
  unfold State.orrWrite
  split <;> simp only [↓fixed_ite, ↓ite_self, ↓State.modOrr_fixed, ↓State.loadBlk_fixed, ↓State.confirm_fixed,
      ↓State.setAdminBase_fixed, ↓State.attach_fixed]

theorem State.hostWrite_fixed (s : State) (off n : Nat) : (s.hostWrite off n).fixed = s.fixed := by
  unfold State.hostWrite
  split <;> simp only [↓fixed_upd]

theorem State.secWrite_fixed (s : State) (req : Requester) (off : Nat) (v : DWord) : (s.secWrite req off v).fixed = s.fixed := by
  unfold State.secWrite
  split <;> simp only [↓fixed_ite, ↓ite_self, ↓State.modSec_fixed, ↓State.secGo_fixed]

theorem State.gisWrite_fixed (s : State) (req : Requester) (off : Nat) (v : DWord) : (s.gisWrite req off v).fixed = s.fixed := by
  unfold State.gisWrite
  split <;> simp only [↓fixed_ite, ↓ite_self, ↓State.modGis_fixed, ↓State.haltGo_fixed]

theorem State.pwrWrite_fixed (s : State) (off n : Nat) : (s.pwrWrite off n).fixed = s.fixed := by
  unfold State.pwrWrite
  split <;> simp only [↓State.modPwr_fixed]

theorem State.clkWrite_fixed (s : State) (off n : Nat) : (s.clkWrite off n).fixed = s.fixed := by
  unfold State.clkWrite
  split <;> simp only [↓fixed_upd]

theorem State.sysWrite_fixed (s : State) (req : Requester) (off : Nat) (v : DWord) : (s.sysWrite req off v).fixed = s.fixed := by
  unfold State.sysWrite
  simp only [↓fixed_ite, ↓ite_self, ↓State.modGis_fixed, ↓State.sysRst_fixed, ↓State.stashWrite_fixed, ↓State.fabSysWrite_fixed,
      ↓State.sbWrite_fixed, ↓State.orrWrite_fixed, ↓State.hostWrite_fixed, ↓State.secWrite_fixed, ↓State.gisWrite_fixed,
      ↓State.pwrWrite_fixed, ↓State.clkWrite_fixed]

theorem State.regWrite_fixed (s : State) (req : Requester) (a : Nat) (v : DWord) : (s.regWrite req a v).fixed = s.fixed := by
  unfold State.regWrite
  (repeat' split) <;> simp only [↓State.raiseSec_fixed, ↓State.mapFault_fixed, ↓State.siteWrite_fixed, ↓State.xdWrite_fixed,
      ↓State.sysWrite_fixed]

theorem State.sendPacket_fixed (s : State) (x : Nat) (cls : BitVec 2) (dst : BitVec 13) (kind win off : Nat) (body : List Byte) :
    (s.sendPacket x cls dst kind win off body).fixed = s.fixed := by
  unfold State.sendPacket
  simp only [↓fixed_ite, ↓ite_self, ↓State.raiseFab_fixed, ↓State.route_fixed]

theorem State.tell_fixed (s : State) (tos : List (BitVec 13)) (kind : Nat) (body : List Byte) : (s.tell tos kind body).fixed =
    s.fixed := by
  unfold State.tell
  simp only [fixed_foldl, implies_true, ↓State.sendPacket_fixed]

theorem State.tellPort_fixed (s : State) (p kind : Nat) (body : List Byte) : (s.tellPort p kind body).fixed = s.fixed := by
  unfold State.tellPort
  simp only [↓fixed_ite, ↓ite_self, ↓State.putPacket_fixed]

theorem State.sendSegment_fixed (s : State) (tos : List (BitVec 13)) (sub : Nat) (m : SegmentMsg) : (s.sendSegment tos sub m).fixed
    = s.fixed := by
  unfold State.sendSegment
  simp only [fixed_foldl, implies_true, ↓State.sendPacket_fixed]

theorem State.sendWrite_fixed (s : State) (dst : BitVec 13) (cls : BitVec 2) (win : BitVec 4) (off : Nat) (data : List Byte)
    (notify : Bool) : (s.sendWrite dst cls win off data notify).fixed = s.fixed := by
  unfold State.sendWrite
  simp only [↓fixed_ite, fixed_foldl, ↓ite_self, implies_true, ↓State.raiseFab_fixed, ↓State.route_fixed]

theorem State.mail_fixed (s : State) (o : Out) : (s.mail o).fixed = s.fixed := by
  unfold State.mail
  split <;> simp only [fixed_foldl, implies_true, ↓State.sendPacket_fixed, ↓State.tell_fixed, ↓State.tellPort_fixed,
      ↓State.sendSegment_fixed, ↓State.sendWrite_fixed]

theorem State.mailOut_fixed (s : State) : s.mailOut.fixed = s.fixed := by
  unfold State.mailOut
  simp only [↓fixed_upd, fixed_foldl, implies_true, ↓State.mail_fixed]

theorem State.takePart_fixed (s : State) (back : Bool) (m : SegmentMsg) (off : Nat) : (s.takePart back m off).fixed = s.fixed :=
    by
  unfold State.takePart
  simp only [↓fixed_upd, ↓State.segmentAt_fixed, ↓State.writeBackAt_fixed]
  (repeat' split) <;> (try simp only [↓fixed_upd, ↓State.segmentAt_fixed, ↓State.writeBackAt_fixed])

theorem State.takeIn_fixed (s : State) (p : Nat) (cls : BitVec 2) (bs : List Byte) : (s.takeIn p cls bs).fixed = s.fixed := by
  unfold State.takeIn
  simp only [↓State.noticeAt_fixed, ↓State.closeNoticeAt_fixed, ↓State.heartbeatAt_fixed, ↓State.decisionAt_fixed,
      ↓State.voteWordAt_fixed, ↓State.decisionAsked_fixed, ↓State.commitAckAt_fixed, ↓State.doneAt_fixed, ↓State.failureAt_fixed,
      ↓State.rxWrite_fixed, ↓State.refusalAt_fixed, ↓State.elect_fixed, ↓State.timeMessage_fixed, ↓State.delayAsked_fixed,
      ↓State.delayAnswered_fixed, ↓State.proposal_fixed, ↓State.proposalAnswer_fixed, ↓State.epochCommitAt_fixed,
      ↓State.heldAt_fixed, ↓State.takePart_fixed]
  (repeat' split) <;> (try simp only [↓State.noticeAt_fixed, ↓State.closeNoticeAt_fixed, ↓State.heartbeatAt_fixed,
      ↓State.decisionAt_fixed, ↓State.voteWordAt_fixed, ↓State.decisionAsked_fixed, ↓State.commitAckAt_fixed,
      ↓State.doneAt_fixed, ↓State.failureAt_fixed, ↓State.rxWrite_fixed, ↓State.refusalAt_fixed, ↓State.elect_fixed,
      ↓State.timeMessage_fixed, ↓State.delayAsked_fixed, ↓State.delayAnswered_fixed, ↓State.proposal_fixed,
      ↓State.proposalAnswer_fixed, ↓State.epochCommitAt_fixed, ↓State.heldAt_fixed, ↓State.takePart_fixed])

theorem State.readInbox_fixed (s : State) : s.readInbox.fixed = s.fixed := by
  unfold State.readInbox
  simp only [↓fixed_upd, fixed_foldl, implies_true, ↓State.takeIn_fixed]

theorem State.endFeeds_fixed (s : State) : s.endFeeds.fixed = s.fixed := by
  unfold State.endFeeds
  simp only [fixed_foldl, implies_true, ↓State.endFeed_fixed]

theorem State.tickOnce_fixed (s : State) : s.tickOnce.fixed = s.fixed := by
  unfold State.tickOnce
  simp only [↓fixed_upd, ↓fixed_ite, ↓ite_self, ↓State.hostTick_fixed, ↓State.askDelays_fixed, ↓State.mailOut_fixed,
      ↓State.readInbox_fixed, ↓State.endFeeds_fixed]

end Sys2Proof.Machine
end

