-- ==== Sys2Proof/Laws/Me.lean ====
section
/-! SUPPORT. What the matrix engine's commands can do (03): the head of the queue runs, it is taken and finished, and the
done count moves over it (08 R243). -/

namespace Sys2Proof.Machine

/-- A command at the head of the queue runs. -/
theorem State.meRun_head {s : State} {l c k q rest op f} (hk : s.key l c = some k) (hq : (s.core k).me.queue = q :: rest) (ho : q.op = op)
   (hm : meOps.contains q.op = true) (hr : reservedBits q.w (meMaskOf op) = false) : s.meRun l c op f = f k q s := by
  subst ho
  simp [State.meRun, hk, hq, State.skipUnknown, Core.queue, hr]
  simp only [List.contains_iff_mem] at hm
  simp [hm, hq, hr]

/-- A command that completes in issue order moves the done count by one. -/
theorem EngCnt.complete_next (n : Half) (c : EngCnt) (he : c.early = []) (hn : n = c.done + 1) : (c.complete n).done = c.done + 1 ∧ (c.complete n).early = [] := by
  subst hn
  simp [EngCnt.complete, he, EngCnt.settle]

theorem EngCnt.complete_issued (n : Half) (c : EngCnt) : (c.complete n).issued = c.issued ∧ (c.complete n).started = c.started := by
  have : ∀ m (d : EngCnt), (d.settle m).issued = d.issued ∧ (d.settle m).started = d.started := by
    intro m
    induction m with
    | zero => intro d; exact ⟨rfl, rfl⟩
    | succ m ih => intro d; simp only [EngCnt.settle]; split
                   · exact ih _
                   · exact ⟨rfl, rfl⟩
  exact this _ _

theorem Completes.of_complete (n : Half) (a c : EngCnt) (h1 : c.issued = a.issued) (h2 : c.done = a.done) (h3 : c.early = a.early) :
    Completes n a (c.complete n) := by
  refine ⟨(EngCnt.complete_issued n c).1.trans h1, fun he hn => ?_⟩
  have := EngCnt.complete_next n c (h3.trans he) (hn.trans (by rw [h2]))
  rw [this.1, this.2, h2]; exact ⟨rfl, rfl⟩

/-- A command that has its effect at once: taken and finished. -/
theorem State.meTake_finish (s : State) (k : Nat) (q : QEntry) (rest : List QEntry) (f : Me → Me) (hq : (s.core k).me.queue = q :: rest)
    (hf : ∀ m, (f m).queue = m.queue) :
    let t := ((s.modMe k f).take k .me).finish k .me q
    MeTakes k rest s t ∧ Completes q.num (s.core k).cc.meCnt (t.core k).cc.meCnt ∧ (t.core k).me = { f (s.core k).me with queue := rest } := by
  intro t
  have hc : t.core k = { s.core k with
     me := { f (s.core k).me with queue := rest },
     cc := { (s.core k).cc with meCnt := ({ (s.core k).cc.meCnt with started := (s.core k).cc.meCnt.started + 1 } : EngCnt).complete q.num } } := by
    simp only [t, State.finish, State.take, State.modMe_eq, State.modCore_eq, State.modCc_eq, State.core_setCore, if_true, State.setCore_setCore,
      Core.setQueue, Core.queue, Cc.setCnt, Cc.cnt, hf, hq, List.tail_cons]
  have ho : OnlyCore k s t := OnlyCore.trans (OnlyCore.trans (OnlyCore.setCore s k _) (OnlyCore.setCore _ k _)) (OnlyCore.setCore _ k _)
  refine ⟨⟨ho, ?_, ?_, ?_, ?_, ?_⟩, ?_, ?_⟩
  · rw [hc]
  · rw [hc]
  · rw [hc]; exact (EngCnt.complete_issued _ _).1
  · rw [hc]; exact (EngCnt.complete_issued _ _).2
  · rw [hc]
  · rw [hc]; exact Completes.of_complete _ _ _ rfl rfl rfl
  · rw [hc]


end Sys2Proof.Machine
end

