-- ==== Sys2Proof/Laws/Shared.lean ====
section
/-! SUPPORT. What the operations that several commands share can do: write streams landing, the route tables, the step
boundary, the Ethernet rings, the fabric's system record and the sample periods. -/

namespace Sys2Proof.Machine

variable (s : State)

/-! ## Write streams (06 R179) -/

/-- A stream whose bytes no other stream has on its way lands them as they are. -/
theorem State.landStream_alone (st : Stream) (ws : List Wr) (h : ∀ w ∈ ws, w.meets (s.othersOnWay st) = false) :
    s.landStream st ws = s.land ws := by
  simp only [State.landStream]
  rw [if_neg]
  simp only [List.any_eq_true, not_exists, not_and]
  exact fun w hw => by simp [h w hw]

/-- Streams that write no byte in common: with no other stream's writes on their way every stream is alone. -/
theorem State.landStream_none (st : Stream) (ws : List Wr) (h : s.othersOnWay st = []) : s.landStream st ws = s.land ws :=
  s.landStream_alone st ws (fun w _ => by simp [Wr.meets, h])

/-- What a stream that lands leaves alone, for any projection that landing, the cores and the counter of free values
leave alone. -/
theorem State.landStream_keeps {γ : Type} (g : State → γ) (st : Stream) (ws : List Wr)
    (h1 : ∀ u vs, g (State.land u vs) = g u) (h2 : ∀ (u : State) c, g { u with cores := c } = g u)
    (h3 : ∀ (u : State) n, g { u with freeCtr := n } = g u) : g (s.landStream st ws) = g s := by
  simp only [State.landStream]
  split
  · rw [h1, h2]; exact h3 s _
  · exact h1 s ws

@[simp] theorem Core.mapWrites_sp (k : Nat) (f : Stream → List Wr → List Wr) (c : Core) : (c.mapWrites k f).sp = c.sp := by rfl
@[simp] theorem Core.mapWrites_cc (k : Nat) (f : Stream → List Wr → List Wr) (c : Core) : (c.mapWrites k f).cc = c.cc := by rfl
@[simp] theorem Core.mapWrites_tiles (k : Nat) (f : Stream → List Wr → List Wr) (c : Core) :
    (c.mapWrites k f).me.tiles = c.me.tiles := by rfl

/-! ## The mesh (01 R30, R31) -/

theorem edgePair_comm (p q : Nat) : edgePair p q = edgePair q p := by
  simp only [edgePair, Nat.min_comm, Nat.max_comm]

@[simp] theorem State.rewriteRoutes_sites : s.rewriteRoutes.sites = s.sites := by rfl
@[simp] theorem State.rewriteRoutes_cores : s.rewriteRoutes.cores = s.cores := by rfl
@[simp] theorem State.rewriteRoutes_ctxs : s.rewriteRoutes.ctxs = s.ctxs := by rfl
@[simp] theorem State.rewriteRoutes_gis : s.rewriteRoutes.gis = s.gis := by rfl
@[simp] theorem State.rewriteRoutes_flash : s.rewriteRoutes.flash = s.flash := by rfl
@[simp] theorem State.rewriteRoutes_map : s.rewriteRoutes.grid.map = s.grid.map := by rfl
@[simp] theorem State.rewriteRoutes_gen : s.rewriteRoutes.grid.gen = s.grid.gen := by rfl
@[simp] theorem State.rewriteRoutes_edges : s.rewriteRoutes.grid.edges = s.grid.edges := by rfl
@[simp] theorem State.rewriteRoutes_routeEdges : s.rewriteRoutes.grid.routeEdges = s.grid.edges := by rfl

/-- A live edge joins two present ends and has not failed. -/
theorem State.edgeLive_iff (p e : Nat) : s.edgeLive p e = true ↔
    s.present p = true ∧ (64 ≤ farEnd p e ∨ s.present (farEnd p e) = true) ∧ edgePair p (farEnd p e) ∉ s.grid.edges := by
  simp [State.edgeLive, and_assoc]

/-! ## The step boundary (11 R333) -/

/-- Everything a step boundary can do: nothing, or widen the pruned ports. -/
theorem State.stepBoundary_cases : (s.fab.widen = false ∧ s.stepBoundary = s) ∨
    (s.fab.widen = true ∧ s.stepBoundary = ({ s with fab := { s.fab with widen := false } } : State).prunePorts false) := by
  simp only [State.stepBoundary]
  cases h : s.fab.widen
  · exact .inl ⟨rfl, rfl⟩
  · exact .inr ⟨rfl, rfl⟩

theorem State.prunePorts_keeps {γ : Type} (g : State → γ) (on : Bool) (h : ∀ (u : State) p q, g (State.setPort u p q) = g u) :
    g (s.prunePorts on) = g s :=
  foldl_keeps _ g _ s (fun u p _ => h u p _)

/-- A step boundary leaves alone what neither the ports nor the fabric's system record shows. -/
theorem State.stepBoundary_keeps {γ : Type} (g : State → γ) (h1 : ∀ (u : State) f, g { u with fab := f } = g u)
    (h2 : ∀ (u : State) p q, g (State.setPort u p q) = g u) : g s.stepBoundary = g s := by
  rcases s.stepBoundary_cases with ⟨_, h⟩ | ⟨_, h⟩ <;> rw [h]
  rw [State.prunePorts_keeps _ g false h2, h1]

@[simp] theorem State.stepBoundary_cores : s.stepBoundary.cores = s.cores :=
  s.stepBoundary_keeps (fun u => u.cores) (fun _ _ => rfl) (fun _ _ _ => rfl)
@[simp] theorem State.stepBoundary_sites : s.stepBoundary.sites = s.sites :=
  s.stepBoundary_keeps (fun u => u.sites) (fun _ _ => rfl) (fun _ _ _ => rfl)
@[simp] theorem State.stepBoundary_ctxs : s.stepBoundary.ctxs = s.ctxs :=
  s.stepBoundary_keeps (fun u => u.ctxs) (fun _ _ => rfl) (fun _ _ _ => rfl)
@[simp] theorem State.stepBoundary_orr : s.stepBoundary.orr = s.orr :=
  s.stepBoundary_keeps (fun u => u.orr) (fun _ _ => rfl) (fun _ _ _ => rfl)
@[simp] theorem State.stepBoundary_gddr : s.stepBoundary.gddr = s.gddr :=
  s.stepBoundary_keeps (fun u => u.gddr) (fun _ _ => rfl) (fun _ _ _ => rfl)
@[simp] theorem State.stepBoundary_outbox : s.stepBoundary.outbox = s.outbox :=
  s.stepBoundary_keeps (fun u => u.outbox) (fun _ _ => rfl) (fun _ _ _ => rfl)

/-! ## Rings, the fabric's record, samples -/

@[simp] theorem State.ethRingAt_setEthRing (k j : Nat) (r : Ring) :
    (s.setEthRing k r).ethRingAt j = if j = k then some r else s.ethRingAt j := sget_sset _ _ _ _ _

@[simp] theorem State.setEthRing_host (k : Nat) (r : Ring) :
    { (s.setEthRing k r).host with rings := s.host.rings } = s.host := by rfl
@[simp] theorem State.setEthRing_cores (k : Nat) (r : Ring) : (s.setEthRing k r).cores = s.cores := by rfl
@[simp] theorem State.setEthRing_gddr (k : Nat) (r : Ring) : (s.setEthRing k r).gddr = s.gddr := by rfl
@[simp] theorem State.setEthRing_outbox (k : Nat) (r : Ring) : (s.setEthRing k r).outbox = s.outbox := by rfl

@[simp] theorem State.modFabSys_eq (f : Fab → Fab) : s.modFabSys f = { s with fab := f s.fab } := by rfl

/-- A first sample is always taken; a later one once the period is over. -/
theorem sampleDue_iff (last : Option DWord) (period : Nat) (now : DWord) :
    sampleDue last period now = true ↔ ∀ t, last = some t → t.toNat + period ≤ now.toNat := by
  cases last <;> simp [sampleDue]

/-- A ring is polled while it moves data, the first time, and 940 ticks after the last. -/
theorem Ring.due_iff (r : Ring) (now : DWord) :
    r.due now = true ↔ r.moving = true ∨ ∀ t, r.polled = some t → t.toNat + 940 ≤ now.toNat := by
  cases h : r.polled <;> simp [Ring.due, h]

end Sys2Proof.Machine
end

