-- ==== Sys2Proof/Tests/Slice0.lean ====
section
/-! SUPPORT. Small tests: each theorem meets the hypotheses of a statement on a concrete state, and where the spec gives
the value, checks what the command leaves. Expected values are the spec's or hand calculation from it. -/

open Sys2Proof
open Sys2Proof.Machine

set_option maxRecDepth 40000
set_option Elab.async false

namespace Sys2Proof.Tests

/-- The state a command leaves (every command answers a next state). -/
def nx (c : Instr) (s : State) : State :=
  match exec c s with
  | .next t => t
  | _ => s

/-- The module after reset, with GDDR7 zeroed so that tests have bytes to compare. -/
def base : State := { State.reset with gddr := { State.reset.gddr with mem := Mem.zero } }

/-- Core 0 of logical site 0 changed. -/
def onCore (f : Core → Core) (s : State := base) : State := s.modCore 0 f

/-- The IMEM image of these bytes at address 0. -/
def image (bs : List Byte) : Mem := Mem.zero.setBytes 0 bs

theorem sealedNow_none (s : State) (h : s.sec.seals = []) (i : Nat) : s.sealedNow i = false := by
  simp [State.sealedNow, State.seal, h, sget, SealSt.init]

/-! ## The control core -/

/-- Core 0 with its control core changed. -/
def onCc (f : Cc → Cc) (s : State := base) : State := onCore (fun c => { c with cc := f c.cc }) s

/-- The bundle of the worked example of 08 R240, running, with x7 = 0A60h. -/
def ccEx : State := onCc (fun c => { c with
  st := .running
  imemA := image [0x0B, 0x00, 0x1E, 0x38, 0xD8, 0x28, 0xD0, 0x39, 0x20, 0x00, 0x20, 0x42, 0x00, 0x40, 0x00, 0xD0, 0xFF, 0x0F]
  regs := [(7, 0x0A60)] })

/-- One control slot: header 2 and the word of slot S1. -/
def s1Ex (w : List Byte) : State := onCc (fun c => { c with st := .running, imemA := image ([0x02, 0x00] ++ w) })

/-- TQ.BEACON 123h with its group enabled. -/
def bcnEx : State := onCc (fun c => { c with ctl := { c.ctl with beaconMask := 0x10 } }) (s1Ex [0x2D, 0x00, 0x23, 0x01])

theorem witness_CcStartsAndPauses :
    base.key 0 0 = some 0 ∧ (base.core 0).cc.st = .stopped ∧
    ((nx (.ccStart 0 0 5 true true) base).core 0).cc.pc = 5 ∧ ((nx (.ccStart 0 0 5 true true) base).core 0).cc.bank = true ∧
    ((nx (.ccStart 0 0 5 true true) base).core 0).cc.st = .running ∧
    ((nx (.ccStart 0 0 5 true true) ccEx).core 0).cc.pc = 0 ∧ ((nx (.ccCtlPause 0 0 true) ccEx).core 0).cc.st = .paused ∧
    ((nx (.ccCtlPause 0 0 false) (nx (.ccCtlPause 0 0 true) ccEx)).core 0).cc.st = .running ∧
    ((nx (.ccDbgResume 0 0) (onCc (fun c => { c with st := .debugHalted }))).core 0).cc.st = .running := by decide +kernel

/-- R250: the active bank's version is kept, the other bank's changes. R261: an empty beacon queue, and one record. -/
theorem witness_CcVersionsAndBeacons :
    (ccEx.core 0).cc.activeBank = some false ∧
    ((nx (.ccImemVerWrite 0 0 1 2) ccEx).core 0).cc.verB = 0 ∧
    ((nx (.ccImemVerWrite 0 0 1 2) ccEx).core 0).cc.cause = 0x10 ∧
    (nx (.ccImemVerWrite 0 0 1 2) ccEx).outbox = [.refusedWrite] ∧
    ((nx (.ccImemVerWrite 0 0 0 2) ccEx).core 0).cc.verB = 2 ∧
    (base.core 0).cc.beacons = [] ∧
    ((nx (.bundle 0 0 .clean .clean) bcnEx).core 0).cc.beacons.map Beacon.num = [0x123] ∧
    ((nx (.beaconQueueDrain 0 0) (nx (.bundle 0 0 .clean .clean) bcnEx)).alms.map
      (fun e => (e.2.kind, e.2.payload.take 2))) = [(0x20, [0x23, 0x01])] := by decide +kernel

/-- R260: debug enabled in state 0; x0 discards writes; a running core ignores them. -/
theorem witness_CcXregAccess :
    let d := onCc (fun c => { c with ctl := { c.ctl with dbgEn := true } })
    d.dbgEn 0 = true ∧ ((nx (.ccXregAccess 0 0 3 (some 9)) d).core 0).cc.reg 3 = 9 ∧
    ((nx (.ccXregAccess 0 0 0 (some 9)) d).core 0).cc.reg 0 = 0 ∧
    (nx (.ccXregAccess 0 0 7 none) ccEx).outbox = [.readReg 0] := by decide +kernel

/-- R231: the four kinds of memory, at their first and last places. -/
theorem witness_CoreWindow :
    base.siteField (logicalReq .host) 0 = some 0 ∧ base.dark 0 = false ∧ (∀ i, base.sealedNow i = false) ∧
    (base.core 0).cc.imemBusy = [] ∧ (base.core 0).cc.dmemPoison = [] ∧ (base.core 0).busyTiles = [] ∧
    (base.core 0).me.accPoison = [] :=
  ⟨by decide, by decide, sealedNow_none base (by decide), by decide, by decide, by decide, by decide⟩

theorem test_window_write :
    ((nx (.coreWindowAccess .host 0 0 0x3FFFFC (.write [1, 2, 3, 4]) []) base).core 0).sp.get 0x3FFFFF = 4 ∧
    ((nx (.coreWindowAccess .host 0 0 0x64FFFC (.write [1, 2, 3, 4]) []) base).core 0).cc.dmem.get 0xFFFD = 2 ∧
    ((nx (.coreWindowAccess .host 0 0 0x600000 (.write [1, 2, 3, 4]) []) ccEx).core 0).cc.cause = 0x10 ∧
    ((nx (.coreWindowAccess .host 0 0 0x620004 (.write [1, 2, 3, 4]) []) ccEx).core 0).cc.imemBusy = [(true, 4, [1, 2, 3, 4])] ∧
    (nx (.coreWindowAccess .host 0 0 0x600000 (.read 4) []) ccEx).outbox = [.reply [0x0B, 0x00, 0x1E, 0x38]] ∧
    (nx (.coreWindowAccess .host 0 0 0x500000 (.read 4) []) ccEx).outbox = [.reply [0, 0, 0, 0]] := by decide +kernel

/-- R240's worked example: the ME receives 0x0FFFD00043004220 and x7 becomes 0A80h. -/
theorem test_bundle_worked_example :
    ((nx (.bundle 0 0 .clean .clean) ccEx).core 0).me.queue.map QEntry.word = [0x0FFFD00043004220] ∧
    ((nx (.bundle 0 0 .clean .clean) ccEx).core 0).cc.reg 7 = 0x0A80 ∧
    ((nx (.bundle 0 0 .clean .clean) ccEx).core 0).cc.pc = 9 := by decide +kernel

/-- The hypotheses of `Obligations.Bundles` hold of the worked example; with a full ME queue it stalls whole. -/
theorem witness_Bundles :
    let b := fetchBundle ((ccEx.core 0).cc.imem false) 0
    let o0 := b.s0.bind decodeScalar
    let o1 := b.s1.bind decodeS1
    let full := onCore (fun c => { c with me := { c.me with queue := List.replicate 64 { num := 1, word := 0, addr := 0, bank := false, slot := 3, order := 0 } } }) ccEx
    (ccEx.core 0).cc.st.fetches = true ∧ ccEx.pwr.level = 0 ∧ (ccEx.core 0).cc.ctl.pause = false ∧ b.header = 0x0B ∧
    o1 = some (.imm 0x10 7 7 32) ∧ inconsistent b (o0.toList ++ o1.toList) none = false ∧ ccEx.dbgEn 0 = false ∧
    patched b (patchesOf (o0.toList ++ o1.toList)) (ccEx.core 0).cc = [(.me, 0x0FFFD00043004220)] ∧ (ccEx.core 0).cc.eng = 7 ∧
    (nx (.bundle 0 0 .clean .clean) full).core 0 = { full.core 0 with cc := { (full.core 0).cc with
      st := .queueWait, perf := { (full.core 0).cc.perf with stallMe := 1 } } } := by decide +kernel

/-- R237, R256: TQ.B with off −1 wraps in the bank; TQ.STOP records its code. -/
theorem test_bundle_control :
    ((nx (.bundle 0 0 .clean .clean) (s1Ex [0x20, 0x00, 0xFF, 0xFF])).core 0).cc.pc = 0xFFFF ∧
    ((nx (.bundle 0 0 .clean .clean) (s1Ex [0x2E, 0x00, 0x34, 0x12])).core 0).cc.stopCode = 0x1234 ∧
    ((nx (.bundle 0 0 .clean .clean) (s1Ex [0x2E, 0x00, 0x34, 0x12])).core 0).cc.cause = 0x200 := by decide +kernel

/-- 08 R228: a core of a sealed context keeps CC_DBG.en as it is. R255: a paused core starts paused, with its loops disarmed.
R231: a 4-byte write into a poisoned word of DMEM changes nothing, a tile in use spoils, a hole reads 0. -/
theorem witness_CcClauses :
    let sealed := { (onCore (fun c => { c with ctx := some 0, cc := { c.cc with ctl := { c.cc.ctl with dbgEn := true } } })) with
      sec := { base.sec with seals := [(0, { SealSt.init with state := 2 })] } }
    let poisoned := onCc (fun c => { c with dmemPoison := [(0, true)] })
    let pz := onCc (fun c => { c with ctl := { c.ctl with pause := true } })
    sealed.coreSealed 0 = true ∧ (sealed.regRead .host (siteRegBase + 0x28)).getLsbD 0 = false ∧
    ((nx (.registerWrite .host (BitVec.ofNat 48 (siteRegBase + 0x28)) 0) sealed).core 0).cc.ctl.dbgEn = true ∧
    ((nx (.ccStart 0 0 5 false true) pz).core 0).cc.st = .paused ∧ (nx (.ccStart 0 0 5 false false) base) = base ∧
    nx (.ccStart 0 0 5 true true) ccEx = ccEx ∧
    ((nx (.coreWindowAccess .host 0 0 0x640000 (.write [1, 2, 3, 4]) []) poisoned).core 0).cc.dmem.get 0 = 0 ∧
    ((nx (.coreWindowAccess .host 0 0 0x640000 (.write [1, 2, 3, 4, 5, 6, 7, 8]) []) poisoned).core 0).cc.dmem.get 7 = 8 ∧
    (nx (.coreWindowAccess .host 0 0 0x7FFFC0 (.read 64) []) base).outbox = [.reply (List.replicate 64 0)] ∧
    (nx (.beaconQueueDrain 0 0) base) = base := by decide +kernel

/-! ## The matrix engine -/

/-- A command of core 0's queue: number 1, its word. -/
def cmd (w : DWord) : QEntry := { word := w, addr := 0, bank := false, slot := 3, num := 1, order := 1 }

/-- Core 0 with one ME command waiting. -/
def meQ (w : DWord) (s : State := base) : State :=
  onCore (fun c => { c with me := { c.me with queue := [cmd w] }, cc := { c.cc with meCnt := { c.cc.meCnt with issued := 1 } } }) s

/-- Core 0 with its ME changed. -/
def onMe (f : Me → Me) (s : State := base) : State := onCore (fun c => { c with me := f c.me }) s

/-- Tile `t` of core 0. -/
def tileOf (s : State) (t : Nat) : Tile := sget (fun _ => Tile.zero) (s.core 0).me.tiles t

theorem witness_MeTilesAndMasks :
    reservedBits (cmd 0x0000800C04000010).w (meMaskOf 0x10) = false ∧
    ((nx (.meFeed 0 0) (meQ 0x0000800C04000010)).core 0).me.feed 0 =
      some { fmt := 1, hqSrc := false, trans := false, addr := 3, pitch := 1 } ∧
    reservedBits (cmd 0x21).w (meMaskOf 0x21) = false ∧ (base.core 0).cc.dmemPoison = [] ∧
    ((nx (.meMask 0 ⟨0, []⟩) (meQ 0x21 (onCc (fun c => { c with dmem := image [0x81] })))).core 0).me.rmask = 0x81 ∧
    (base.core 0).tileRead 2 1 = false ∧ (base.core 0).tileWritten 2 1 = false ∧
    ((nx (.mePin 0 0) (meQ 0x02000040)).core 0).me.pinned = 4 ∧
    ((nx (.mePin 0 0) (meQ 0x02000040)).core 0).cc.meCnt = { issued := 1, started := 1, done := 1, early := [] } ∧
    ((nx (.meSeal 0 0) (meQ 0x02000041 (onMe (fun m => { m with pinned := 4 })))).core 0).me.sealedT = 4 ∧
    ((nx (.meZero 0 0) (meQ 0x02000032 (onMe (fun m => { m with pinned := 4 })))).core 0).me.cause = 0x10 ∧
    ((nx (.meSeal 0 0) (meQ 0x02000041)).core 0).me.cause = 0x10 := by decide +kernel

/-- A 1 × 1 product of BF16 2.0 by 3.0 over K = 1 (03 R80). -/
def mmaEx : State := onCore (fun c => { c with sp := (c.sp.setBytes 0 [0x00, 0x40]).setBytes 512 [0x40, 0x40] })
  (onMe (fun m => { m with feeds := [(0, some { fmt := 1, hqSrc := false, trans := false, addr := 0, pitch := 1 }),
    (1, some { fmt := 1, hqSrc := false, trans := false, addr := 1, pitch := 1 })] }) (meQ 0x0000000100000020))

theorem witness_MeLoadsAndProducts :
    reservedBits (cmd 0x0000000100000020).w (meMaskOf 0x20) = false ∧ pairOk 1 1 = true ∧
    mmaEx.feedsOk 0 { fmt := 1, hqSrc := false, trans := false, addr := 0, pitch := 1 }
      { fmt := 1, hqSrc := false, trans := false, addr := 1, pitch := 1 } 1 1 1 = true ∧
    (mmaEx.core 0).me.arrayFree = true ∧ mmaEx.meCap 0 = 8 ∧
    (tileOf (nx (.meMmaTileComplete 0 0 [] []) (nx (.meMma 0 0 []) mmaEx)) 0).get 0 = 0x40C00000 ∧
    ((nx (.meMmaTileComplete 0 0 [] []) (nx (.meMma 0 0 []) mmaEx)).core 0).cc.meCnt.done = 1 ∧
    reservedBits (cmd 0x000001F801000031).w (meMaskOf 0x31) = false ∧ fld (cmd 0x000001F801000031).w 28 13 = 0x1F80 ∧
    (base.core 0).spPoison = [] ∧
    ((nx (.meLdacc 0 ⟨0, []⟩) (meQ 0x000001F801000031)).core 0).cc.meCnt.started = 1 := by decide +kernel

/-- A plain store of one FP32 value of tile 0 as BF16 at scratchpad offset 400h (03 R91). -/
def stEx : State := onCore (fun c => { c with
    se := { c.se with tdescs := [(0, some {
      base := 0x200000000400, allocBase := 0x200000000400, allocSize := 64, fmt := 1, dir := true, aw := 0
      padWrite := false, rank := 2, padMode := false, kind := 0, scatAdd := false, aux := 0, idxDim := 0, padValue := 0
      size := [1, 1], stride := [1, 1], padLo := [0, 0], padHi := [0, 0] })] }
    cc := { c.cc with dmem := image [0, 0, 0, 0x8D] } }) (onMe (fun m => { m with queue := [cmd 0x80000030] })
      (nx (.meMmaTileComplete 0 0 [] []) (nx (.meMma 0 0 []) mmaEx)))

/-- The product of mmaEx with its row checked (03 R89): sum column 6.0, magnitude column 6.0. -/
def chkEx : State := onMe (fun m => { m with jobs := m.jobs.map (fun j =>
  { j with work := .mma 0 [(0, 0x40C00000)] [{ row := 0, sum := 0x40C00000, mag := 0x40C00000 }] [] 1 0 }) })
  (nx (.meMma 0 0 []) mmaEx)

theorem witness_MeProductIsChecked :
    ((nx (.meMmaTileComplete 0 0 [] []) chkEx).core 0).me.cause = 0 ∧
    ((nx (.meMmaTileComplete 0 0 [(0, 0x00800000)] []) chkEx).core 0).me.cause = 1 ∧
    ((nx (.meMmaTileComplete 0 0 [] [(0, 0x00800000, 0)]) chkEx).core 0).me.cause = 1 ∧
    (nx (.meMmaTileComplete 0 0 [] [(0, 0x00800000, 0)]) chkEx).gis.urgent = [{ leaf := .me 0, bit := 0, tick := 0, arg := 0 }] := by
  decide +kernel

theorem witness_MeStores :
    reservedBits (cmd 0x80000030).w (meMaskOf 0x30) = false ∧
    ((stEx.core 0).cc.dmemRead 0 32).map (fun b => ((decodePlan b).ok, (decodePlan b).tdesc)) = some (true, 0) ∧
    (resolve (stEx.core 0).se.desc { write := true, scatter := false, scale := false } 0).map (fun r => r.d.fmt) = some 1 ∧
    ((nx (.meStComplete 0 0) (nx (.meSt 0 0 []) stEx)).core 0).sp.bytes 0x400 4 = [0xC0, 0x40, 0, 0] ∧
    ((nx (.meStComplete 0 0) (nx (.meSt 0 0 []) stEx)).core 0).me.jobs = [] := by decide +kernel

theorem witness_MeArray :
    (base.core 0).me.bcastActive = true ∧ reservedBits (cmd 0x50).w (meMaskOf 0x50) = false ∧
    ((nx (.meSelftestDone 0 0 4) (nx (.meSelftest 0 0) (meQ 0x50))).core 0).me.test = 4 ∧
    ((nx (.meSelftestDone 0 0 4) (nx (.meSelftest 0 0) (meQ 0x50))).core 0).me.cause = 0x80 ∧
    ((nx (.bcastModeSwitch 0 0) (nx (.meCtlBcastWrite 0 0 false) base)).core 0).me.bcastActive = false ∧
    ((nx (.activityLevelBoundary 0 0 false) (nx (.meMma 0 0 []) mmaEx)).core 0).me.level = 1 ∧
    ((nx (.activityLevelBoundary 0 0 false) (onMe (fun m => { m with level := 3 }))).core 0).me.level = 2 := by decide +kernel

/-- 03 R81, R83: PIN, ZERO and MMA wait while an earlier store reads the tile, and at level cap 0. R84: SEAL of a sealed tile
and PIN of a pinned one are skipped. R87: the level falls by one above the cap, and stands before six cycles have passed. -/
theorem witness_MeClauses :
    let busy (w : DWord) := onMe (fun m => { m with
      queue := [{ cmd w with num := 2, order := 2 }]
      jobs := [{ q := cmd 0x30, work := .store 2 [] false false false false false }] })
    let sealed := onMe (fun m => { m with pinned := 4, sealedT := 4 }) (meQ 0x02000041)
    let hot (at_ : Option DWord) : State := { onMe (fun m => { m with level := 3, levelAt := at_ }) with tick := 10, pwr := { base.pwr with thermCap := 2 } }
    let capped : State := { mmaEx with pwr := { base.pwr with thermCap := 0 } }
    ((busy 0x02000032).core 0).tileRead 2 2 = true ∧ nx (.meZero 0 0) (busy 0x02000032) = busy 0x02000032 ∧
    nx (.mePin 0 0) (busy 0x02000040) = busy 0x02000040 ∧
    ((nx (.meSeal 0 0) sealed).core 0).me.cause = 0x10 ∧ ((nx (.meSeal 0 0) sealed).core 0).cc.errSeq = 1 ∧
    ((nx (.mePin 0 0) (meQ 0x02000040 (onMe (fun m => { m with pinned := 4 })))).core 0).me.cause = 0x10 ∧
    ((nx (.activityLevelBoundary 0 0 false) (hot none)).core 0).me.level = 2 ∧
    ((nx (.activityLevelBoundary 0 0 false) (hot (some 5))).core 0).me.level = 3 ∧
    ((nx (.activityLevelBoundary 0 0 false) (hot (some 4))).core 0).me.level = 2 ∧
    ((nx (.activityLevelBoundary 0 0 true) (onCore (fun c => { c with ve := { c.ve with level := 1, credit := 5 } }))).core 0).ve.credit = 0 ∧
    capped.meCap 0 = 0 ∧ nx (.meMma 0 0 []) capped = capped ∧
    ((nx (.meFeed 0 0) (meQ 0x0000800C1A000010)).core 0).me.scaleOk = 1 := by decide +kernel

/-- 12 R366: a store whose protected block waits for parity stays, marked as landed; 03 R84: a releasing store of a sealed
tile clears both marks. -/
theorem witness_MeStoreClauses :
    let job (ws : List Wr) (rel : Bool) := onMe (fun m => { m with pinned := 4, sealedT := 4, jobs := [{ q := cmd 0x30, work := .store 2 ws rel false false false false }] })
    let prot : State := { job [{ a := 0x100000000000, b := 7, mask := 0xFF }] false with sb := { base.sb with en := true, state := 2 } }
    let t := nx (.meStComplete 0 0) prot
    prot.wrGone { a := 0x100000000000, b := 7, mask := 0xFF } = false ∧ prot.othersOnWay (.me 0) = [] ∧
    t.protBusy [{ a := 0x100000000000, b := 7, mask := 0xFF }] = true ∧
    (t.core 0).me.jobs.map MeJob.work = [.store 2 [{ a := 0x100000000000, b := 7, mask := 0xFF }] false false false false true] ∧
    ((nx (.meStComplete 0 0) (job [] true)).core 0).me.pinned = 0 ∧ ((nx (.meStComplete 0 0) (job [] true)).core 0).me.sealedT = 0 ∧
    ((nx (.meStComplete 0 0) (job [] false)).core 0).me.pinned = 4 := by decide +kernel

/-! ## The vector engine -/

/-- Core 0 with one VE command waiting. -/
def veQ (w : DWord) (s : State := base) : State :=
  onCore (fun c => { c with ve := { c.ve with queue := [cmd w] }, cc := { c.cc with veCnt := { c.cc.veCnt with issued := 1 } } }) s

/-- A chain of one instruction, EP.ADD OUT ← ONE + ONE, writing one FP32 value at scratchpad offset 400h (04 R113–R121). -/
def chainEx : State := onCore (fun c => { c with
    se := { c.se with tdescs := [(0, some {
      base := 0x200000000400, allocBase := 0x200000000400, allocSize := 64, fmt := 0, dir := true, aw := 0
      padWrite := false, rank := 2, padMode := false, kind := 0, scatAdd := false, aux := 0, idxDim := 0, padValue := 0
      size := [1, 1], stride := [1, 1], padLo := [0, 0], padHi := [0, 0] })] }
    cc := { c.cc with dmem := (image [1, 0, 0, 0, 0, 0, 0xFF, 0xFF, 0xFF, 0xFF, 0xFF, 0xFF]).setBytes 128 [0x02, 0x52, 0x0A, 0x00] } })
  (veQ 0x60)

theorem witness_VeChains :
    let ch := decodeChain (chainEx.core 0).cc 0
    reservedBits (cmd 0x60).w (veMaskOf 0x60) = false ∧ chainPoisoned (chainEx.core 0).cc 0 ch = false ∧
    (chainEx.core 0).chainCheck 0 ch = none ∧ (chainEx.veResolve 0 true ch.w).isSome = true ∧
    ch.ports = [0xFFFF, 0xFFFF, 0xFFFF] ∧ chainEx.veCap = 8 ∧ ch.accEn = false ∧ ch.hqIn = 0 ∧ ch.hqOut = 0 ∧
    ((nx (.veChain 0 0 []) chainEx).core 0).ve.chain.isSome = true ∧
    ((nx (.veChainComplete 0 0) (nx (.veChain 0 0 []) chainEx)).core 0).sp.bytes 0x400 5 = [0, 0, 0, 0x40, 0] ∧
    ((nx (.veChainComplete 0 0) (nx (.veChain 0 0 []) chainEx)).core 0).cc.veCnt.done = 1 := by decide +kernel

/-- R131: a load of lookup table L0's shadow bank, two entries from scratchpad 400h; the bank active is refused. -/
theorem witness_VeTables :
    let s := veQ 0x0000040054000070 (onCore (fun c => { c with sp := c.sp.setBytes 0x400 [1, 0, 0, 0, 2, 3, 0, 0] }))
    reservedBits (cmd 0x0000040054000070).w (veMaskOf 0x70) = false ∧ (base.core 0).ve.posBank = 0 ∧
    fld (cmd 0x0000040054000070).w 29 13 = 2 ∧
    (sget (fun _ => VTable.init) ((nx (.veTloadDone 0 0) (nx (.veTload 0 ⟨0, []⟩) s)).core 0).ve.tables 9).n = 2 ∧
    (sget (fun _ => VTable.init) ((nx (.veTloadDone 0 0) (nx (.veTload 0 ⟨0, []⟩) s)).core 0).ve.tables 9).words.get 1 = 0x302 ∧
    ((nx (.veTload 0 ⟨0, []⟩) (veQ 0x0000040044000070)).core 0).ve.cause = BitVec.ofNat 9 (2 ^ veTblActive) ∧
    reservedBits (cmd 0x04000071).w (veMaskOf 0x71) = false ∧
    ((nx (.tswapTakesEffect 0 0 4) (nx (.veTswap 0 0) (veQ 0x04000071))).core 0).ve.bank = 0x10 ∧
    ((nx (.tswapTakesEffect 0 0 3) (nx (.veTswap 0 0) (veQ 0x04000071))).core 0).ve.bank = 0 := by decide +kernel

/-- 04 R112, R131: a chain waits behind a swap that has not taken effect and at level cap 0; another table's boundary leaves
the swap. R130: a segment table's image has scale and off before its 16-byte entries. 07 R210: the end of a chain pushes the
handle it acquired and releases the one it popped. -/
theorem witness_VeClauses :
    let swap := onCore (fun c => { c with ve := { c.ve with swaps := [(cmd 0x04000071, 4)] } }) chainEx
    let capped : State := { chainEx with pwr := { base.pwr with govCap := 0 } }
    let seg := veQ 0x0000040008000070 (onCore (fun c => { c with
      sp := (c.sp.setBytes 0x0 [1, 0, 0, 0, 2, 0, 0, 0]).setBytes 0x10 [5, 0, 0, 0, 6, 0, 0, 0, 7, 0, 0, 0] }))
    let v := sget (fun _ => VTable.init) ((nx (.veTloadDone 0 0) (nx (.veTload 0 ⟨0, []⟩) seg)).core 0).ve.tables 1
    let j : ChainJob := { ((nx (.veChain 0 0 []) chainEx).core 0).ve.chain.getD
      { q := cmd 0x60, writes := [], hqIn := none, hqOut := none, permOor := false, rowEmpty := false, nan := false, inf := false, sat := false, tiles := [], banks := [] } with hqIn := some 3, hqOut := some 4 }
    let hs := onCore (fun c => { c with
      ve := { c.ve with chain := some j }
      se := { c.se with hqs := [(3, { Hq.init with pops := 1, pushes := 1, acquires := 1 }), (4, { Hq.init with acquires := 1 })] } })
    swap.veCap = 8 ∧ (swap.core 0).ve.chainHeld = true ∧ nx (.veChain 0 0 []) swap = swap ∧ capped.veCap = 0 ∧
    nx (.veChain 0 0 []) capped = capped ∧ nx (.tswapTakesEffect 0 0 3) swap = swap ∧
    (v.n, v.scale, v.off) = (2, 1, 2) ∧ v.words.get 0 = 5 ∧ v.words.get 2 = 7 ∧
    ((nx (.veChainComplete 0 0) hs).hq 0 3).releases = 1 ∧ ((nx (.veChainComplete 0 0) hs).hq 0 4).pushes = 1 := by decide +kernel

/-! ## The stream engine -/

/-- Core 0 with one SE command waiting. -/
def seQ (w : DWord) (s : State := base) : State :=
  onCore (fun c => { c with se := { c.se with queue := [cmd w] }, cc := { c.cc with seCnt := { c.cc.seCnt with issued := 1 } } }) s

def onSe (f : Se → Se) (s : State := base) : State := onCore (fun c => { c with se := f c.se }) s

/-- The image of a plain FP32 descriptor of eight elements in the core's own scratchpad (06 R169): `hi` is byte 1 of its
address, `dir` byte 18. -/
def descImg (hi dir : Byte) : List Byte :=
  [0, hi, 0, 0, 0, 0x20, 0, hi, 0, 0, 0, 0x20, 0x20, 0, 0, 0, 0, 0, dir, 1, 0xFF, 0xFF, 0, 0, 0, 0, 0, 0, 7, 0, 0] ++
    List.replicate 17 0 ++ [1, 0, 0, 0] ++ List.replicate 76 0

/-- DMEM holds these bytes from 0. -/
def dm (bs : List Byte) (s : State := base) : State := onCc (fun c => { c with dmem := image bs }) s

/-- Queue 3: two buffers of 512 bytes at scratchpad 1000h, producer stream context 1, consumer stream context 2 (07 R206). -/
def hqImg (prod cons : Byte) : List Byte := [8, 0, 1, 0, 2, prod, cons, 0]

theorem witness_SeTables :
    reservedBits (cmd 0x00000000050000A0).w (seMaskOf (cmd 0x00000000050000A0).w) = false ∧
    ((dm (descImg 4 0x10)).core 0).cc.dmemRead 0 128 = some (descImg 4 0x10) ∧
    base.descCheck 0 (descImg 4 0x10) = none ∧
    (((nx (.seTdesc 0 ⟨0, []⟩) (seQ 0x00000000050000A0 (dm (descImg 4 0x10)))).core 0).se.desc 5).map Desc.base = some 0x200000000400 ∧
    ((nx (.seTdesc 0 ⟨0, []⟩) (seQ 0x00000000050000A0 (dm (descImg 4 0x30)))).core 0).se.desc 5 = none ∧
    ((nx (.seHqcfg 0 ⟨0, []⟩) (seQ 0x03000090 (dm (hqImg 2 3)))).core 0).se.cause = 0 ∧
    ((nx (.seHqcfg 0 ⟨0, []⟩) (seQ 0x03000090 (dm (hqImg 2 3)))).hq 0 3).cfg.map HqCfg.count = some 2 ∧
    ((nx (.seHqcfg 0 ⟨0, []⟩) (seQ 0x03000090 (dm (hqImg 0 3)))).core 0).se.cause ≠ 0 ∧
    ((nx (.seMcast 0 0) (seQ 0x0000000050000098)).core 0).se.ctxs.map (fun x => x.2.group) = [some (.die 5)] := by decide +kernel

theorem witness_SeFencesAndPauses :
    let late := onSe (fun e => { e with waits := [{ endpoint := 2, hq := 3, acq := false, rsite := 0, rcore := 0, since := 0, stalled := false }] })
      { base with tick := 940001 }
    ((nx (.fenceComplete 0 0) (nx (.seFence 0 0) (seQ 0x010000A8))).core 0).se.fenceCnt = 1 ∧
    ((nx (.seFence 0 0) (seQ 0x010000A8)).core 0).se.fence.isSome = true ∧
    ((nx (.seCtlPause 0 0 true) base).core 0).se.pause = true ∧
    ((nx (.hqStall 0 0 2) late).core 0).se.cause = 0x2000 ∧
    ((nx (.hqStall 0 0 2) { late with tick := 940000 }).core 0).se.cause = 0 := by decide +kernel

/-- A program of these instructions (07 R194), its header zero but for the instruction count. -/
def progImg (n : Byte) (ws : List DWord) : List Byte := [n] ++ List.replicate 15 0 ++ ws.flatMap (fun w => leBytes 8 w.toNat)

/-- SP.XFER from descriptor 0 to descriptor 1, eight elements, class 1. -/
def xferW : DWord := 0x0020000001C02003

/-- Descriptors 0 (read, scratchpad 200h) and 1 (write, 400h), the program XFER, END at DMEM 0, and bytes at 200h. -/
def xferEx (w : DWord) : State :=
  onCore (fun c => { c with
    sp := c.sp.setBytes 0x200 [1, 2, 3, 4, 5, 6, 7, 8]
    se := { c.se with tdescs := [(0, some (decodeDesc (descImg 2 0))), (1, some (decodeDesc (descImg 4 0x10)))] } })
    (seQ w (dm (progImg 1 [xferW, 0xF])))

theorem witness_SePrograms :
    let a := nx (.seStart 0 ⟨0, []⟩) (xferEx 0x80)
    let b := nx (.transferComplete 0 0 0) (nx (.spXfer 0 0 0 ⟨true, []⟩) a)
    base.progCheck 0 0 (progImg 1 [0, 0xF]) [0, 0xF] = none ∧
    reservedBits (cmd 0x80).w (seMaskOf (cmd 0x80).w) = false ∧
    ((xferEx 0x80).core 0).cc.dmemRead 0 32 = some (progImg 1 [xferW, 0xF]) ∧
    ((a.core 0).se.ctx 0).running = true ∧ ((a.core 0).se.ctx 0).prog.map SProg.code = some [xferW, 0xF] ∧
    (a.core 0).cc.seCnt.started = 1 ∧
    (b.core 0).sp.bytes 0x400 9 = [1, 2, 3, 4, 5, 6, 7, 8, 0] ∧ (b.core 0).se.xferCnt = 1 ∧
    ((nx (.spEnd 0 0 0) b).core 0).cc.seCnt.done = 1 ∧ (((nx (.spEnd 0 0 0) b).core 0).se.ctx 0).running = false ∧
    ((nx (.transferComplete 0 0 0) (nx (.seCopy 0 0 ⟨true, []⟩) (xferEx 0x0001001000000088))).core 0).sp.bytes 0x400 9 =
      [1, 2, 3, 4, 5, 6, 7, 8, 0] := by decide +kernel

/-- Stream context `x` of core 0 runs and stands at instruction `w`. -/
def atEx (w : DWord) (x : Nat := 1) (s : State := base) : State :=
  onSe (fun e => { e with ctxs := [(x, { SeCtx.init with
    running := true, q := some (cmd 0x80), x := [0, 0, 0, 0, 0, 0], y := [0, 0, 0, 0, 0, 0]
    prog := some { roundTag := 0, roundSeq := 0, indexBase := 0, g16k := 0, code := [w, 0x2, 0xF] } })] }) s

theorem atEx_atInstr (w : DWord) : AtInstr (atEx w) 0 1 w :=
  ⟨by rfl, by rfl, by rfl, by show base.pwr.level.toNat < 3; decide, by rfl, { roundTag := 0, roundSeq := 0, indexBase := 0, g16k := 0, code := [w, 0x2, 0xF] }, by rfl, by rfl⟩

/-- R196: a loop of two iterations steps X[1] by −1 and leaves it as it was; SP.SETX Y[2] := −2; SP.WAITT 5 at tick 0. -/
theorem witness_SpControl :
    let lp := nx (.spLoop 0 0 1) (atEx 0x00003FFC80000081)
    ((lp.core 0).se.ctx 1).loops.map SLoop.left = [2] ∧
    nth ((nx (.spEndl 0 0 1) lp).core 0 |>.se.ctx 1).x 1 0 = 0xFFFFFFFF ∧
    ((nx (.spEndl 0 0 1) lp).core 0 |>.se.ctx 1).pc = 1 ∧
    nth ((nx (.spEndl 0 0 1) (nx (.spEndl 0 0 1) lp)).core 0 |>.se.ctx 1).x 1 0 = 0 ∧
    ((nx (.spEndl 0 0 1) (nx (.spEndl 0 0 1) lp)).core 0 |>.se.ctx 1).pc = 2 ∧
    nth ((nx (.spSetx 0 0 1) (atEx 0xFFFFFE58)).core 0 |>.se.ctx 1).y 2 0 = 0xFFFFFFFE ∧
    ((nx (.spWaitt 0 0 1) (atEx 0x59)).core 0 |>.se.ctx 1).waitTick = 5 ∧
    ((nx (.spWaittTickReached 0 0 1) { nx (.spWaitt 0 0 1) (atEx 0x59) with tick := 5 }).core 0 |>.se.ctx 1).pc = 1 ∧
    ((nx (.spNop 0 0 1) (atEx 0)).core 0 |>.se.ctx 1).pc = 1 := by decide +kernel

/-- Queue 3 of core 0 configured, producer stream context 1, consumer stream context 2. -/
def hqEx : State := nx (.seHqcfg 0 ⟨0, []⟩) (seQ 0x03000090 (dm (hqImg 2 3)))

theorem witness_SpQueues :
    let acq := nx (.spAcq 0 0 1) (atEx 0x34 1 hqEx)
    let held := onSe (fun e => { e with ctxs := [(1, { e.ctx 1 with pc := 0, prog := some {
      roundTag := 0, roundSeq := 0, indexBase := 0, g16k := 0, code := [0x35] } })] }) acq
    let pushed := nx (.spPush 0 0 1) held
    let popped := nx (.spPop 0 0 2) (atEx 0x36 2 pushed)
    let held2 := onSe (fun e => { e with ctxs := [(2, { e.ctx 2 with pc := 0, prog := some {
      roundTag := 0, roundSeq := 0, indexBase := 0, g16k := 0, code := [0x37] } })] }) popped
    (atEx 0x34 1 hqEx).mayProduce 0 1 0 3 = true ∧ (acq.hq 0 3).acquires = 1 ∧ (pushed.hq 0 3).ready = 1 ∧
    pushed.mayConsume 0 2 3 = true ∧ (popped.hq 0 3).pops = 1 ∧ (popped.hq 0 3).heldC ≠ 0 ∧
    ((nx (.spRel 0 0 2) held2).hq 0 3).releases = 1 ∧
    ((nx (.spPop 0 0 2) (atEx 0x36 2 hqEx)).core 0).se.waits.map HqWait.endpoint = [3] := by decide +kernel

/-- R211: core 0 of site 0 consumes queue 3 with a remote producer, context 1 of core 1; a credit and a push arrive. -/
def remEx : State := nx (.seHqcfg 0 ⟨0, []⟩) (seQ 0x03000090 (dm [8, 0, 1, 0, 2, 2, 3, 1, 0, 1]))

theorem witness_RemoteNotices :
    remEx.notices.map Notice.start = [true] ∧
    ((nx (.releaseNotice 0 0 3) remEx).core 1).se.remotes = [(remoteKey 0 0 3, 2)] ∧
    (nx (.releaseNotice 0 0 3) remEx).notices = [] := by decide +kernel

theorem witness_SpTransfers :
    let a := nx (.seStart 0 ⟨0, []⟩) (xferEx 0x80)
    let t := nx (.spXfer 0 0 0 ⟨true, []⟩) a
    AtInstr a 0 0 xferW ∧ xSrcRel xferW = false ∧ xDstRel xferW = false ∧
    ((t.core 0).se.ctx 0).inflight.map (fun f => (f.landed, f.poison, f.lost, f.sealedOut)) = [(false, false, false, false)] ∧
    t.protBusy [] = false :=
  ⟨⟨by decide +kernel, by decide +kernel, by decide +kernel, by decide +kernel, by decide +kernel,
    { roundTag := 0, roundSeq := 0, indexBase := 0, g16k := 0, code := [xferW, 0xF] }, by decide +kernel, by decide +kernel⟩,
   by decide, by decide, by decide +kernel, by decide +kernel⟩

/-- 06 R166: an invalidated entry. 07 R206: SE.HQCFG of a queue with a handle not free is hq_busy, of a cleared record
removes it. R193: SE.COPY of unequal sizes is bad_shape; a fence that names a running context stays open. -/
theorem witness_SeTableClauses :
    let busyHq := seQ 0x03000090 (dm (hqImg 2 3) (onSe (fun e => { e with hqs := [(3, { ((hqEx.hq 0 3)) with acquires := 1 })] }) hqEx))
    let uneven := onCore (fun c => { c with se := { c.se with tdescs := [(0, some (decodeDesc (descImg 2 0))),
      (1, some { decodeDesc (descImg 4 0x10) with size := [4] })] } }) (seQ 0x0001001000000088)
    let fence := nx (.seFence 0 0) (seQ 0x020000A8 (atEx 0))
    ((nx (.seTdesc 0 ⟨0, []⟩) (seQ 0x00000002000000A0 (onSe (fun e => { e with tdescs := [(0, some (decodeDesc (descImg 2 0)))] })))).core 0).se.desc 0 = none ∧
    ((nx (.seHqcfg 0 ⟨0, []⟩) busyHq).core 0).se.cause = 0x400 ∧ ((nx (.seHqcfg 0 ⟨0, []⟩) busyHq).hq 0 3).acquires = 1 ∧
    (decodeHqCfg (List.replicate 32 0)).clears = true ∧
    ((nx (.seHqcfg 0 ⟨0, []⟩) (seQ 0x03000090 (dm (List.replicate 32 0) hqEx))).hq 0 3).cfg = none ∧
    ((nx (.seCopy 0 0 ⟨true, []⟩) uneven).core 0).se.cause = 8 ∧
    ((fence.core 0).se.ctx 1).running = true ∧ nx (.fenceComplete 0 0) fence = fence ∧ nx (.seFence 0 0) fence = fence := by decide +kernel

/-- 07 R200, R201, R227: a transfer without mesh credit waits with wait_kind 7; with credit the context goes on. R222: a
paused engine runs no instruction. R208, R214: an acquire of a full queue waits with kind 2, one without credit with kind 3. -/
theorem witness_SpWaitClauses :
    let a := nx (.seStart 0 ⟨0, []⟩) (xferEx 0x80)
    let dry := nx (.spXfer 0 0 0 ⟨false, []⟩) a
    let paused := nx (.seCtlPause 0 0 true) (atEx 0)
    let full := onSe (fun e => { e with hqs := [(3, { hqEx.hq 0 3 with acquires := 2 })] }) (atEx 0x34 1 hqEx)
    let own := nx (.seHqcfg 0 ⟨0, []⟩) (seQ 0x03000090 (dm [8, 0, 1, 0, 2, 2, 3, 1, 0, 0]))
    let wait := nx (.spAcq 0 0 1) (atEx 0x34 1 own)
    let got := nx (.spAcq 0 0 1) (atEx 0x34 1 (nx (.releaseNotice 0 0 3) own))
    let pushed := nx (.spPush 0 0 1) (onSe (fun e => { e with ctxs := [(1, { e.ctx 1 with pc := 0, prog := some {
      roundTag := 0, roundSeq := 0, indexBase := 0, g16k := 0, code := [0x35] } })] }) got)
    ((dry.core 0).se.ctx 0).waitKind = 7 ∧ ((dry.core 0).se.ctx 0).pc = 0 ∧ ((dry.core 0).se.ctx 0).inflight = [] ∧
    ((nx (.spXfer 0 0 0 ⟨true, []⟩) a).core 0 |>.se.ctx 0).pc = 1 ∧
    nx (.spNop 0 0 1) paused = paused ∧
    ((nx (.spAcq 0 0 1) full).core 0 |>.se.ctx 1).waitKind = 2 ∧
    own.hqRemote 0 3 = true ∧ own.mayProduce 0 1 0 3 = true ∧ ((wait.core 0).se.ctx 1).waitKind = 3 ∧
    (got.core 0).se.remotes = [(remoteKey 0 0 3, 1)] ∧ ((got.core 0).se.ctx 1).pc = 1 ∧
    pushed.notices.map Notice.push = [true] ∧ ((nx (.remotePush 0 0 3) pushed).hq 0 3).pushes = 1 := by decide +kernel

/-- 12 R366: a landed transfer whose protected block waits for parity stays in its slot; 01 R27: none of the sites is gone. -/
theorem witness_TransferClauses :
    let f : Xfer := {
      writes := [{ a := 0x100000000000, b := 7, mask := 0xFF }], srcs := [], nan := false, inf := false, sat := false,
      poison := false, lost := false, sealedOut := false, mc := false, landed := false }
    let s : State := { onSe (fun e => { e with ctxs := [(1, { SeCtx.init with running := true, inflight := [f] })] }) with
      sb := { base.sb with en := true, state := 2 } }
    let t := nx (.transferComplete 0 0 1) s
    f.landed = false ∧ s.wrGone { a := 0x100000000000, b := 7, mask := 0xFF } = false ∧
    t.protBusy f.writes = true ∧ ((t.core 0).se.ctx 1).inflight.map Xfer.landed = [true] ∧ (t.core 0).se.xferCnt = 0 := by decide +kernel

/-! ## The orrery -/

/-- GDDR7 holds these runs. -/
def mem (l : List (Nat × List Byte)) (s : State := base) : State :=
  { s with gddr := { s.gddr with mem := l.foldl (fun m x => m.setBytes x.1 x.2) s.gddr.mem } }

/-- Firmware runs; context 0 runs on logical site 0, its rings of 16 at 10000h and 20000h, its policy at 30000h. -/
def ctxEx (f : Ctx → Ctx := id) (s : State := base) : State :=
  { s with
    orr := { s.orr with fwState := 2, image := some (readImage []), opened := true }
    ctxs := [(0, f { Ctx.init with
      st := .running
      desc := { CtxDesc.init with sites := 1, subAddr := 0x10000, subN := 16, cplAddr := 0x20000, cplN := 16, policyAddr := 0x30000 } })] }

/-- A submission entry of this kind for core 0 of site 0 (13 R404): pc 5, bank 0, sequence number 7. -/
def entryB (kind : Byte) : List Byte := [kind, 1, 0, 0, 7, 0, 0, 0, 1, 0, 0, 0, 0, 0, 0, 0, 1, 0, 0, 0, 5]

/-- Context 0 has claimed one entry of this kind. -/
def entryEx (kind : Byte) (f : Ctx → Ctx := id) (g : Entry → Entry := id) (s : State := base) : State :=
  ctxEx (fun c => f { c with entries := [g (readEntry (entryB kind ++ List.replicate 43 0) 0)] }) s

/-- A policy record (09 R298): σ 3 within −8 to 16, decrement 1, grow after 2 steps, header at DMEM 40h, timeout 47,000. -/
def policyB : List Byte := [3, 0xF8, 16, 1, 2, 0, 0, 0, 0, 1, 0, 0, 0x40, 0, 0, 0, 0x98, 0xB7, 0, 0]

def stepEx : State := entryEx 3 (fun c => { c with desc := { c.desc with training := true } }) (fun e => { e with pc := 0, step := 9 })
  (mem [(0x30000, policyB)])

theorem witness_EntriesAndSteps :
    ((entryEx 4).nextEntry 0 4).isSome = true ∧ (((nx (.mark 0) (entryEx 4)).ctx 0).entries.map Entry.finished) = [true] ∧
    ((entryEx 2).nextEntry 0 2).isSome = true ∧ (entryEx 2).paceReached 0 = true ∧
    ((nx (.start 0) (entryEx 2)).core 0).cc.st = .running ∧ ((nx (.start 0) (entryEx 2)).core 0).cc.pc = 5 ∧
    ((nx (.start 0) (entryEx 2)).core 1).cc.st = .stopped ∧
    (stepEx.nextEntry 0 3).isSome = true ∧ stepEx.heldMember 0 = false ∧ stepEx.trellisReady 0 = true ∧
    (readPolicy (stepEx.oread 0x30000 64)).map Policy.sigmaInit = some 3 ∧
    ((nx (.step 0) stepEx).srec 0).sigma = 3 ∧ ((nx (.step 0) stepEx).core 31).cc.dmem.bytes 0x40 4 = [9, 0, 0, 0] ∧
    ((nx (.step 0) (mem [(0x30003, [9])] stepEx)).srec 0).outcome = 5 := by decide +kernel

/-- R405: the record of a finished START: sequence number 7, status 0, no stop code; the irq flag is set. -/
theorem test_completion_record :
    let s := nx (.entryFinished 0) (entryEx 2 id (fun e => { e with started := true }))
    (s.ctx 0).cplProd = 1 ∧ s.onat 0x20000 8 = 1 ∧ s.oread 0x20080 10 = [7, 0, 0, 0, 0, 0, 0, 0, 0, 0] ∧
    s.host.plic.getLsbD 1 = true := by decide +kernel

/-- A LOAD of 64 bytes from 40000h into DMEM 100h. -/
def loadEx (m : Bool) : State := entryEx 1 id (fun e => { e with
  src := 0x40000, len := 64, target := 1, dst := 0x100, measured := m }) (mem [(0x40000, [0xAB, 0xCD])])

theorem witness_LoadWritesItsImage :
    ((loadEx false).nextEntry 0 1).isSome = true ∧ (loadEx false).sec.ch1.busy = false ∧
    bfld (nx (.load 0) (loadEx false)).sec.ch1.record 8 8 = 0x40000 ∧ (nx (.load 0) (loadEx false)).sec.ch1.busy = true ∧
    ((nx (.load 0) (loadEx true)).core 0).cc.dmem.bytes 0x100 3 = [0xAB, 0xCD, 0] ∧
    ((nx (.load 0) (loadEx true)).ctx 0).entries.map Entry.status = [0] := by decide +kernel

/-- 14 R435: a LOAD into IMEM claimed before the context was keyed is refused. 13 R398: nothing of a context of a crashed
core starts or is reported. R405: a START of a context that is switched out is not over. -/
theorem test_what_is_not_served :
    let keyed := entryEx 1 (fun c => { c with desc := { c.desc with sealedCtx := true } }) (fun e => { e with
      src := 0x40000, len := 64, target := 2 }) { base with sec := { base.sec with seals := [(0, { SealSt.init with state := 2 })] } }
    let ended (f : Ctx → Ctx) := entryEx 2 f (fun e => { e with started := true })
    let crashed (s : State) := s.setOc 0 { s.oc 0 with role := 2 }
    (keyed.nextEntry 0 1).map (keyed.entryRefused 0) = some true ∧
    ((nx (.load 0) keyed).ctx 0).entries.map (fun e => (e.finished, e.status)) = [(true, 3)] ∧
    (ended id).served 0 = true ∧ (crashed (entryEx 2)).served 0 = false ∧
    nx (.start 0) (crashed (entryEx 2)) = crashed (entryEx 2) ∧
    nx (.entryFinished 0) (crashed (ended id)) = crashed (ended id) ∧ nx (.mark 0) (crashed (entryEx 4)) = crashed (entryEx 4) ∧
    ((nx (.entryFinished 0) (ended id)).ctx 0).entries = [] ∧
    ((nx (.entryFinished 0) (ended (fun c => { c with saved := [(0, some Core.init)] }))).ctx 0).entries.length = 1 := by decide +kernel

theorem witness_SchedulingAndWatch :
    let s := mem [(0x10000, [1]), (0x10080, entryB 2)] (ctxEx (fun c => { c with oc := 1 }))
    let ready := ctxEx (fun c => { c with oc := 1, st := .ready })
    let drain := { ready with orr := { ready.orr with draining := true } }
    let paced := ctxEx (fun c => { c with desc := { c.desc with paced := true }, paceOn := true, pStart := 0, pLen := 9400, period := 4 })
      { base with tick := 9400 }
    (s.oc 1).role = 0 ∧ s.orr.lead = 0 ∧ s.stalledWait 0 = false ∧
    ((nx (.schedulingTick 1) s).ctx 0).entries.map Entry.seq = [7] ∧ ((nx (.schedulingTick 1) s).oread 0x10040 1) = [1] ∧
    drain.wants 0 = true ∧ drain.occupants 0 = [] ∧ ((nx (.schedulingTick 1) drain).ctx 0).st = .running ∧
    ((nx (.schedulingTick 1) drain).core 31).ctx = some 0 ∧
    paced.periodPopped 0 = true ∧ ((nx (.pacedPeriodEnd 0) paced).ctx 0).period = 5 ∧
    ((nx (.pacedPeriodEnd 0) paced).ctx 0).pStart = 9400 := by decide +kernel

theorem test_quantum_watchdog_takeover :
    let q := ctxEx (fun c => { c with desc := { c.desc with quantum := 9400, lean := true } }) { base with tick := 9400 }
    let q2 := { q with ctxs := q.ctxs ++ [(1, { Ctx.init with st := .ready, desc := { CtxDesc.init with sites := 1 } })] }
    let w := ctxEx id { base with tick := 0x4970 }
    q.quantumOver 0 = true ∧ ((nx (.quantumExpiry 0) q).ctx 0).switching = false ∧
    q2.wants 1 = true ∧ q2.displaces 1 0 = true ∧ ((nx (.quantumExpiry 0) q2).ctx 0).switching = true ∧
    ((nx (.watchdogExpiry 1) w).oc 1).role = 2 ∧ ((nx (.watchdogExpiry 1) w).oc 1).takeover = some 4 ∧
    (nx (.watchdogExpiry 1) w).orr.cause = 1 ∧ ((nx (.takeoverComplete 4) (nx (.watchdogExpiry 1) w)).oc 4).role = 0 ∧
    ((nx (.takeoverComplete 4) (nx (.watchdogExpiry 0) w))).orr.lead = 4 := by decide +kernel

/-! ## The admin ring -/

/-- A driver is attached to the admin area at 100000h and its first entry waits. -/
def admEx (b : List Byte) (s : State := ctxEx) : State :=
  mem [(0x100000, [1]), (0x100080, b)] { s with orr := { s.orr with attached := true, adminOk := true, adminBase := 0x100 } }

/-- A context descriptor (13 R399) for context 2 on site 1: rings of 16 at 50000h and 60000h, policy 70000h, saves at 1000000h. -/
def ctxDescB : List Byte :=
  [2, 0, 3, 0, 0, 0, 0, 0, 2, 0, 0, 0, 0, 0, 0, 0, 0, 0, 0, 0, 0, 0, 0, 0, 0, 0, 5, 0, 0, 0, 16, 0, 0, 0, 6, 0, 0, 0, 16, 0, 0, 0, 7, 0, 0, 0,
   0, 0, 0, 0, 0, 0, 0, 0, 0, 1, 0, 0]

theorem witness_ContextAdmin :
    let b : List Byte := [1, 0, 0, 0, 9, 0, 0, 0, 0, 0, 8, 0, 0, 0]
    let s := mem [(0x80000, ctxDescB)] (admEx b)
    let t := nx .ctxCreate s
    let d := admEx [2, 0, 0, 0, 9] (ctxEx (fun c => { c with destroying := true }))
    s.adminOpen = true ∧ s.adminIdxBad = false ∧ s.adminFront = some (b ++ List.replicate 50 0) ∧
    s.descBad (ctxDescB ++ List.replicate 70 0) (readDesc (ctxDescB ++ List.replicate 70 0)) = false ∧
    (t.ctx 2).st = .ready ∧ (t.ctx 2).desc.prio = 3 ∧ t.orr.adminProd = 1 ∧ t.host.plic.getLsbD 17 = true ∧
    (nx .ctxCreate (mem [(0x80003, [1])] s)).oread 0x108080 5 = [9, 0, 0, 0, 3] ∧
    ((nx .ctxDestroy d).ctx 0).st = .free ∧
    ((nx .ctxHold (admEx [3])).ctx 0).st = .held ∧
    ((nx .ctxHold (admEx [3] (entryEx 2 id (fun e => { e with started := true })))).ctx 0).held = true ∧
    ((nx .ctxResume (admEx [4] (ctxEx (fun c => { c with st := .held })))).ctx 0).st = .ready := by decide +kernel

theorem witness_ResourceAdmin :
    let stash := admEx [0x10, 0, 0, 0, 1, 0, 0, 0, 1, 0, 0, 0, 0, 0, 0, 0, 1, 0, 0x30, 0, 0, 0, 0, 0, 1]
    let fab := mem [(0x80000, [0x08, 0x30])] (admEx [0x11, 0, 0, 0, 1, 0, 0, 0, 0, 0, 8, 0, 0, 0, 0, 0, 1])
    let mc := admEx [0x12, 0, 0, 0, 1, 0, 0, 0, 63, 0, 0, 0, 0, 0, 0, 0, 5]
    let eth := admEx [0x13, 0, 0, 0, 1, 0, 0, 0, 2, 15, 0, 0, 0, 0, 0, 0, 0, 0, 9, 0, 0, 0, 0, 0, 8]
    (sget (fun _ => Stash.init) (nx .stashSet stash).gddr.stash 1).en = true ∧
    (nx .stashSet stash).oread 0x108080 5 = [1, 0, 0, 0, 0] ∧
    (nx .mcastSet mc).grid.mcast = [(63, 5)] ∧ (nx .mcastSet mc).onat 0x108000 8 = 1 ∧ (nx .mcastSet mc).oread 0x100040 1 = [1] ∧
    (sget (fun _ => none) (nx .ethRing eth).host.rings (ethKey 2 true 7)) = some { base := 0x90000, count := 8, cursor := 0, polled := none, moving := false } ∧
    fabItems [(0, 0)] fab = none ∧ (nx .fabCfg fab).oread 0x108080 5 = [1, 0, 0, 0, 3] := by decide +kernel

/-- R394: a notice with the CRC of its block sets the block's bit, one with another value clears it. R395: an empty slot
fails check 2. -/
theorem witness_FirmwareIsLoaded :
    let v : DWord := BitVec.ofNat 64 ((crc32c (List.replicate 64 0)).toNat * 2 ^ 32 + 64 * 256 + 3)
    let rom : State := { admEx [0x20, 0, 0, 0, 1] with orr := { (admEx [0x20, 0, 0, 0, 1]).orr with fwState := 0 } }
    (nx (.orrLoadBlk v) base).orr.loadMap0 = 8 ∧ (nx (.orrLoadBlk (v ^^^ 0x100000000)) base).orr.loadMap0 = 0 ∧
    (nx (.orrLoadBlk (v ^^^ 0x100000000)) base).orr.cause = 0x80 ∧
    rom.adminOpen = true ∧ rom.adminIdxBad = false ∧ (rom.slotImage false).1 = 2 ∧
    (nx .fwLoad rom).orr.loadResult = 3 ∧ (nx .fwLoad rom).orr.cause = 0x100 ∧
    (nx .fwUpdate (admEx [0x21, 0, 0, 0, 1])).orr.loadResult = 3 := by decide +kernel

theorem witness_DriverAndConfirmation :
    let lost := { admEx [] with tick := 0x59A5381 }
    let held := admEx [0x23] (ctxEx (fun c => { c with st := .held }))
    let gone := admEx [0x23, 0, 0, 0, 0, 0, 0, 0, 1] (ctxEx (fun c => { c with st := .free }))
    let conf := { base with orr := { base.orr with
      fwState := 3, image := some (readImage []), confirmEnd := some 5, hbChanged := true
      cores := (List.range 20).map (fun c => (c, { (base.oc c) with ticked := true })) } }
    (nx .detach (admEx [0x22])).orr.draining = true ∧ (nx .detach (admEx [0x22])).orr.attached = false ∧
    ((nx .reattach held).ctx 0).st = .ready ∧ (nx .reattach gone).orr.hold = false ∧
    (nx (.orrAdminBaseWrite 0x7FFF) base).orr.adminBase = 7 ∧ (nx (.orrAdminBaseWrite 0x7FFF) held).orr.adminBase = 0x100 ∧
    (nx .attach (mem [(0x40, [9])])).orr.adminCons = 9 ∧ (nx .attach base).orr.attached = true ∧
    (nx .driverHeartbeatLoss lost).orr.attached = false ∧ (nx .driverHeartbeatLoss lost).orr.cause = 0x20 ∧
    (nx .driverHeartbeatLoss { lost with tick := 0x59A5380 }).orr.attached = true ∧
    conf.confirmReady = true ∧ (nx (.orrHealthConfirm (.orrery 3)) conf).orr.fwState = 2 ∧
    (nx (.orrHealthConfirm .host) conf).orr.fwState = 3 ∧
    (nx .confirmWindowExpiry { conf with tick := 5 }).orr.hold = true ∧
    (nx .confirmWindowExpiry { conf with tick := 5 }).orr.cause.getLsbD 9 = true := by decide +kernel

/-- 13 R404: with no such entry open, before its period or on a second STEP the entry waits; an index beyond the ring is
none. 11 R354: a period that ends late starts the next one late and is an Almanac entry. 13 R401: a quantum pauses the cores
of a context that is not lean. -/
theorem witness_EntryClauses :
    let late := ctxEx (fun c => { c with desc := { c.desc with paced := true }, paceOn := true, pStart := 0, pLen := 9400, period := 4, pFinish := 9500 })
      { base with tick := 9500 }
    let early : State := { late with tick := 9399 }
    let q := ctxEx (fun c => { c with desc := { c.desc with quantum := 9400 } }) { base with tick := 9400 }
    let q2 : State := { q with ctxs := q.ctxs ++ [(1, { Ctx.init with st := .ready, desc := { CtxDesc.init with sites := 1 } })] }
    nx (.mark 0) (entryEx 2) = entryEx 2 ∧ nx (.start 0) (entryEx 4) = entryEx 4 ∧
    ((nx (.pacedPeriodEnd 0) late).ctx 0).pStart = 9500 ∧ (nx (.pacedPeriodEnd 0) late).almHead = 1 ∧
    nx (.pacedPeriodEnd 0) early = early ∧
    q2.displaces 1 0 = true ∧ ((nx (.quantumExpiry 0) q2).core 31).cc.ctl.pause = true ∧
    nx (.quantumExpiry 0) (nx (.quantumExpiry 0) q2) = nx (.quantumExpiry 0) q2 ∧ nx (.quantumExpiry 0) q = q := by decide +kernel

/-- 13 R399, R406: a descriptor outside the driver's memory and one with a non-zero reserved byte are refused; CTX_DESTROY
waits for its cores, and frees an idle unsealed context; CTX_HOLD of a free context and CTX_RESUME of a running one fail. -/
theorem witness_AdminClauses :
    let create (b : List Byte) := (nx .ctxCreate (admEx b)).oread 0x108080 5
    let busy := admEx [2, 0, 0, 0, 9] (onMe (fun m => { m with jobs := [{ q := cmd 0x30, work := .store 2 [] false false false false false }] })
      (onCore (fun c => { c with ctx := some 0 }) ctxEx))
    create [1, 0, 0, 0, 9, 0, 0, 0, 0, 0xF0, 0xFF, 0xFF, 0xFF, 0xFF] = [9, 0, 0, 0, 3] ∧
    create [1, 0, 0, 0, 9, 0, 0, 0, 0, 0, 8, 0, 0, 0] = [9, 0, 0, 0, 3] ∧
    ((nx .ctxDestroy busy).ctx 0).destroying = true ∧ (nx .ctxDestroy busy).orr.adminCons = 0 ∧
    (nx .ctxDestroy (admEx [2, 0, 0, 0, 9, 0, 0, 0, 1])).oread 0x108080 5 = [9, 0, 0, 0, 3] ∧
    (nx .ctxHold (admEx [3, 0, 0, 0, 9, 0, 0, 0, 1])).oread 0x108080 5 = [9, 0, 0, 0, 3] ∧
    (nx .ctxResume (admEx [4, 0, 0, 0, 9])).oread 0x108080 5 = [9, 0, 0, 0, 3] ∧
    (nx .stashSet (admEx [0x10, 0, 0, 0, 9, 0, 0, 0, 4])).oread 0x108080 5 = [9, 0, 0, 0, 3] ∧
    (nx .fabCfg (admEx [0x11, 0, 0, 0, 9])).oread 0x108080 5 = [9, 0, 0, 0, 3] ∧
    (nx .mcastSet (admEx [0x12, 0, 0, 0, 9, 0, 0, 0, 64])).oread 0x108080 5 = [9, 0, 0, 0, 3] ∧
    (nx .ethRing (admEx [0x13, 0, 0, 0, 9, 0, 0, 0, 3])).oread 0x108080 5 = [9, 0, 0, 0, 3] ∧
    (nx .fwLoad (admEx [0x20, 0, 0, 0, 9])).oread 0x108080 5 = [9, 0, 0, 0, 3] ∧
    (nx .fwUpdate (admEx [0x21, 0, 0, 0, 9, 0, 0, 0, 2])).oread 0x108080 5 = [9, 0, 0, 0, 3] ∧
    (nx .reattach (admEx [0x23, 0, 0, 0, 9, 0, 0, 0, 2])).oread 0x108080 5 = [9, 0, 0, 0, 3] := by decide +kernel

/-- 13 R398: before its limit, out of service or with no takeover pending nothing changes; with no spare left an in-service
core takes over. R416: before the window ends it stands. -/
theorem witness_OrreryClauses :
    let crowd := ctxEx id { base with tick := 0x4970, orr := { base.orr with cores := (List.range 20).map (fun j => (j, { base.oc j with role := 0 })) } }
    let w := ctxEx id { base with tick := 0x496F }
    nx (.watchdogExpiry 1) w = w ∧ nx (.watchdogExpiry 19) { w with tick := 0x4970 } = { w with tick := 0x4970 } ∧
    nx (.takeoverComplete 4) w = w ∧ ((nx (.watchdogExpiry 1) crowd).oc 1).takeover = some 2 ∧
    (nx (.takeoverComplete 2) (nx (.watchdogExpiry 1) crowd)).orr.cause.getLsbD 2 = true ∧
    nx (.schedulingTick 19) w = w ∧ nx (.schedulingTick 1) base = base ∧ nx .confirmWindowExpiry w = w ∧
    nx .driverHeartbeatLoss w = w ∧ nx (.orrLoadBlk 0x3F00) w = w ∧ nx .attach (admEx []) = admEx [] := by decide +kernel

/-! ## Training steps -/

/-- Two primaries, addresses 1 and 2, epoch 5; this module is the one of this rank. -/
def pair (rank : Nat) (s : State) : State :=
  { s with
    fab := { s.fab with addr := BitVec.ofNat 13 (rank + 1), lodestar := 1 }
    ctxs := s.ctxs.map (fun x => (x.1, { x.2 with membership := some {
      epoch := 5, members := [{ addr := 1, backupOf := 0, role := 0 }, { addr := 2, backupOf := 0, role := 0 }] } })) }

/-- Context 0 is in this phase of step 9 under the policy record above. -/
def trainEx (phase : Nat) (f : StepRec → StepRec := id) (s : State := base) : State :=
  ctxEx (fun c => { c with
    policy := readPolicy (policyB ++ List.replicate 44 0)
    srec := f { c.srec with step := 9, phase := phase, started := true, epoch := 5, sigma := 3 } }) s

/-- A good vote word for step 9. -/
def voteOf (rank : Half) : VoteWord :=
  { step := 9, epoch := 5, finite := true, complete := true, healthy := true, mirrorOk := true, seenCommit := false, earlyAbort := false, rank := rank }

theorem witness_StepVotes :
    let fwd : State := { trainEx 1 with orr := { (trainEx 1).orr with fwdBeacons := [(0, 9)] } }
    let tal := pair 1 (trainEx 3)
    let early := pair 1 (onCore (fun c => { c with ctx := some 0, cc := { c.cc with numStat := { c.cc.numStat with nan := true } } })
      (ctxEx (fun c => { c with policy := (readPolicy (policyB ++ List.replicate 44 0)).map (fun p => { p with earlyAbort := true }),
                                srec := { c.srec with step := 9, phase := 2, started := true, epoch := 5 } })))
    ((nx (.forwardEndBeacon 0) fwd).srec 0).phase = 2 ∧
    (fwd.ctxCores 0).all (fun x => (fwd.core x.2.2).finished) = true ∧
    ((nx (.bwdEnd 0) (trainEx 2)).srec 0).phase = 3 ∧ (nx (.bwdEnd 0) (trainEx 2)).outbox = [.tally 0] ∧
    tal.ctxSelf 0 = { n := 2, epoch := 5, role := 0, rank := 1 } ∧ treeChildren 2 1 = [] ∧
    (nx (.tallyResult 0) tal).outbox = [.vote { voteOf 1 with complete := true }] ∧
    (nx (.earlyAbort 0 0) early).outbox.length = 1 ∧ ((nx (.earlyAbort 0 0) early).srec 0).voted = true ∧
    treeChildren 2 0 = [1] ∧
    ((nx (.voteWord 0 (voteOf 0)) (pair 0 (trainEx 3))).srec 0).commit = none ∧
    ((nx (.voteWord 0 (voteOf 0)) (pair 0 (trainEx 3 (fun r => { r with votes := [voteOf 1] })))).srec 0).phase = 4 ∧
    ((nx (.voteWord 0 { voteOf 1 with earlyAbort := true, finite := false }) (pair 0 (trainEx 2))).srec 0).phase = 6 ∧
    (nx (.voteTimeout 0) { pair 1 (trainEx 3 (fun r => { r with voted := true })) with tick := 47000 }).outbox = [.decisionReq 9 5 1] ∧
    (nx (.decisionRequest 0 9 5 1) (trainEx 4 (fun r => { r with commit := some true }))).outbox =
      [.decide { step := 9, epoch := 5, commit := true, bits := 0 }] ∧
    (nx (.decisionRequest 0 8 5 1) (trainEx 4 (fun r => { r with lastDone := some 8 }))).outbox.length = 1 ∧
    (nx (.decisionRequest 0 8 5 1) (pair 1 (trainEx 3))).outbox = [.decisionReq 8 5 1] := by decide +kernel

/-- R281: with grow_interval 2, σ 3 rises to 4 at the second good step; a non-finite abort lowers it by dec = 1. -/
theorem witness_DecisionMovesSigma :
    let com : DecisionMsg := { step := 9, epoch := 5, commit := true, bits := 0x3F }
    let ab : DecisionMsg := { step := 9, epoch := 5, commit := false, bits := 0x04 }
    let one := nx (.decision 0 com) (trainEx 3)
    let two := nx (.decision 0 com) (trainEx 3 (fun r => { r with goodSteps := 1 }))
    let abt := nx (.decision 0 ab) (trainEx 3)
    (one.srec 0).sigma = 3 ∧ (one.srec 0).goodSteps = 1 ∧ (two.srec 0).sigma = 4 ∧ (two.srec 0).goodSteps = 0 ∧
    (two.srec 0).phase = 4 ∧ (abt.srec 0).sigma = 2 ∧ (abt.srec 0).phase = 6 ∧ (abt.ctx 0).st = .stopped := by decide +kernel

theorem witness_UpdateEndsTheStep :
    let up := pair 1 (trainEx 4)
    let root := pair 0 (trainEx 4 (fun r => { r with acks := [1] }))
    (nx (.updateFinished 0) up).outbox = [.ack 9 5 1] ∧
    ((nx (.commitAcknowledgement 0 9 5 0) (pair 0 (trainEx 4))).srec 0).acks = [0] ∧
    ((nx (.commitAcknowledgement 0 9 5 0) root).srec 0).phase = 5 ∧ (nx (.commitAcknowledgement 0 9 5 0) root).outbox = [.doneMsg 9 5] ∧
    ((nx (.done 0 9 5) up).srec 0).lastDone = some 9 ∧
    ((nx (.shardRestore 0) (trainEx 4 (fun r => { r with faulted := true }))).srec 0).restored = true := by decide +kernel

/-- R266, R291: behind the update of step 9 the next STEP entry begins step 10; a vote for its commit waits; DONE of step 9
ends its entry and leaves step 10 running. R405: the older entry keeps the stop code of the cores that were taken. -/
theorem test_next_step_runs_behind_the_update :
    let e (j : Nat) (step : Word) : Entry := { readEntry (entryB 3 ++ List.replicate 43 0) j with step := step, pc := 0 }
    let s := ctxEx (fun c => { c with
      policy := readPolicy (policyB ++ List.replicate 44 0), desc := { c.desc with training := true },
      srec := { c.srec with step := 9, phase := 4, started := true, epoch := 5, sigma := 3, commit := some true },
      entries := [{ e 0 9 with started := true, logAt := [(0, 0)] }, e 1 10] })
      (onCore (fun c => { c with cc := { c.cc with stopCode := 7 } }) (mem [(0x30000, policyB)]))
    let t := nx (.step 0) s
    let w := t.modSrec 0 (fun r => { r with phase := 3 })
    let d := nx (.done 0 9 5) (t.modUpd 0 (fun r => { r with epoch := 5 }))
    (t.srec 0).step = 10 ∧ (t.ctx 0).upd.map StepRec.step = some 9 ∧ ((t.ctx 0).entries.map Entry.started) = [true, true] ∧
    (t.ctx 0).entries.map (fun f => t.stopCodeOf f 0) = [7, 7] ∧ (t.ctx 0).entries.map (fun f => f.doneOn.length) = [1, 0] ∧
    voteWants (w.voteOf 0 false) = true ∧ ((nx (.tallyResult 0) w).srec 0).voted = false ∧
    (d.ctx 0).upd = none ∧ (d.srec 0).step = 10 ∧ (d.srec 0).phase = 1 ∧ (d.srec 0).cur = true ∧
    (d.ctx 0).entries.map Entry.finished = [true, false] := by decide +kernel

/-- R292: below max_repeats an aborted step goes back to its entry, and the next STEP runs it again under the lower σ. -/
theorem test_aborted_step_is_repeated :
    let s (ph : Nat) (sg : Int) (go : Bool) := ctxEx (fun c => { c with
      policy := readPolicy (policyB.set 9 3 ++ List.replicate 44 0), desc := { c.desc with training := true },
      srec := { c.srec with step := 9, phase := ph, started := true, epoch := 5, sigma := sg },
      entries := [{ readEntry (entryB 3 ++ List.replicate 43 0) 0 with step := 9, pc := 0, started := go }] })
      (mem [(0x30000, policyB.set 9 3)])
    let a := nx (.decision 0 { step := 9, epoch := 5, commit := false, bits := 0x04 }) (s 3 3 true)
    let b := nx (.step 0) (s 6 2 false)
    (a.srec 0).phase = 6 ∧ (a.srec 0).sigma = 2 ∧ (a.srec 0).repeats = 1 ∧ (a.ctx 0).st = .running ∧
    (a.ctx 0).entries.map Entry.started = [false] ∧
    (b.srec 0).phase = 1 ∧ (b.srec 0).step = 9 ∧ (b.srec 0).repeated = true ∧ (b.srec 0).sigma = 2 := by decide +kernel

/-! ## Trellis -/

/-- Tag 0: one unit at 40000h, expected count 2, retained at 50000h (10 R305); Trellis works on step 9. -/
def trEx (rank : Nat) (f : Trellis → Trellis := id) (s : State := trainEx 2) : State :=
  let s := pair rank s
  { s with
    xds := [(0, { Xd.init with tr := { TrDie.init with step := 9, en := true, cfgValid := true } })]
    trellis := f { s.trellis with cfg := some {
      ctx := 0, ctxKey := 0, stageAddr := 0x100000, stageMib := 1, foldAddr := 0x200000, foldMib := 1, complAddr := 0x60000, complN := 16
      tags := [{ units := 1, lenient := false, rnd := 0, ext := [(0x40000, 1)], expect := 2, ret := 0x50000 }] } } }

def hand (n : Byte) : List Byte := [0, 0, 9, 0, 0, 0, n] ++ List.replicate 57 0
def notice (rank : Half) : MemberNotice :=
  { step := 9, epoch := 5, tag := 0, rank := rank, shadow := false, nonfinite := false, poison := false, eMax := -3 }

theorem witness_BucketsAreReduced :
    let p := { trEx 1 with xds := [(0, { Xd.init with tr := { TrDie.init with step := 9, en := true, pendingTags := [0] } })] }
    let h : HeadRec := { tag := 0, step := 9, first := 0, notices := [notice 1], graceDone := false, closed := false }
    let late := { trEx 0 (fun t => { t with heads := [h] }) with tick := 0x2DE60 }
    ((nx (.trHandoff 0 (hand 1)) (trEx 1)).xd 0).tr.totals = [(0, 1)] ∧
    ((nx (.trHandoff 0 (hand 2)) (trEx 1)).xd 0).tr.pendingTags = [0] ∧
    ((nx (.trHandoff 0 (hand 3)) (trEx 1)).xd 0).tr.cause = 2 ∧
    p.isHead 0 = false ∧ p.self = { n := 2, epoch := 5, role := 0, rank := 1 } ∧
    ((nx (.bucketStart 0) p).xd 0).tr.pendingTags = [] ∧ (nx (.bucketStart 0) p).outbox.length = 2 ∧
    (trEx 0).isHead 0 = true ∧ ((nx (.memberNotice { notice 1 with epoch := 4 }) (trEx 0)).xd 0).tr.cause = 4 ∧
    (nx (.memberNotice (notice 0)) (trEx 0 (fun t => { t with heads := [h] }))).outbox.length = 1 ∧
    (nx (.memberNotice (notice 1)) (trEx 0 (fun t => { t with heads := [{ h with notices := [] }] }))).outbox = [] ∧
    ((nx (.bucketGraceExpiry ⟨0, 9⟩) late).xd 0).tr.cause = 8 ∧
    (nx (.bucketGraceExpiry ⟨0, 9⟩) { late with tick := 0x2DE5F }).trellis.heads = [h] := by decide +kernel

def segOf (rank : Half) : SegmentMsg := { tag := 0, step := 9, epoch := 5, seg := 0, rank := rank, shadow := false, data := [0x4000, 1] }
def closeOf : CloseNotice :=
  { step := 9, epoch := 5, tag := 0, kc := -24, lenient := false, backup := false, nonfinite := false, poison := false, excl := [],
    backups := [], folds := [], closeTick := 0 }

theorem witness_SegmentsAreReduced :
    (trEx 0).mySegs 0 { units := 1, lenient := false, rnd := 0, ext := [(0x40000, 1)], expect := 2, ret := 0x50000 } = [0] ∧
    (trEx 1).mySegs 0 { units := 1, lenient := false, rnd := 0, ext := [(0x40000, 1)], expect := 2, ret := 0x50000 } = [] ∧
    (nx (.segmentData (segOf 1)) (trEx 0)).trellis.staging.map Contrib.rank = [1] ∧
    ((nx (.segmentData { segOf 1 with epoch := 6 }) (trEx 0)).xd 0).tr.cause = 4 ∧
    (nx (.closeNotice closeOf) (trEx 1)).trellis.status.map Prod.fst = [0] ∧
    (nx (.writeBackData (segOf 0)) (trEx 1)).trellis.retained = [(0, 9, 0)] ∧
    (nx (.writeBackData (segOf 0)) (trEx 1)).oread 0x50000 4 = [0x00, 0x40, 1, 0] ∧
    (nx (.writeBackData (segOf 0)) (trEx 1 (fun t => { t with status := [(0, closeOf)] }))).trellis.complete = [(0, 9)] ∧
    ((nx (.writeBackData (segOf 0)) (trEx 1 (fun t => { t with status := [(0, closeOf)] }))).ctx 0).records = 1 := by decide +kernel

theorem witness_MembersAreWatched :
    let lead : State := { (trEx 0).setPort 5 { Port.init with state := 3, peer := 9 } with
      fab := { (trEx 0).fab with lodestar := 1, valid := true } }
    (trEx 1).hbTarget = some 1 ∧ (nx .heartbeatSend { trEx 1 with tick := 0x125C }).outbox = [.heartbeat 1 1 5 9 0x125C] ∧
    (nx (.heartbeat ⟨2, 1⟩ 5 9 0) { trEx 0 with tick := 7 }).trellis.watch = [(1, 7)] ∧
    (trEx 1).watched = [0] ∧ (trEx 0).watched = [1] ∧
    (nx (.heartbeatLimitExpiry ⟨1, none⟩) { trEx 0 with tick := 0xB798, fab := { (trEx 0).fab with lodestar := 7 } }).trellis.failed = [1] ∧
    (nx (.heartbeatLimitExpiry ⟨1, none⟩) { trEx 0 with tick := 0xB798, fab := { (trEx 0).fab with lodestar := 7 } }).outbox =
      [.failure 2 5 1 1] ∧
    lead.isLodestar = true ∧
    (nx (.failureReport 2 5 1 1) { lead with ctxs := lead.ctxs.map (fun x => (x.1, { x.2 with srec := { x.2.srec with phase := 0 } })) }
      ).fab.failedPeers = [2] := by decide +kernel

/-- The membership of context 0 with this module (address 2) as a shadow of rank 0 (role 1) or a spare (role 2). -/
def other (role : Nat) (s : State) : State :=
  { pair 1 s with ctxs := s.ctxs.map (fun x => (x.1, { x.2 with membership := some {
      epoch := 5, members := [{ addr := 1, backupOf := 0, role := 0 }, { addr := 2, backupOf := 0, role := role }] } })) }

/-- 09 R282–R284, R291–R293, 10 R300: a core that still runs holds BWD; a shadow sends no vote and no acknowledgement; the
root waits for its child's word, and decides with it; an exchange that is not over holds the vote; a timeout that has not
come, a request of another epoch and an acknowledgement or DONE of another step change nothing. -/
theorem witness_StepClauses :
    let runs := onCore (fun c => { c with cc := { c.cc with st := .running } }) (trainEx 2)
    let root := pair 0 (trainEx 3)
    let asked := pair 1 (trainEx 3 (fun r => { r with voted := true }))
    let late : State := { trainEx 2 with orr := { (trainEx 2).orr with fwdBeacons := [(0, 9)] } }
    let up := pair 1 (trainEx 4)
    nx (.bwdEnd 0) runs = runs ∧ ((nx (.forwardEndBeacon 0) late).srec 0).phase = 2 ∧ (nx (.forwardEndBeacon 0) late).orr.fwdBeacons = [] ∧
    ((nx (.tallyResult 0) (other 1 (trainEx 3))).srec 0).voted = true ∧ (nx (.tallyResult 0) (other 1 (trainEx 3))).outbox = [] ∧
    ((nx (.tallyResult 0) root).srec 0).votes.map VoteWord.rank = [0] ∧ ((nx (.tallyResult 0) root).srec 0).commit = none ∧
    ((nx (.tallyResult 0) (root.modSrec 0 (fun r => { r with votes := [voteOf 1] }))).srec 0).commit = some true ∧
    nx (.voteTimeout 0) asked = asked ∧ nx (.decisionRequest 0 9 4 1) asked = asked ∧
    (nx (.updateFinished 0) (other 1 (trainEx 4))).outbox = [] ∧ ((nx (.updateFinished 0) (other 1 (trainEx 4))).srec 0).acked = true ∧
    (nx (.commitAcknowledgement 0 9 5 0) up).outbox = [.ack 9 5 0] ∧ nx (.done 0 8 5) up = up ∧
    nx (.commitAcknowledgement 0 8 5 0) up = up := by decide +kernel

/-- 09 R291, R296: a faulted update is not acknowledged; SHARD_RESTORE pauses it, waits while a core of the step runs, then
lets its started entries run again, with parity valid. -/
theorem witness_UpdateClauses :
    let e : Entry := { readEntry (entryB 2 ++ List.replicate 43 0) 1 with started := true }
    let bad := ctxEx (fun c => { c with
      policy := readPolicy (policyB ++ List.replicate 44 0), subCons := 2, entries := [e]
      srec := { c.srec with step := 9, phase := 4, started := true, epoch := 5, faulted := true } })
      { base with sb := { base.sb with en := true, state := 2 } }
    let one := nx (.shardRestore 0) bad
    let busy := onCore (fun c => { c with stepNo := 9, cc := { c.cc with st := .running } }) one
    nx (.updateFinished 0) bad = bad ∧ (one.srec 0).restore = 1 ∧ (one.srec 0).restored = true ∧
    ((nx (.shardRestore 0) busy).srec 0).restore = 1 ∧ ((nx (.shardRestore 0) one).srec 0).restore = 2 ∧
    ((nx (.shardRestore 0) one).srec 0).faulted = false ∧ ((nx (.shardRestore 0) one).ctx 0).entries.map Entry.started = [false] ∧
    (nx (.shardRestore 0) one).sb.state = 2 := by decide +kernel

/-- The tag of trEx as a lenient one, with a fold limit of 3. -/
def lenEx (rank : Nat) (f : Trellis → Trellis := id) : State :=
  let s := trEx rank f
  { s with
    xds := s.xds.map (fun x => (x.1, { x.2 with tr := { x.2.tr with fold := 3 } }))
    trellis := { s.trellis with cfg := s.trellis.cfg.map (fun c => { c with tags := c.tags.map (fun t => { t with lenient := true }) }) } }

/-- 10 R300, R308, R311, R313, R317: a spare takes its bucket off and sends nothing; a non-finite notice sets its cause; a
rank's shadow backs it when grace is over, and a lenient tag closes without a rank that neither sent for; a late copy of a
rank closed without is kept for folding. -/
theorem witness_TrellisClauses :
    let p := (fun (s : State) => { s with xds := [(0, { Xd.init with tr := { TrDie.init with step := 9, en := true, pendingTags := [0] } })] })
    let h : HeadRec := { tag := 0, step := 9, first := 0, notices := [notice 1], graceDone := false, closed := false }
    let sh : HeadRec := { h with notices := [notice 1, { notice 0 with shadow := true }] }
    let excl : CloseNotice := { closeOf with step := 8, excl := [1] }
    let old := lenEx 0 (fun t => { t with status := [(0, excl)] })
    (nx (.bucketStart 0) (p (other 2 (trEx 1)))).outbox = [] ∧ ((nx (.bucketStart 0) (p (other 2 (trEx 1)))).xd 0).tr.pendingTags = [] ∧
    ((nx (.memberNotice { notice 1 with nonfinite := true }) (trEx 0)).xd 0).tr.cause = 0x200 ∧
    ((nx (.bucketGraceExpiry ⟨0, 9⟩) { trEx 0 (fun t => { t with heads := [sh] }) with tick := 0x2DE60 }).xd 0).tr.cause = 0x28 ∧
    ((nx (.bucketGraceExpiry ⟨0, 9⟩) { lenEx 0 (fun t => { t with heads := [h] }) with tick := 0x2DE60 }).xd 0).tr.cause = 0x18 ∧
    nx (.bucketGraceExpiry ⟨0, 8⟩) (trEx 0) = trEx 0 ∧ old.exclAt 0 8 1 = some true ∧ old.foldable 0 8 = true ∧
    (nx (.memberNotice { notice 1 with step := 8 }) old).trellis.folds.map FoldRec.rank = [1] ∧
    (nx (.segmentData { segOf 1 with step := 8 }) old).trellis.foldData.map Contrib.rank = [1] ∧
    (nx (.memberNotice (notice 1)) (trEx 1)) = trEx 1 ∧ (nx (.segmentData (segOf 1)) (trEx 1)) = trEx 1 ∧
    (nx (.closeNotice closeOf) (trEx 1 (fun t => { t with status := [(0, closeOf)] }))) = trEx 1 (fun t => { t with status := [(0, closeOf)] }) ∧
    (nx (.writeBackData (segOf 0)) (trEx 1 (fun t => { t with retained := [(0, 9, 0)] }))) = trEx 1 (fun t => { t with retained := [(0, 9, 0)] }) ∧
    ((nx (.writeBackData { segOf 0 with epoch := 4 }) (trEx 1)).xd 0).tr.cause = 4 := by decide +kernel

/-- 10 R310: with the staging area of a die full the segment waits. R318: a lone rank 0 is watched by its address, and
reported when it is silent; a module that finds the lodestar silent begins a generation. R319: a provisional lodestar only
notes the report; elsewhere a report changes nothing. -/
theorem witness_WatchClauses :
    let full := { trEx 0 with trellis := { (trEx 0).trellis with cfg := (trEx 0).trellis.cfg.map (fun c => { c with stageMib := 0 }) } }
    let lone := nx (.heartbeat ⟨40, 0⟩ 7 9 0) (trEx 0)
    let late : State := { lone with tick := 0xB798 }
    let lead : State := { (pair 0 (trainEx 0)).setPort 5 { Port.init with state := 3, peer := 9 } with
      fab := { (pair 0 (trainEx 0)).fab with valid := true, provisional := true } }
    let one : State := { trEx 1 with tick := 0xB798 }
    (full.mySegs 0 { units := 1, lenient := false, rnd := 0, ext := [(0x40000, 1)], expect := 2, ret := 0x50000 }).contains 0 = true ∧
    nx (.segmentData (segOf 1)) full = full ∧
    (trEx 0).isLone 40 0 = true ∧ lone.trellis.lone = [(40, 7, 0)] ∧ nx (.heartbeatLimitExpiry ⟨0, some 40⟩) lone = lone ∧
    (nx (.heartbeatLimitExpiry ⟨0, some 40⟩) { late with fab := { late.fab with lodestar := 7 } }).outbox = [.failure 40 7 0 1] ∧
    nx (.heartbeatLimitExpiry ⟨0, some 41⟩) late = late ∧
    one.watchedAddr 0 = one.fab.lodestar ∧ (nx (.heartbeatLimitExpiry ⟨0, none⟩) one).fab.generation = 1 ∧
    (nx (.heartbeatLimitExpiry ⟨0, none⟩) one).fab.provisional = true ∧
    ((nx (.heartbeat ⟨2, 1⟩ 4 9 0) (trEx 0)).xd 0).tr.cause = 4 ∧
    (nx (.failureReport 2 5 1 1) lead).fab.failedPeers = [2] ∧ (nx (.failureReport 2 5 1 1) lead).fab.proposal = none ∧
    nx (.failureReport 2 5 1 1) (trEx 1) = trEx 1 := by decide +kernel

/-! ## Bluern -/

/-- The check values of the two CRCs over the nine bytes "123456789". -/
theorem test_crc :
    crc32 [0x31, 0x32, 0x33, 0x34, 0x35, 0x36, 0x37, 0x38, 0x39] = 0xCBF43926 ∧
    crc32c [0x31, 0x32, 0x33, 0x34, 0x35, 0x36, 0x37, 0x38, 0x39] = 0xE3069283 := by decide +kernel

/-- Port 5 is up; the module's address is 2. -/
def portEx (f : Port → Port := id) (s : State := base) : State :=
  { (s.setPort 5 (f { Port.init with state := 3, peer := 9, credits := [] })) with
    fab := { s.fab with addr := 2, valid := true } }

def linkInfo (enc : Bool) : LinkUpInfo :=
  { peer := 7, cascade := 0, trained := true, peerEncReq := enc, attested := false, chainOk := false, peerKey := [], report := [], sent := [], nonce := [], kem := [] }

theorem witness_PortsAndLanes :
    let s := (portEx id).modFab 1 (fun f => { f with en := true })
    let t := nx (.linkUp 4 (linkInfo false)) s
    (s.port 4).state = 0 ∧ (s.xd (portDie 4)).fab.en = true ∧ (s.xd (portDie 4)).fab.portEn.getLsbD 0 = true ∧ s.fab.waiting = [] ∧
    (t.port 4).state = 3 ∧ (t.port 4).peer = 7 ∧ (t.port 4).enc = false ∧ (t.port 4).credit 2 true = 64 ∧
    s.sec.peerOk false [] [] [] = false ∧ ((nx (.linkUp 4 (linkInfo true)) s).port 4).state = 2 ∧
    ((nx (.linkUp 4 { linkInfo true with attested := true }) (nx (.linkUp 4 (linkInfo true)) s)).xd 1).fab.cause.getLsbD 6 = true ∧
    ((nx (.laneFail 5 true ⟨3, 0⟩) s).port 5).tx.grafting = true ∧
    ((nx (.spareLaneCheckDone 5 true ⟨true, 0⟩) (nx (.laneFail 5 true ⟨3, 0⟩) s)).port 5).tx.spareUsed = true ∧
    ((nx (.spareLaneCheckDone 5 true ⟨false, 0⟩) (nx (.laneFail 5 true ⟨3, 0⟩) s)).port 5).state = 4 ∧
    ((nx (.laneFail 5 true ⟨4, 0⟩) (nx (.spareLaneCheckDone 5 true ⟨true, 0⟩) (nx (.laneFail 5 true ⟨3, 0⟩) s))).port 5).tx.narrow = true ∧
    (nx (.laneFail 5 false ⟨8, 0⟩) s).outbox.head? = some (.laneReport 5 8 0) := by decide +kernel

/-- A data flit of channel 0 with sequence number 0, no credit and 32 bytes of payload, its CRC over the rest. -/
def flitEx : List Byte :=
  let h : List Byte := [0, 2, 0, 0, 0, 0, 0, 0, 0, 0, 0, 0]
  let d : List Byte := List.replicate 496 0
  h ++ leBytes 4 (crc32 (h ++ d)).toNat ++ d

theorem witness_FlitsCross :
    let r := portEx (fun q => { q with replay := [(4, [1]), (5, [2])] }) { base with tick := 0x758 }
    flitCrcOk flitEx = true ∧ flitEx.length = 512 ∧
    ((nx (.flitReceive 5 flitEx) portEx).port 5).rxSeq = 1 ∧
    ((nx (.flitReceive 5 (0 :: 3 :: flitEx.drop 2)) portEx).xd 1).fab.cause = 1 ∧
    (nx (.flitReceive 5 (0 :: 3 :: flitEx.drop 2)) portEx).outbox.head? = some (.resendReq 5 0) ∧
    (nx (.resendRequest 5 5) r).outbox = [.flit 5 [2]] ∧ (nx (.ackTimeout 5) r).outbox = [.flit 5 [1], .flit 5 [2]] ∧
    ((nx (.ackTimeout 5) (r.modPort 5 (fun q => { q with resent := 8 }))).port 5).state = 5 := by decide +kernel

/-- An inline send of 64 bytes to address 9, window 3, class 1, offset 40h (11 R338). -/
def sendB : List Byte := [9, 0, 3, 1, 0, 0, 0, 0, 0, 0, 64, 0, 0, 0, 0x40, 0, 0, 0, 0, 0, 1] ++ List.replicate 43 0 ++ List.replicate 64 0x5A

def pkt (data : List Byte) : WritePacket :=
  { src := 9, cls := 1, win := 3, off := 0x40, data := data, last := true }

theorem witness_SendsAndWindows :
    let routed := portEx id (base.modFab 0 (fun f => { f with routes := [(9, 0x8000000000000010)] }))
    let w : RxWin := { RxWin.init with base := 0x90000, en := true, trellis := true, size := 1, ndmem := 0x80, notifyEn := true }
    let s := base.setRxwin 3 w
    (base.sendReq .host sendB).isSome = true ∧ ((nx (.fabSend .host 0 sendB) base).xd 0).fab.cause = 0x800 ∧
    ((nx (.fabSend .host 0 (sendB.drop 1)) base).xd 0).fab.cause = 0x200 ∧
    routeNext 0x10 = some (0, 0) ∧ routed.groupPort 0 0 2 9 = none ∧
    (nx (.fabSend .host 0 sendB) routed).fab.waiting.length = 1 ∧ ((nx (.fabSend .host 0 sendB) routed).xd 0).fab.sends.length = 1 ∧
    ((nx (.sendComplete 0) (nx (.fabSend .host 0 sendB) routed)).xd 0).fab.sentCnt = 1 ∧
    ((nx (.fabStall 5 1 false) { portEx with tick := 0xE57E0 }).xd 1).fab.cause = 0x400 ∧
    ((nx (.writePacket 5 (pkt [1, 2])) base).xd 1).fab.cause = 0x80 ∧
    (nx (.writePacket 5 (pkt [1, 2])) base).outbox = [.refuse 9 3 1 0x40 0] ∧
    ((nx (.refusal 5 9 3 1 0x40 0) base).xd 1).fab.cause = 0x100 ∧
    (nx (.writePacket 5 (pkt [1, 2])) s).oread 0x90040 2 = [1, 2] ∧
    ((nx (.writeWithNotice 5 (pkt [1, 2])) s).core 0).cc.dmem.bytes 0x80 5 = [1, 0, 0, 0, 9] := by decide +kernel

/-! ## Cascades and sidereal time -/

def msgOf (gen : Word) (count : DWord) : TimeMsg :=
  { lodestar := 1, hops := 2, generation := gen, count := count, ptpOffset := 4, ptpRate := 5 }

/-- A module with address 2 that is not the lodestar. -/
def timeEx (f : Fab → Fab := id) (t : DWord := 0) : State :=
  { portEx with tick := t, fab := f { portEx.fab with addr := 2, valid := true, lodestar := 1 } }

theorem witness_LodestarAndEpochs :
    let prop : Membership := { epoch := 6, members := [{ addr := 1, backupOf := 0, role := 0 }, { addr := 2, backupOf := 0, role := 0 }] }
    let lead : State := { (pair 0 (trainEx 0)).setPort 5 { Port.init with state := 3 } with
      fab := { (pair 0 (trainEx 0)).fab with valid := true, proposal := some prop } }
    let bound : State := { trEx 0 id (trainEx 0) with fab := { (trEx 0 id (trainEx 0)).fab with proposal := some prop } }
    (nx .electionSend (timeEx id 9400)).outbox = [.election 5 1 0] ∧ (nx .electionSend (timeEx id 9399)).outbox = [] ∧
    (nx (.election 5 0 0) (timeEx id)).fab.lodestar = 0 ∧ (nx (.election 5 3 1) (timeEx id)).fab.lodestar = 2 ∧
    (nx (.election 5 0 0) (timeEx (fun f => { f with generation := 1 }))).fab.lodestar = 1 ∧
    lead.isLodestar = true ∧ lead.others prop = [2] ∧
    (nx (.proposalAnswer 9 6 true 0) lead).fab.answers = [(9, true)] ∧
    (nx (.proposalAnswer 2 6 false 3) lead).fab.answers = [] ∧
    (bound.srec 0).atEnd = true ∧ ((nx (.epochCommit ⟨1, 6⟩ 11) bound).ctx 0).membership = some prop ∧
    (nx (.epochCommit ⟨1, 6⟩ 11) bound).fab.firstStep = 11 ∧ (nx (.epochCommit ⟨1, 7⟩ 11) bound).fab.firstStep = 0 ∧
    (nx (.heldNotice 4 true) base).fab.held = [4] ∧ (nx (.heldNotice 4 false) (nx (.heldNotice 4 true) base)).fab.held = [] ∧
    ((nx (.keyReplacement 5 (linkInfo true)) (portEx (fun q => { q with enc := true, txFrames := 3 }))).port 5).txFrames = 3 ∧
    nx (.keyReplacement 5 (linkInfo true)) portEx = portEx := by decide +kernel

/-- R351: the first message sets the count to the sender's and the link's delay; a later one 3 behind takes one tick off. -/
theorem witness_TimeIsKept :
    let lock := fun (f : Fab) => { f with locked := true, timePort := 5, timeHops := 2 }
    let lead := fun (f : Fab) => { f with lodestar := 2 }
    (timeEx lead).isLodestar = true ∧ (nx .timeMessageSend (timeEx lead 4700)).outbox.length = 1 ∧
    (nx (.timeMessage 5 (msgOf 0 1000)) (timeEx id)).tick = 1000 ∧ (nx (.timeMessage 5 (msgOf 0 1000)) (timeEx id)).fab.locked = true ∧
    (timeEx lock).fab.onBranch 5 (msgOf 0 1997) = true ∧ (timeEx lock).fab.bySync = false ∧
    (nx (.timeMessage 5 (msgOf 0 1997)) (timeEx lock 2000)).fab.adjust = -1 ∧
    (nx (.timeMessage 5 (msgOf 0 1997)) (timeEx lock 2000)).fab.lastAdjust = 2000 ∧
    (nx (.timeMessage 5 (msgOf 0 997)) (timeEx lock 1000)).fab.adjust = 0 ∧
    (nx (.delayRequest 5 40) (timeEx id 50)).outbox = [.delayResp 5 40 50 50] ∧
    ((nx (.delayResponse 5 40 50 54) (timeEx id 64)).port 5).delay = 10 ∧
    (nx .timeLost (timeEx lock 47000)).fab.holdover = true ∧ (nx .timeLost (timeEx lock 46999)).fab.holdover = false ∧
    (nx .syncIn (timeEx (fun f => { f with src := true, holdover := true }) 7)).fab.lastSync = 7 ∧
    (nx .syncLost (timeEx (fun f => { f with src := true }) 131072)).fab.syncMissed = 2 ∧
    (nx .syncOut (timeEx (fun f => { f with syncOutEn := true }) 65536)).pins.syncOut = true ∧
    (nx .syncOut (timeEx (fun f => { f with syncOutEn := true }) 65537)).pins.syncOut = false ∧
    (nx (.ptpMessage 3 4) (timeEx (fun f => { f with lodestar := 2, ptpEn := true }))).fab.ptpOffset = 3 := by decide +kernel

/-! ## Beds, Seedbank, GDDR7 -/

def onSite (p : Nat) (f : Site → Site) (s : State := base) : State := s.modSite p f
def seedEx (state : BitVec 3) (s : State := base) : State := { s with sb := { s.sb with en := true, state := state } }

theorem physOf_base_inj (l m p : Nat) (h1 : base.physOf l = some p) (h2 : base.physOf m = some p) : l = m := by
  have bound : ∀ k, base.physOf k = some p → k < 60 := by
    intro k h
    rcases Nat.lt_or_ge k 60 with hk | hk
    · exact hk
    · have h0 : base.physOf k = none := by simp only [State.physOf]; rw [if_neg]; exact Nat.not_lt.mpr hk
      rw [h0] at h; cases h
  have hl := bound l h1
  have hm := bound m h2
  have : ∀ i, i < 60 → ∀ j, j < 60 → base.physOf i = base.physOf j → i = j := by decide +kernel
  exact this l hl m hm (h1.trans h2.symm)

theorem writes_none (s : State) (h : s.sites = []) (q : Nat) : (s.site q).writes = [] := by
  simp [State.site, h, sget, Site.init]

/-- R368: with parity valid, a word of site 0 is the XOR of the other members of group 0 and the parity at site 1. -/
theorem witness_BedsAreMended :
    let s := onSite 1 (fun t => { t with bed := (t.bed.set parityBase 0x0F).set (parityBase + 1) 1 })
      (onSite 4 (fun t => { t with bed := t.bed.set 0 0xFF }) (seedEx 2))
    let thr := onSite 3 (fun t => { t with rowCe := [((7 * 64 + 5) * 2, 8)], repairThr := 8 })
    s.present 0 = true ∧ s.covered 0 8 = true ∧ s.logicalOf 0 = some 0 ∧ s.physOf 4 = some 4 ∧ s.groupOf 4 = 0 ∧
    s.holder 0 0 = 1 ∧ ((nx (.seedbankRepair 0 ⟨0, true⟩) s).site 0).bed.bytes 0 3 = [0xF0, 1, 0] ∧
    ((nx (.patrolScrub 0 0 .uncorrectable) (onSite 0 (fun t => { t with scrubEn := true }) s)).site 0).bedFix = 1 ∧
    base.covered 0 8 = false ∧ ((nx (.seedbankRepair 0 ⟨8, true⟩) base).site 0).bedPoison = [(1, true)] ∧
    ((nx (.patrolScrub 0 8 .corrected) (onSite 0 (fun t => { t with scrubEn := true }))).site 0).bedCe = 1 ∧
    ((nx (.rowRepair 3 false 5 7 true) thr).site 3).repaired = [906] ∧ (nx (.rowRepair 3 false 5 7 true) thr).flash.rowRecord = [(3, 906)] ∧
    ((nx (.rowRepair 3 false 5 7 true) (onSite 3 (fun t => { t with sparesUsed := [(10, 32)] }) thr)).site 3).bedCause = 0x40 := by
  decide +kernel

/-- R366: the delta of a write of 3 over 1 is 2; its holder takes it and acknowledges. -/
theorem witness_SeedbankKeepsParity :
    let w : ProtWrite := { off := 0, bytes := [{ a := 0, b := 3, mask := 0xFF }], acked := false, sent := false }
    let s := onSite 0 (fun t => { t with bed := t.bed.set 0 1, writes := [w] }) (seedEx 2)
    let t := nx (.protectedWrite 0) s
    let u := nx (.parityDelta 1) t
    s.physOf (s.holder (s.groupOf 0) 0) = some 1 ∧ (t.site 1).deltas.map (fun d => d.bytes.take 2) = [[2, 0]] ∧
    (u.site 1).bed.get parityBase = 2 ∧ (u.site 0).writes.map ProtWrite.acked = [true] ∧
    ((nx (.protectedWrite 0) u).site 0).bed.get 0 = 3 ∧ ((nx (.protectedWrite 0) u).site 0).writes = [] ∧
    (nx (.sbCtlWrite 0x1F) base).sb.state = 1 ∧ (nx (.sbCtlWrite 0) (seedEx 2)).sb.state = 0 ∧
    (nx .initPassEnd (seedEx 1)).sb.state = 2 ∧ base.groups = 4 := by decide +kernel

theorem witness_RebuildRestoresTheSite :
    let s := { seedEx 3 with sb := { (seedEx 3).sb with rebuildSite := 5 } }
    s.logicalOf 5 = some 5 ∧ (∀ q, (s.site q).writes = []) ∧ s.physOf 5 = some 5 ∧ (∀ m, s.physOf m = some 5 → m = 5) ∧
    1 < s.groups ∧ (nx .rebuildEnd s).sb.state = 2 :=
  ⟨by decide +kernel, writes_none _ rfl, by decide +kernel, fun m h => physOf_base_inj m 5 5 h (by decide +kernel),
    by decide +kernel, by decide +kernel⟩

def mcEx (m : Mc) (t : DWord := 0) : State := { base with tick := t, xds := [(2, { Xd.init with mc := m })] }

theorem witness_DevicesAreRetriedAndFailed :
    let seven := mcEx { Mc.init with devs := [(12, { Device.init with consec := 7, errTicks := [100] })] } 3860
    ((nx (.gddr7CrcRetry 2 ⟨12, 0⟩) (mcEx Mc.init)).xd 2).mc.crcCnt = 1 ∧ ((nx (.gddr7CrcRetry 2 ⟨12, 0⟩) (mcEx Mc.init)).xd 2).mc.devFailed = 0 ∧
    ((nx (.gddr7CrcRetry 2 ⟨12, 0⟩) seven).xd 2).mc.devFailed = 0x1000 ∧
    ((nx (.gddr7CrcRetry 2 ⟨12, 0⟩) { seven with tick := 3861 }).xd 2).mc.devFailed = 0 ∧
    ((nx (.deviceRetrain 2 3 ⟨true, true⟩ false) (mcEx { Mc.init with retrainEn := true, devFailed := 1 })).xd 2).mc.doubleFault = true ∧
    ((nx (.gddr7IdleSelfRefresh 2) { base with pwr := { base.pwr with level := 4 } }).xd 2).mc.selfRefresh = true := by decide +kernel

theorem witness_HolesAreRecorded :
    place 0xFFFFFFFFF000 = .none ∧ (nx (.unmappedAccess 0xFFFFFFFFF000 (.read 4)) base).gis.mapAddr = 0xFFFFFFFFF000 ∧
    (nx (.unmappedAccess 0xFFFFFFFFF000 (.read 4)) base).outbox = [.reply [0, 0, 0, 0]] ∧
    (nx (.registerWrite .host 0x320000005000 0x8000000000000000) (nx (.unmappedAccess 0xFFFFFFFFF000 (.read 4)) base)).gis.mapHole = false ∧
    (nx (.unmappedAccess 0 (.read 4)) base).gis.mapHole = false ∧ (List.range 16).all (fun m => !base.sealedNow m) = true := by decide +kernel

/-- 11 R329, R356: a port that has not trained is in state 1; while the entropy source is out an encrypted one waits; an
attested peer that passes the policy comes up encrypted under keys of 72 bytes; a die that is not enabled brings none up. -/
theorem witness_LinkClauses :
    let s := (portEx id).modFab 1 (fun f => { f with en := true })
    let t := nx (.linkUp 4 (linkInfo true)) s
    nx (.linkUp 4 (linkInfo false)) portEx = portEx ∧
    ((nx (.linkUp 4 { linkInfo false with trained := false }) s).port 4).state = 1 ∧
    nx (.linkUp 4 (linkInfo true)) { s with sec := { s.sec with entropyBad := true } } = { s with sec := { s.sec with entropyBad := true } } ∧
    (t.port 4).state = 2 ∧ t.outbox.length = 1 ∧
    (nx (.linkUp 4 { linkInfo true with peer := 1 }) s).outbox.length = 2 ∧
    ((nx (.keyReplacement 5 { linkInfo true with attested := true }) (portEx (fun q => { q with enc := true }))).xd 1).fab.cause.getLsbD 6 = true ∧
    (nx (.keyReplacement 5 (linkInfo true)) (portEx (fun q => { q with enc := true }))).outbox.length = 1 := by decide +kernel

/-- 11 R330, R331, R342, R357: a flit of the reserved type is dropped; a good data flit ends its packet, which is delivered;
an idle flit gives credit back up to 64; an encrypted port collects its frame, and the eighth flit of one takes it down.
R331: a ninth resend takes the port down. -/
theorem witness_FlitClauses :
    let pk : List Byte := [2, 0, 9] ++ List.replicate 11 0 ++ [0] ++ List.replicate 33 0
    let fl (b0 b1 cr n : Byte) (d : List Byte) : List Byte :=
      let h : List Byte := [b0, b1, 0, 0, 0, 0, cr, n, 0, 0, 0, 0]
      let d := d ++ List.replicate (496 - d.length) 0
      h ++ leBytes 4 (crc32 (h ++ d)).toNat ++ d
    let enc := portEx (fun q => { q with enc := true })
    let seven := portEx (fun q => { q with enc := true, rxFrame := List.replicate 7 [] })
    nx (.flitReceive 5 (fl 3 0 0 0 [])) portEx = portEx ∧
    ((nx (.flitReceive 5 (fl 2 0 8 70 [])) portEx).port 5).credit 0 false = 64 ∧
    ((nx (.flitReceive 5 (fl 1 0 0 0 [])) portEx).port 5).rxSeq = 1 ∧
    ((nx (.flitReceive 5 (fl 0 3 0 0 pk)) portEx).fab.inbox).length = 1 ∧
    ((nx (.flitReceive 5 (fl 0 3 0 0 [])) enc).port 5).rxFrame.length = 1 ∧
    ((nx (.flitReceive 5 (fl 0 3 0 0 [])) seven).port 5).state = 5 ∧
    ((nx (.resendRequest 5 5) (portEx (fun q => { q with replay := [(5, [2])], resent := 8 }))).port 5).state = 5 ∧
    nx (.resendRequest 5 6) portEx = portEx ∧ nx (.ackTimeout 5) portEx = portEx := by decide +kernel

/-- 11 R332, R333: a lane that has failed before or a port that is down changes nothing; a fifth failed lane of a narrow
direction takes the port down; the spare's own failure marks it. R338: with no port of its group up a packet waits; with
one it goes out at once. -/
theorem witness_LaneAndSendClauses :
    let s := portEx id
    let narrow := portEx (fun q => { q with tx := { q.tx with failed := 0x0F, narrow := true } })
    let go := portEx id ((base.modFab 0 (fun f => { f with routes := [(9, 0x8000000000000010)], groups := [(0, 0x20)] })))
    nx (.laneFail 4 true ⟨3, 0⟩) s = s ∧ nx (.laneFail 5 true ⟨9, 0⟩) s = s ∧
    nx (.laneFail 5 true ⟨0, 0⟩) narrow = narrow ∧ ((nx (.laneFail 5 true ⟨4, 0⟩) narrow).port 5).state ≠ 5 ∧
    ((nx (.laneFail 5 true ⟨5, 0⟩) (nx (.laneFail 5 true ⟨4, 0⟩) narrow)).port 5).state = 5 ∧
    ((nx (.laneFail 5 true ⟨8, 0⟩) s).port 5).tx.spareBad = true ∧ nx (.spareLaneCheckDone 5 true ⟨true, 0⟩) s = s ∧
    (go.groupPort 0 0 2 9) = some 5 ∧ (go.port 5).credit 1 false = 0 ∧
    nx (.fabStall 5 1 false) s = s ∧ nx (.sendComplete 0) s = s := by decide +kernel

/-- 11 R347–R352: a message of another cascade changes nothing; a lead that hears a later generation drops back to its own
address; a refused proposal is proposed again without the lost member; a commit before the step boundary waits. -/
theorem witness_TimeClauses :
    let far := { (portEx (fun q => { q with cascade := 7 })) with fab := { portEx.fab with cascade := 1 } }
    let prop : Membership := { epoch := 6, members := [{ addr := 1, backupOf := 0, role := 0 }, { addr := 2, backupOf := 0, role := 0 }] }
    let lead : State := { (pair 0 (trainEx 0)).setPort 5 { Port.init with state := 3 } with
      fab := { (pair 0 (trainEx 0)).fab with valid := true, proposal := some prop } }
    let mid : State := { trEx 0 id (trainEx 2) with fab := { (trEx 0 id (trainEx 2)).fab with proposal := some prop } }
    nx (.election 5 0 3) far = far ∧ nx (.timeMessage 5 (msgOf 0 1000)) far = far ∧
    nx (.election 5 0 0) { portEx with fab := { portEx.fab with valid := false } } = { portEx with fab := { portEx.fab with valid := false } } ∧
    (nx (.proposalAnswer 2 6 true 0) lead).fab.proposal = none ∧ ((nx (.proposalAnswer 2 6 true 0) lead).ctx 0).membership = some prop ∧
    (nx (.proposalAnswer 2 6 false 3) lead).fab.proposal.map Membership.members = some prop.members ∧
    (nx (.epochCommit ⟨1, 6⟩ 11) mid).fab.committed = true ∧ ((nx (.epochCommit ⟨1, 6⟩ 11) mid).ctx 0).membership ≠ some prop ∧
    nx (.epochCommit ⟨3, 6⟩ 11) mid = mid ∧ nx (.epochProposal ⟨3, 6⟩ []) mid = mid ∧
    (nx (.epochProposal ⟨1, 6⟩ []) mid).outbox = [.answer 6 false 1] ∧
    nx (.delayRequest 4 40) (timeEx id) = timeEx id ∧ nx (.ptpMessage 3 4) (timeEx id) = timeEx id ∧
    nx .syncIn (timeEx id) = timeEx id ∧ nx .syncLost (timeEx id) = timeEx id := by decide +kernel

/-- 12 R363, R369: a scrubbed clean word, one beyond the bed or on an absent site changes nothing; a word whose group has a
poisoned member, or whose parity cannot be read, is poisoned; a flash that refuses the record makes the contexts stop. -/
theorem witness_BedClauses :
    let s := seedEx 2
    let idle := onSite 0 (fun t => { t with scrubEn := false }) s
    let gone : State := { s with grid := { s.grid with roles := (63, .retired) :: s.grid.roles } }
    let bad := onSite 4 (fun t => { t with bedPoison := [(0, true)] }) s
    let thr := onSite 3 (fun t => { t with rowCe := [((7 * 64 + 5) * 2, 8)], repairThr := 8 })
    let scr := onSite 0 (fun t => { t with scrubEn := true, repairThr := 1 }) s
    nx (.patrolScrub 0 0 .clean) scr = scr ∧ nx (.patrolScrub 0 0 .uncorrectable) idle = idle ∧ nx (.seedbankRepair 0 ⟨0x3FFFFFFF, true⟩) s = s ∧
    gone.present 63 = false ∧ nx (.seedbankRepair 63 ⟨0, true⟩) gone = gone ∧
    ((nx (.patrolScrub 0 0 .corrected) scr).site 0).repairBusy = true ∧
    bad.rebuildBad 0 0 = true ∧ ((nx (.seedbankRepair 0 ⟨0, true⟩) bad).site 0).bedPoison = [(0, true)] ∧
    ((nx (.seedbankRepair 0 ⟨0, false⟩) s).site 0).bedPoison = [(0, true)] ∧
    ((nx (.seedbankRepair 0 ⟨0, false⟩) s).site 1).bedPoison = [(parityBase / 8, true)] ∧
    ((nx (.seedbankRepair 0 ⟨0, true⟩) s).site 0).bedFix = 1 ∧
    (nx (.rowRepair 3 false 5 7 false) thr).orr.stopping = true ∧ nx (.rowRepair 3 false 5 6 true) thr = thr := by decide +kernel

/-- 12 R366, R370: writes are held in the initialisation pass and at the spare that a rebuild fills; where the holder of its
parity is absent a write lands without. R367: chunks are taken while en is 0; the initialisation pass poisons parity where a
member is poisoned. -/
theorem witness_ParityClauses :
    let w : ProtWrite := { off := 0, bytes := [{ a := 0, b := 3, mask := 0xFF }], acked := false, sent := false }
    let at_ (st : BitVec 3) := onSite 0 (fun t => { t with writes := [w] }) (seedEx st)
    let gone : State := { at_ 2 with grid := { (at_ 2).grid with map := [(1, none)] } }
    nx (.protectedWrite 0) (at_ 1) = at_ 1 ∧
    nx (.protectedWrite 0) { at_ 3 with sb := { (at_ 3).sb with rebuildSite := 0 } } = { at_ 3 with sb := { (at_ 3).sb with rebuildSite := 0 } } ∧
    nx (.protectedWrite 0) (seedEx 2) = seedEx 2 ∧ nx (.parityDelta 0) (seedEx 2) = seedEx 2 ∧
    (nx (.sbCtlWrite 0x0A) base).sb.protChunks = 5 ∧ nx (.sbCtlWrite 0x1F) (seedEx 2) = seedEx 2 ∧
    nx .initPassEnd (seedEx 2) = seedEx 2 ∧ nx .rebuildEnd (seedEx 2) = seedEx 2 ∧
    ((nx .initPassEnd (onSite 4 (fun t => { t with bedPoison := [(0, true)] }) (seedEx 1))).site 1).bedPoison = [(parityBase / 8, true)] ∧
    gone.physOf (gone.holder 0 0) = none ∧ ((nx (.protectedWrite 0) gone).site 0).writes.map ProtWrite.acked = [true] ∧
    ((nx (.protectedWrite 0) (nx (.protectedWrite 0) gone)).site 0).bed.get 0 = 3 := by decide +kernel

/-- 12 R375, R376: the 64th error in the window fails the device; a device that is not idle is retrained 940,000 ticks after it
fell due, in a forced slot; one that is not due is not. R379: an absent site's bed is recorded as a hole. -/
theorem witness_DeviceClauses :
    let many := mcEx { Mc.init with devs := [(3, { Device.init with errTicks := List.replicate 63 1 })] } 5000
    let late := mcEx { Mc.init with retrainEn := true } 94940000
    let soon := mcEx { Mc.init with retrainEn := true } 94939999
    ((nx (.gddr7CrcRetry 2 ⟨3, 0⟩) many).xd 2).mc.devFailed = 8 ∧ nx (.gddr7CrcRetry 2 ⟨13, 0⟩) many = many ∧
    Device.init.isDue 94940000 = true ∧ Device.init.isForced 94940000 = true ∧ Device.init.isForced 94939999 = false ∧
    ((nx (.deviceRetrain 2 3 ⟨false, true⟩ true) late).xd 2).mc.devs.map (fun d => d.2.lastTrain) = [94940000] ∧
    ((nx (.deviceRetrain 2 3 ⟨false, false⟩ true) soon).xd 2).mc.cause = 0 ∧
    ((nx (.deviceRetrain 2 3 ⟨false, true⟩ true) soon).xd 2).mc.devs.map (fun d => d.2.lastTrain) = [94939999] ∧
    nx (.deviceRetrain 2 3 ⟨true, true⟩ true) (mcEx { Mc.init with retrainEn := false }) = mcEx { Mc.init with retrainEn := false } ∧
    nx (.gddr7IdleSelfRefresh 2) base = base := by decide +kernel

/-! ## The security block -/

/-- Channel 0 holds a request (14 R432): code, ctx, sequence number 7, a0, a1, length. -/
def askEx (code ctx : Byte) (a0 a1 len : Nat) (s : State := base) : State :=
  { s with sec := { s.sec with ch0 := { s.sec.ch0 with
    busy := true
    record := [code, ctx, 0, 0, 7, 0, 0, 0] ++ leBytes 8 a0 ++ leBytes 8 a1 ++ leBytes 8 0 ++ leBytes 8 len ++ List.replicate 24 0 } } }

/-- Context 0 is created, sealed, and in this seal state; a seal record at 1000h names the range [240000000h, 240001000h). -/
def sealEx (state : BitVec 2) : State :=
  (mem [(0x1000, [0, 0, 0x24, 0, 0, 0, 0, 0, 1])] (ctxEx (fun c => { c with desc := { c.desc with sealedCtx := true } }))).setSeal 0
    { SealSt.init with state := state, dk := [1], ck := some (List.replicate 32 2), ranges := [(0x240000000, 0x1000)], modelId := List.replicate 32 3 }

theorem asked (code ctx : Byte) (a0 a1 len : Nat) (s : State) (h : (readReq (askEx code ctx a0 a1 len s).sec.ch0.record).code = code.toNat)
    (hr : (readReq (askEx code ctx a0 a1 len s).sec.ch0.record).reserved = false) (ho : (askEx code ctx a0 a1 len s).sec.otherTurn false = false) :
    SecAsked (askEx code ctx a0 a1 len s) false code.toNat (readReq (askEx code ctx a0 a1 len s).sec.ch0.record) :=
  ⟨rfl, rfl, h, hr, ho⟩

theorem witness_SecurityRequests :
    let own := askEx 0x06 0 0x4000 0 0
    let svn := askEx 0x09 1 0 0 0 { base with sec := { base.sec with runS1 := 5 } }
    base.sec.entropyBad = false ∧
    (nx (.report false) (askEx 0x02 0 0 0 0)).sec.ch0.busy = true ∧
    (nx (.report false) { askEx 0x01 0 0 0 0 with sec := { base.sec with ch0 := { base.sec.ch0 with busy := true, record := [1, 0, 1] } } }
      ).sec.ch0.result = 1 ∧
    (nx (.ownerSet false) own).sec.ch0.result = 0 ∧ (nx (.ownerSet false) own).sec.owners.length = 1 ∧
    (nx (.ownerSet false) { own with sec := { own.sec with owners := List.replicate 4 { key := [], digest := [], cosign := false, peerReq := false } } }
      ).sec.ch0.result = 5 ∧
    (nx (.peerPolicy false) (askEx 0x07 0 0x4000 0 0)).sec.ch0.result = 3 ∧
    (nx (.extendM7 false) (askEx 0x08 0 0x4000 0 0)).sec.ch0.result = 0 ∧
    (nx (.svnCommit false) svn).sec.svnS1 = 5 ∧ (nx (.svnCommit false) svn).sec.svnLd = 0 ∧
    (nx (.svnCommit false) (askEx 0x09 3 0 0 0)).sec.ch0.result = 1 ∧
    (nx .entropyFail base).sec.cause = 0x40 ∧ (nx (.keyUe 16) base).sec.cause = 0x20 ∧ (nx (.keyUe 17) base).sec.cause = 0 := by
  decide +kernel

theorem witness_ReportsAndErasure :
    let e := askEx 0x12 0 0 0 0 (onSite 0 (fun t => { t with bed := t.bed.set 5 1 }) (sealEx 2))
    (nx (.report false) (askEx 0x01 0xFF 0x4000 0x8000 0 (sealEx 0))).sec.ch0.result = 0 ∧
    (nx (.report false) (askEx 0x01 0x10 0x4000 0x8000 0 (sealEx 0))).sec.ch0.result = 1 ∧
    (nx (.report false) (askEx 0x01 3 0x4000 0x8000 0 (sealEx 0))).sec.ch0.result = 3 ∧
    (nx (.codeMeasure false) (askEx 0x11 0 0x4000 0 64 (sealEx 0))).sec.ch0.result = 0 ∧
    (nx (.erase false) (askEx 0x12 0 0 0 0 ctxEx)).sec.ch0.result = 3 ∧
    (nx (.erase false) e).sec.ch0.result = 0 ∧ ((nx (.erase false) e).site 0).bed.get 5 = 0 ∧ ((nx (.erase false) e).seal 0).state = 0 ∧
    (nx (.erase false) e).slotGen 1 = 0 := by decide +kernel

theorem witness_SealingAndKeys :
    let s := askEx 0x02 0 0x1000 0 16 (sealEx 0)
    let t := nx (.sealCfg false) s
    sealRanges (s.secRead 0x1000 16) 1 = [(0x240000000, 0x1000)] ∧ s.rangeBad 0 (0x240000000, 0x1000) = false ∧
    disjoint [(0x240000000, 0x1000)] = true ∧ s.freeRegions.length = 64 ∧ t.sec.ch0.result = 0 ∧ (t.seal 0).state = 1 ∧
    (sget (fun _ => none) t.gddr.regions 0) = some { base := 0x240000000, limit := 0x240000000, slot := 1 } ∧
    t.slotGen 1 = s.sec.keyGen + 1 ∧ (nx (.sealCfg false) (askEx 0x02 0 0x1000 0 16 (sealEx 1))).sec.ch0.result = 3 ∧
    (nx (.sealCfg false) (askEx 0x02 0 0x1000 0 8 (sealEx 0))).sec.ch0.result = 1 ∧
    ((askEx 0x03 0 0x1000 0 0 (sealEx 1)).seal 0).dk ≠ [] ∧
    (nx (.keyDeliver false) (askEx 0x03 0 0x1000 0 0 (sealEx 2))).sec.ch0.result = 3 := by decide +kernel

/-- FIPS 202: the digest of the empty string. SP 800-38D test case 14: one zero block under a zero key and nonce. -/
theorem test_shake256 : (shake256 [] 8) = [0x46, 0xB9, 0xDD, 0x2B, 0x0B, 0xA8, 0x8D, 0x13] := by decide +kernel

theorem test_aes_256_gcm :
    gcmSeal (List.replicate 32 0) (List.replicate 12 0) [] (List.replicate 16 0) =
      ([0xCE, 0xA7, 0x40, 0x3D, 0x4D, 0x60, 0x6B, 0x6E, 0x07, 0x4E, 0xC5, 0xD3, 0xBA, 0xF3, 0x9D, 0x18],
       [0xD0, 0xD1, 0xC8, 0xA7, 0x99, 0x99, 0x6B, 0xF0, 0x26, 0x5B, 0x98, 0xB5, 0xD4, 0x8A, 0xB9, 0x19]) := by decide +kernel

/-- A blob header (14 R438) of 16 bytes for the model of the context above. -/
def blobB : List Byte := [0x42, 0x4C, 0x53, 0x42, 16, 0, 0, 0, 0, 0, 0, 0] ++ List.replicate 32 3

theorem witness_ImportAndExport :
    let s := askEx 0x04 0 0x10000 0x100000000000 16 (mem [(0x10000, blobB)] (sealEx 2))
    s.inClosure 0 0x100000000000 16 false = true ∧ place 0x100000000000 = .bed 0 0 ∧ s.closedBy (place 0x100000000000) = some 0 ∧
    s.physOf 0 = some 0 ∧ s.dark 0 = false ∧ s.sb.en = false ∧ bfld (s.secRead 0x10000 4096) 0 4 = 0x42534C42 ∧
    cut (s.secRead 0x10000 4096) 12 32 = (s.seal 0).modelId ∧
    (nx (.importBlob false) (askEx 0x04 0 0x20000 0x100000000000 16 (sealEx 2))).sec.ch0.result = 1 ∧
    (nx (.importBlob false) (askEx 0x04 0 0x20000 0 16 (sealEx 2))).sec.ch0.result = 3 ∧
    s.inClosure 0 0x240000000 16 true = true ∧ (nx (.exportBlob false) (askEx 0x05 0 0 0x40000 16 (sealEx 2))).sec.ch0.result = 3 ∧
    (nx (.exportBlob false) (askEx 0x05 0 0x240000000 0x40000 16 (sealEx 2))).sec.ch0.result = 2 := by decide +kernel

/-- The blob of one chunk of 16 bytes under the content key of the context above, its tag changed by `flip`. -/
def chunkEx (flip : Byte) : State :=
  let e := gcmSeal (List.replicate 32 2) (chunkNonce (List.replicate 32 3) 0) blobB [1, 2, 3, 4, 5, 6, 7, 8, 9, 10, 11, 12, 13, 14, 15, 16]
  askEx 0x04 0 0x10000 0x100000000000 16 (mem [(0x10000, blobB), (0x11000, e.1 ++ (e.2.headD 0 ^^^ flip) :: e.2.drop 1)] (sealEx 2))

/-- The chunk that chunk 0 of a blob opens to (14 R439). -/
def opened (s : State) : Option (List Byte) :=
  gcmOpen (List.replicate 32 2) (chunkNonce (s.seal 0).modelId 0) (s.secRead 0x10000 44) (s.secRead 0x11000 16) (s.secRead 0x11010 16)

/-- R439: a chunk under the content key opens; with one bit of its tag wrong it does not. -/
theorem witness_ImportOfOneChunk :
    opened (chunkEx 0) = some [1, 2, 3, 4, 5, 6, 7, 8, 9, 10, 11, 12, 13, 14, 15, 16] ∧ opened (chunkEx 1) = none := by decide +kernel

/-- 14 R432: with requests on both channels they take turns. R433–R441: a reserved byte, an area outside GDDR7 and a context
that is none are malformed; codes not in a state to be served are refused with 3; a fault's slot above 16 is none. -/
theorem witness_SecurityClauses :
    let both (last : Option Bool) : State :=
      let s := askEx 0x08 0 0x4000 0 0
      { s with sec := { s.sec with last := last, ch1 := { s.sec.ch1 with busy := true, record := s.sec.ch0.record } } }
    let off := 0xFFFFFFFFFFFF
    (both none).sec.otherTurn false = false ∧ (both (some false)).sec.otherTurn false = true ∧
    nx (.extendM7 false) (both (some false)) = both (some false) ∧ (nx (.extendM7 true) (both (some false))).sec.last = some true ∧
    nx (.sealCfg false) { askEx 0x02 0 0x1000 0 16 (sealEx 0) with sec := { (askEx 0x02 0 0x1000 0 16 (sealEx 0)).sec with entropyBad := true } } =
      { askEx 0x02 0 0x1000 0 16 (sealEx 0) with sec := { (askEx 0x02 0 0x1000 0 16 (sealEx 0)).sec with entropyBad := true } } ∧
    (nx (.ownerSet false) (askEx 0x06 0 off 0 0)).sec.ch0.result = 1 ∧ (nx (.peerPolicy false) (askEx 0x07 0 off 0 0)).sec.ch0.result = 1 ∧
    (nx (.extendM7 false) (askEx 0x08 0 off 0 0)).sec.ch0.result = 1 ∧ (nx (.linkAttest false) (askEx 0x10 0 off 0 0)).sec.ch0.result = 1 ∧
    (nx (.codeMeasure false) (askEx 0x11 16 0 0 64)).sec.ch0.result = 1 ∧ (nx (.erase false) (askEx 0x12 16 0 0 0)).sec.ch0.result = 1 ∧
    (nx (.keyDeliver false) (askEx 0x03 16 0 0 0)).sec.ch0.result = 1 ∧
    (nx (.importBlob false) (askEx 0x04 0 0x10000 0x100000000000 0 (sealEx 2))).sec.ch0.result = 1 ∧
    (nx (.exportBlob false) (askEx 0x05 0 0x240000000 0x40000 0 (sealEx 2))).sec.ch0.result = 1 ∧
    (nx (.exportBlob false) (askEx 0x05 0 0x240000000 0x40000 16 (sealEx 1))).sec.ch0.result = 3 := by decide +kernel

/-! ## Faults -/

def onGis (f : Gis → Gis) (s : State := ctxEx) : State := { s with gis := f s.gis }

def graftEx (kind site core : Nat) : Graft := { kind := kind, site := site, core := core, tick := 0, mask := 1 }

theorem witness_FaultEvents :
    let s := onGis (fun g => { g with urgent := [{ leaf := .site 5, bit := 0, tick := 3, arg := 2 }] })
    let e := nx (.edgeFail 0 0) base
    s.fwRuns = true ∧ 0 ∈ s.urgentCores ∧ (nx (.urgentLatch 0 none) s).gis.urgent = [] ∧
    (nx (.urgentLatch 0 none) s).gis.grafts = [{ kind := 1, site := 5, core := 2, tick := 3, mask := s.maskOf 5 }] ∧
    (nx (.siteHeartbeatLoss 7) base).gis.siteLost = 0x80 ∧
    (nx (.siteHeartbeatLoss 7) base).gis.urgent = [{ leaf := .siteLost, bit := 7, tick := 0, arg := 0 }] ∧
    base.physOf 9 = some 10 ∧ ((nx (.coreLost 9 3) base).site 10).cause = 1 ∧
    neighbour 0 1 = some 1 ∧ e.grid.edges.length ≤ 1 ∧ ((nx (.edgeFail 0 1) base).site 0).cause = 2 ∧
    (nx (.edgeFail 1 3) (nx (.edgeFail 0 1) base)).gis.urgent.length = 1 := by decide +kernel

/-- R449: the HALT of a site fault names a saved context of the site too, and every running one. R452: the replay of an
unchanged image writes it, that of a changed one leaves the DMEM undefined. -/
theorem test_site_mask_and_replay :
    let s := ctxEx (fun c => { c with st := .saved })
    let e := { readEntry [1] 0 with sites := 1, cores := 1, src := 0x40000, len := 64, target := 1 }
    let r (img : List Byte) := mem [(0x40000, [0xAB])] (ctxEx (fun c => { c with loads := [{ e with img := img }] })
      ({ base with cores := [(0, { base.core 0 with ctx := some 0 })] } : State))
    let same := 0xAB :: List.replicate 63 0
    s.siteMask 0 = 1 ∧ s.siteMask 5 = 0 ∧ ctxEx.siteMask 5 = 1 ∧ (ctxEx.logicalOf 0) = some 0 ∧
    (((r same).replay 0 0 0).core 0).cc.dmem.bytes 0 2 = [0xAB, 0] ∧ ((r same).replay 0 0 0).freeCtr = (r same).freeCtr ∧
    ((r []).replay 0 0 0).freeCtr = (r []).freeCtr + 1 := by decide +kernel

theorem test_HardwareErrors :
    ((nx (.urgentLatch 1 (some (.rtr 5 true))) base).site 5).cause = 8 ∧
    (nx (.urgentLatch 1 (some (.rtr 5 true))) base).gis.urgent = [{ leaf := .site 5, bit := 3, tick := 0, arg := 0 }] ∧
    ((nx (.urgentLatch 1 (some (.xdl 3 false))) base).xd 3).xdlCause = 2 ∧
    (nx (.urgentLatch 1 (some (.l2 true))) base).host.cause = 4 ∧
    (nx (.urgentLatch 1 (some (.sram false (some 0)))) base).orr.cause = 8 ∧
    base.present 5 = true ∧ ctxEx.fwRuns = true ∧ (ctxEx.oc 2).role = 0 ∧
    ((nx (.urgentLatch 1 (some (.sram true (some 2)))) ctxEx).oc 2).role = 2 := by decide +kernel

theorem witness_HaltStops :
    let run := onCore (fun c => { c with ctx := some 0, me := { c.me with queue := [cmd 0x32] }, cc := { c.cc with st := .running } })
      (entryEx 2 id (fun e => { e with started := true }))
    let h := nx (.halt (.orrery 0) 1 5) run
    run.haltKeys 1 = [0] ∧ h.gis.halted = 1 ∧ h.gis.arrive = [0] ∧ (h.ctx 0).entries.map Entry.status = [2] ∧
    (nx (.halt .host 1 5) run).gis.halted = 0 ∧ run.key 0 0 = some 0 ∧
    ((nx (.haltArrival 0 0) h).core 0).cc.st = .halted ∧ ((nx (.haltArrival 0 0) h).core 0).me.queue = [] ∧
    (nx (.haltArrival 0 0) h).gis.arrive = [] ∧
    ((nx (.halt (.orrery 0) 1 5) (trainEx 2)).srec 0).voted = true ∧
    ((nx (.halt (.orrery 0) 1 5) (trainEx 4)).srec 0).faulted = true := by decide +kernel

theorem witness_ColumnsAndCoresAreGrafted :
    let col := onGis (fun g => { g with grafts := [graftEx 0 0 0] })
    let cor := onGis (fun g => { g with grafts := [graftEx 1 0 3] })
    let none_ := onSite 0 (fun t => { t with failed := 0x300000000 }) cor
    col.graftTurn 0 0 0 = some (graftEx 0 0 0) ∧ ((nx (.columnGraft 0 0 0x80 true) col).core 0).me.colfail = 0x80 ∧
    (nx (.columnGraft 0 0 0x80 true) col).flash.colRecord = [(0, 0x80)] ∧
    (nx (.columnGraft 0 0 0x7FF true) col).gis.grafts = [graftEx 1 0 0] ∧
    cor.graftTurn 1 0 3 = some (graftEx 1 0 3) ∧ cor.spareCores 0 = [32, 33] ∧
    ((nx (.coreGraft 0 3 true) cor).site 0).physCore 3 = 32 ∧ (nx (.coreGraft 0 3 true) cor).flash.coreRecord = [(0, 3)] ∧
    none_.spareCores 0 = [] ∧ (nx (.coreGraft 0 3 true) none_).gis.grafts.map Graft.kind = [2] := by decide +kernel

theorem witness_SitesAreGrafted :
    let s := onGis (fun g => { g with grafts := [graftEx 2 8 0] }) base
    let t := nx (.siteGraft 8 true) s
    let sp := onGis (fun g => { g with grafts := [graftEx 4 14 0] }) base
    let last := { s with grid := { s.grid with roles := s.grid.roles.map (fun (x : Nat × Role) => (x.1, if x.2 = Role.spare then Role.retired else x.2)) } }
    s.graftTurn 2 8 0 = some (graftEx 2 8 0) ∧ s.logicalOf 8 = some 8 ∧ s.sb.state = 0 ∧ s.nearestSpare 8 = some 9 ∧
    t.role 8 = .retired ∧ t.role 9 = .active ∧ t.physOf 8 = some 9 ∧ t.grid.gen = 1 ∧ t.flash.record.length = 1 ∧
    last.nearestSpare 8 = none ∧ (nx (.siteGraft 8 true) last).orr.hold = true ∧ (nx (.siteGraft 8 true) last).physOf 8 = none ∧
    sp.graftTurn 4 14 0 = some (graftEx 4 14 0) ∧ (nx (.spareSiteRetire 14 true) sp).role 14 = .retired ∧
    (nx (.spareSiteRetire 14 true) sp).grid.gen = 0 := by decide +kernel

theorem witness_RestartsAndReplacements :
    let again (ph : Nat) := onGis (fun g => { g with halted := 1 })
      (entryEx 3 (fun c => { c with
        policy := readPolicy (policyB ++ List.replicate 44 0)
        srec := { c.srec with step := 9, phase := ph, started := true, epoch := 5, sigma := 3, used := 3, commit := some false } })
        (fun e => { e with started := true, step := 9, pc := 5, bank := false }))
    let idle := onGis (fun g => { g with halted := 1 })
    let lost := { base with xds := [(1, { Xd.init with halves := 2, tr := { TrDie.init with pendingTags := [1] } })] }
    (again 6).restartReady 0 = true ∧ ((nx (.stepRestart 0) (again 6)).srec 0).phase = 1 ∧
    ((nx (.stepRestart 0) (again 6)).core 0).cc.pc = 5 ∧ (nx (.stepRestart 0) (again 6)).gis.halted = 0 ∧
    ((nx (.stepRestart 0) (again 4)).core 0).cc.dmem.bytes 0x40 5 = [9, 0, 0, 0, 3] ∧
    (nx (.stepRestart 0) idle).gis.halted = 0 ∧
    ((nx (.halfFail 1 false) base).xd 1).xdlCause = 1 ∧ ((nx (.halfFail 1 false) lost).xd 2).tr.pendingTags = [1] ∧
    ((nx (.halfFail 1 false) lost).xd 1).tr.pendingTags = [] ∧
    base.host.spareFor 3 = some 8 ∧ (nx (.hartGraft 3) base).host.physOf 3 = 8 ∧ (nx (.hartGraft 8) base).host.cause = 0 := by
  decide +kernel

/-- 15 R446, R447, R449: events of other blocks are only recorded; a poisoned bed word gives its contexts healthy 0; a core not
interrupted claims nothing. R467, 01 R30: a rim edge can fail, one that has failed is left; an absent site reports nothing. -/
theorem witness_FaultClauses :
    let ev (lf : Leaf) (b : Nat) := onGis (fun g => { g with urgent := [{ leaf := lf, bit := b, tick := 3, arg := 0 }] })
    let rim := nx (.edgeFail 0 0) base
    let gone : State := { base with grid := { base.grid with roles := (5, .retired) :: base.grid.roles } }
    (nx (.urgentLatch 0 none) (ev (.fab 1) 13)).gis.halted = 0 ∧ (nx (.urgentLatch 0 none) (ev (.sec) 5)).almHead = 1 ∧
    ((nx (.urgentLatch 0 none) (ev (.bed 0) 1)).srec 0).faulted = true ∧
    ((nx (.urgentLatch 0 none) (ev (.mc 1) 2)).srec 0).faulted = true ∧
    ((nx (.urgentLatch 0 none) (onCore (fun c => { c with ctx := some 0 }) (ev (.ve 0) 4))).srec 0).faulted = true ∧
    nx (.urgentLatch 19 none) (ev (.sec) 5) = ev (.sec) 5 ∧
    neighbour 0 0 = none ∧ rim.grid.edges.length = 1 ∧ (rim.site 0).cause = 2 ∧ nx (.edgeFail 0 0) rim = rim ∧
    gone.present 5 = false ∧ nx (.siteHeartbeatLoss 5) gone = gone ∧ nx (.edgeFail 5 0) gone = gone := by decide +kernel

/-- 15 R449, R453–R456, R512, 12 R371: a HALT reaches no core of another context; a graft out of turn, or of a busy ME, waits; a
flash that takes no record makes the contexts stop at their boundaries; a site graft waits for a rebuild elsewhere, and one of
an unprotected group ends protection. -/
theorem witness_GraftClauses :
    let col := onGis (fun g => { g with grafts := [graftEx 0 0 0] })
    let busy := onMe (fun m => { m with jobs := [{ q := cmd 0x30, work := .store 2 [] false false false false false }] }) col
    let site (st : BitVec 3) (un : BitVec 4) : State := { onGis (fun g => { g with grafts := [graftEx 2 8 0] }) (seedEx st) with
      sb := { (seedEx st).sb with protChunks := 8, rebuildSite := 20, unprot := un } }
    let sp := onGis (fun g => { g with grafts := [graftEx 4 14 0] }) base
    let other := onGis (fun g => { g with arrive := [0], inForce := 2 }) (onCore (fun c => { c with ctx := some 0 }))
    (nx (.haltArrival 0 0) other).gis.arrive = [] ∧ ((nx (.haltArrival 0 0) other).core 0).cc.st = .stopped ∧
    nx (.haltArrival 0 0) base = base ∧
    nx (.columnGraft 0 0 0x80 true) busy = busy ∧ nx (.columnGraft 0 1 0x80 true) col = col ∧
    (nx (.columnGraft 0 0 0x80 false) col).orr.stopping = true ∧ (nx (.columnGraft 0 0 0x80 false) col).flash.colRecord = [] ∧
    (nx (.columnGraft 0 0 0 true) col).gis.grafts = [] ∧
    (nx (.siteGraft 8 true) (site 2 0)).sb.state = 3 ∧ (nx (.siteGraft 8 true) (site 2 0)).sb.rebuildSite = 9 ∧
    (nx (.siteGraft 8 true) (site 2 0xF)).sb.state = 4 ∧ (nx (.siteGraft 8 false) (site 0 0)).orr.stopping = true ∧
    (site 3 0).related 8 = false ∧ nx (.siteGraft 8 true) (site 3 0) = site 3 0 ∧
    nx (.coreGraft 0 0 true) col = col ∧ nx (.siteGraft 9 true) (site 2 0) = site 2 0 ∧ nx (.spareSiteRetire 15 true) sp = sp ∧
    nx (.spareSiteRetire 9 true) (onGis (fun g => { g with grafts := [graftEx 4 8 0] }) base) = onGis (fun g => { g with grafts := [graftEx 4 8 0] }) base ∧
    (nx (.spareSiteRetire 8 true) (onGis (fun g => { g with grafts := [graftEx 4 8 0] }) base)).gis.grafts.map Graft.kind = [2] := by
  decide +kernel

/-- 15 R450, R458, R459: a step that is still open waits; a half lost twice is lost once; with every die lost the buckets stay. -/
theorem witness_RestartClauses :
    let open_ := onGis (fun g => { g with halted := 1 }) (entryEx 3 (fun c => { c with
      policy := readPolicy (policyB ++ List.replicate 44 0), srec := { c.srec with step := 9, phase := 2, started := true, epoch := 5 } })
      (fun e => { e with started := true, step := 9 }))
    let all : State := { base with xds := [(0, { Xd.init with halves := 3 }), (1, { Xd.init with halves := 2, tr := { TrDie.init with pendingTags := [1] } }),
      (2, { Xd.init with halves := 3 }), (3, { Xd.init with halves := 3 })] }
    let one := nx (.halfFail 1 false) base
    let wait := onGis (fun g => { g with halted := 1, arrive := [0] })
    nx (.stepRestart 0) open_ = open_ ∧ nx (.stepRestart 0) wait = wait ∧ nx (.halfFail 1 false) one = one ∧
    ((nx (.halfFail 1 false) all).xd 1).tr.pendingTags = [1] ∧ ((nx (.halfFail 1 false) all).xd 1).halves = 3 ∧
    nx (.hartGraft 8) (nx (.hartGraft 8) base) = nx (.hartGraft 8) base ∧
    (nx (.hartGraft 3) base).host.starts.length = 1 := by decide +kernel

/-! ## Ethernet, power, clocks, temperature, reset (13, 16) -/

/-- Receive ring 0 of port 1 at 50000h with two descriptors: buffer 60000h, 100 bytes, own and interrupt set. -/
def ringEx (rx : Bool) (size flags : Byte) : State :=
  { mem [(0x50000, [0, 0, 6, 0, 0, 0, 0, 0, size, 0, flags, 0]), (0x60000, [0xAA, 0xBB])] with
    host := { base.host with rings := [(ethKey 1 rx 0, some { base := 0x50000, count := 2, cursor := 0, polled := none, moving := false })] } }

theorem witness_FramesReachTheirRings :
    let s := ringEx true 100 5
    let f := (0x11 : Byte) :: List.replicate 127 0x22
    let t := nx (.frameReceive 1 none f true) s
    s.ethRingAt (ethKey 1 true 0) = some { base := 0x50000, count := 2, cursor := 0, polled := none, moving := false } ∧
    areaOk 0x50000 16 = true ∧ areaOk 0x60000 100 = true ∧ overlap 0x60000 100 0x50000 16 = false ∧
    t.gddr.mem.bytes 0x60000 3 = [0x11, 0x22, 0x22] ∧ t.gddr.mem.bytes 0x50008 4 = [128, 0, 6, 3] ∧
    t.ethRingAt (ethKey 1 true 0) = some { base := 0x50000, count := 2, cursor := 1, polled := some 0, moving := true } ∧ t.host.plic.getLsbD 20 = true ∧
    (nx (.frameReceive 1 none f false) (ringEx true 100 4)).host.rxHold.length = 1 ∧
    nx (.frameReceive 1 (some 3) f true) s = s := by decide +kernel

theorem witness_DescriptorsSendFrames :
    let s := ringEx false 2 3
    let t := nx (.descriptorPoll 1 false 0) s
    t.gddr.mem.bytes 0x50008 4 = [2, 0, 2, 0] ∧ t.outbox = [.frame 1 [0xAA, 0xBB]] ∧
    t.ethRingAt (ethKey 1 false 0) = some { base := 0x50000, count := 2, cursor := 1, polled := some 0, moving := true } ∧
    sget (fun _ => []) (nx (.descriptorPoll 1 false 0) (ringEx false 2 1)).host.txFrame (ethKey 1 false 0) = [0xAA, 0xBB] ∧
    (nx (.descriptorPoll 1 false 0) (ringEx false 2 2)).ethRingAt (ethKey 1 false 0) =
      some { base := 0x50000, count := 2, cursor := 0, polled := some 0, moving := false } := by decide +kernel

/-- The next V_in sample, 94 ticks on. -/
def sag (v : Half) (s : State) : State := nx (.vinSample v) { s with tick := s.tick + 94 }

/-- A powered module: hart 0 released, the last V_in sample 48.0 V. -/
def live (f : Power → Power := id) (s : State := base) : State :=
  { s with host := { s.host with hart0 := true }, pwr := f { s.pwr with vin := 4800 } }

theorem witness_PruningOrder :
    let run := live (fun (p : Power) => { p with vin := 3900, level := 2 }) (ctxEx)
    let p3 := live (fun (p : Power) => { p with vin := 3900, level := 3 }) (onMe (fun m => { m with colfail := 1 }) (ctxEx))
    let back (n : BitVec 3) (s : State := base) :=
      { live (fun p => { p with level := n, aboveSince := List.replicate 4 (some 0) }) s with tick := 94000 }
    (nx (.vinSample 4400) (live)).pwr.level = 0 ∧
    (nx (.vinSample 4400) (live (fun p => { p with vin := 4440 }))).pwr.level = 1 ∧
    (nx (.vinSample 4100) (live (fun p => { p with vin := 4100 }))).pwr.level = 2 ∧
    (nx (.vinSample 4100) (live (fun p => { p with vin := 4100, level := 1 }))).outbox = [.held base.fab.addr true] ∧
    (nx (.vinSample 3900) run).pwr.level = 3 ∧ ((nx (.vinSample 3900) run).port 0).pruned = true ∧
    (nx (.vinSample 3700) p3).pwr.level = 3 ∧
    (sag 3700 (sag 3700 p3)).pwr.level = 4 ∧
    (sag 3700 (sag 3700 p3)).pwr.redo = 1 ∧
    ((sag 3700 (sag 3700 p3)).core 0).me.colfail = 1 ∧
    (sag 3500 (sag 3500 p3)).pwr.level = 5 ∧
    base.starting = true ∧ (nx (.vinSample 4500) base).pwr.off = true ∧ (nx (.vinSample 4600) base).pwr.off = false ∧
    (nx .pruneLevelExit (back 2)).pwr.level = 1 ∧ (nx .pruneLevelExit (back 2)).outbox = [.held base.fab.addr false] ∧
    (nx .pruneLevelExit (back 3)).pwr.level = 2 ∧ (nx .pruneLevelExit (back 4)).pwr.level = 3 ∧
    (nx .pruneLevelExit { back 4 with tick := 93999 }).pwr.level = 4 ∧ (nx .pruneLevelExit (back 5)).pwr.level = 5 ∧
    (nx .pruneLevelExit { back 3 with warm := .waiting }).warm = .resetting := by decide +kernel

theorem witness_PowerAndHeat :
    let ov := { live (fun p => { p with overSince := some 10 }) with tick := 950 }
    let hot := live id { base with therm := { base.therm with temps := [(3, 100)] }, tick := 94000 }
    (nx .overvoltage ov).pwr.level = 5 ∧ (nx .overvoltage { ov with tick := 949 }).pwr.level = 0 ∧
    base.pd 8 = .on ∧ (nx (.phaseRetire 8) (live)).pwr.phaseCnt = 1 ∧
    ((nx (.phaseRetire 8) (nx (.phaseRetire 8) (live))).site 8).cause.getLsbD 4 = true ∧
    (nx (.phaseRetire 8) (nx (.phaseRetire 8) (live))).pd 8 = .fault ∧
    (nx (.phaseRetire 64) (nx (.phaseRetire 64) (live))).pwr.level = 5 ∧
    (nx .orderlyOff (live (fun p => { p with level := 5 }))).pwr.off = true ∧
    (nx .orderlyOff (live (fun p => { p with level := 5 }))).pd 0 = .off ∧
    base.pwr.cap = 12500 ∧ (nx (.governorTick 12501) (live (fun p => { p with govCap := 3, hist := List.replicate 9 12600 }))).pwr.govCap = 2 ∧
    (nx (.governorTick 12501) (live (fun p => { p with govCap := 1, hist := List.replicate 9 12600 }))).pwr.govCap = 1 ∧
    (nx (.governorTick 12501) (live (fun p => { p with govCap := 3, hist := List.replicate 10 12600, govLow := 0 }))).pwr.govCap = 3 ∧
    (nx (.governorTick 10) (live (fun p => { p with govCap := 3, belowCap := 9 }))).pwr.govCap = 4 ∧
    (nx (.thermalSample 3 100) (live)).therm.cause = 3 ∧ (nx (.thermalSample 3 100) (live)).therm.thermN = false ∧
    (nx (.thermalSample 3 110) (live)).pwr.level = 5 ∧ (nx (.thermalSample 68 110) (live)).pwr.level = 0 ∧
    hot.pwr.thermCap = 8 ∧ (nx .throttleStep hot).pwr.thermCap = 7 ∧
    (nx .throttleStep { hot with therm := { hot.therm with temps := [(3, 95)] }, pwr := { hot.pwr with thermCap := 5 } }).pwr.thermCap = 6 ∧
    (nx .throttleStep { hot with therm := { hot.therm with temps := [(3, 96)] }, pwr := { hot.pwr with thermCap := 5 } }).pwr.thermCap = 5 ∧
    (nx .throttleStep { hot with tick := 93999 }).pwr.thermCap = 8 := by decide +kernel

theorem witness_ClocksAreWatched :
    let lost := { nx .refclkLoss (live) with tick := 9399999 }
    let up := { live with ports := [(2, { Port.init with state := 2 })] }
    lost.clk.holdover = true ∧ lost.clk.cause = 1 ∧ (nx .refclkLoss base).pwr.off = true ∧
    (nx .refclkReturn lost).clk.holdover = false ∧ (nx .refclkReturn lost).clk.holdTicks = 9399999 ∧
    (nx .refclkReturn lost).clk.cause = 3 ∧ (nx .holdoverExpiry lost).pwr.level = 0 ∧
    (nx .holdoverExpiry { lost with tick := 9400000 }).pwr.level = 5 ∧
    (nx .pllUnlock (live)).pwr.level = 5 ∧ (nx .pllUnlock (live)).clk.locked = false ∧
    (nx (.serdesPll 2) up).clk.cause = 8 ∧ ((nx (.serdesPll 2) up).port 2).state ≠ 2 := by decide +kernel

theorem witness_ResetsAndStart :
    let p3 := live (fun p => { p with level := 3 })
    let w := nx (.sysRst .host 0x1A5) (live id (ctxEx))
    let on := { base with pwr := { base.pwr with vin := 4800 }, flash := { base.flash with hostBase := 0x100000, hostGib := 1 } }
    nx (.rstN 939) (live) = live ∧ (nx (.rstN 9400) (live)).pwr.off = true ∧
    (nx .pwrgdFall (live)).pwr.level = 5 ∧ (nx .pwrgdFall base).pwr.off = true ∧
    (nx (.sysRst .host 0x1A5) p3).warm = .waiting ∧ w.warm = .resetting ∧ w.ctxs = [] ∧ w.host.hart0 = false ∧
    nx (.sysRst (.orrery 1) 0x1A5) (live) = live ∧ nx (.sysRst .host 0x1A4) (live) = live ∧
    nx (.coldStart [] [] [] true) base = base ∧
    base.bootSlot false base.flash.s1Sel base.flash.s1A base.flash.s1B = none ∧
    (nx (.coldStart [] [] [] true) on).sec.cause.getLsbD 4 = true ∧ (nx (.coldStart [] [] [] true) on).host.hart0 = false ∧
    1 ≤ on.flash.hostGib ∧ on.flash.hostBase + on.flash.hostGib * 2 ^ 30 ≤ fwBase := by decide +kernel

/-- 13 R391: a ring that did not move at its last poll is not polled again for 940 ticks; a frame waits for it. -/
theorem witness_RingClauses :
    let idle (t : DWord) : State := { ringEx true 100 5 with tick := t, host := { (ringEx true 100 5).host with
      rings := [(ethKey 1 true 0, some { base := 0x50000, count := 2, cursor := 0, polled := some 60, moving := false })] } }
    let f := List.replicate 64 0x11
    (nx (.frameReceive 1 none f true) (idle 999)).host.rxHold.length = 1 ∧
    nx (.descriptorPoll 1 true 0) (idle 999) = idle 999 ∧
    (nx (.descriptorPoll 1 true 0) { nx (.frameReceive 1 none f true) (idle 999) with tick := 1000 }).host.rxHold = [] ∧
    (nx (.descriptorPoll 1 true 0) (ringEx true 100 4)).ethRingAt (ethKey 1 true 0) =
      some { base := 0x50000, count := 2, cursor := 0, polled := some 0, moving := false } ∧
    nx (.descriptorPoll 0 true 0) base = base ∧ nx (.frameReceive 1 none (List.replicate 63 0) true) (ringEx true 100 5) = ringEx true 100 5 := by
  decide +kernel

/-- 16 R472–R474, R481, R476: a sample before its period has passed is none. R479: from P3 the ports widen at the step boundary.
R483: with the domain off REFCLK's loss and return are only noted. -/
theorem witness_PowerClauses :
    let s := live
    let v := nx (.vinSample 4700) s
    let g := nx (.governorTick 4000) s
    let h := nx (.thermalSample 3 50) s
    let off : State := { base with pwr := { base.pwr with off := true } }
    nx (.vinSample 3000) { v with tick := 93 } = { v with tick := 93 } ∧
    nx (.governorTick 13000) { g with tick := 939 } = { g with tick := 939 } ∧
    nx (.thermalSample 3 120) { h with tick := 9399 } = { h with tick := 9399 } ∧
    (nx .refclkLoss off).clk.refclk = false ∧ (nx .refclkReturn (nx .refclkLoss off)).clk.refclk = true ∧
    nx .pllUnlock off = off ∧ nx (.serdesPll 2) off = off ∧ ((nx (.serdesPll 2) s).port 2).state = 5 ∧
    nx (.thermalSample 68 50) s = s ∧ nx .orderlyOff s = s ∧ nx .holdoverExpiry s = s ∧ nx (.phaseRetire 80) s = s ∧
    nx .overvoltage s = s := by decide +kernel

/-- 12 R371, 16 R487, R488: two failed devices of a die stop a cold start that has a stage-1 slot; a warm reset is left when
hart 0 starts; without V_in nothing starts. -/
theorem witness_StartClauses :
    let w := nx (.sysRst .host 0x1A5) live
    let w2 := nx (.sysRst .host 0x1A5) (live id (base.setPort 3 { Port.init with state := 5 }))
    w.warm = .resetting ∧ nx (.sysRst .host 0x1A5) w = w ∧ (w2.port 3).state = 5 ∧ (w.xd 0).mc.selfRefresh = true ∧
    nx (.coldStart [] [] [] true) { base with clk := { base.clk with refclk := false } } = { base with clk := { base.clk with refclk := false } } ∧
    nx .pwrgdFall { live with pwr := { live.pwr with level := 5 } } = { live with pwr := { live.pwr with level := 5 }, pins := { live.pins with pwrgd := false } } := by
  decide +kernel

/-! ## Registers, reset, the queue (00, 15) -/

theorem witness_RegisterWrites :
    let s := onCore (fun c => { c with me := { c.me with cause := 7 } })
    base.logicalOf 0 = some 0 ∧ base.physOf 0 = some 0 ∧ base.whoIs 0 = (0, 0) ∧ base.keyOf 0 0 = 0 ∧ base.dark 0 = false ∧
    ((nx (.registerWrite .host (BitVec.ofNat 48 (s.leafAddr (.me 0))) 5) s).core 0).me.cause = 2 ∧
    place 0 = .gddr 0 ∧ nx (.registerWrite .host 0 5) s = s ∧
    place (siteRegBase + 62 * 2 ^ 24) = .siteReg 62 0 ∧ base.siteField true 62 = none ∧
    (nx (.registerWrite .host (BitVec.ofNat 48 (siteRegBase + 62 * 2 ^ 24)) 5) base).gis.mapHole = true ∧
    base.key 0 0 = some 0 ∧
    ((nx (.registerWrite .host (BitVec.ofNat 48 (siteRegBase + 0x10000)) 0xF2) base).core 0).me.tolExp = 0xA ∧
    ((nx (.registerWrite .host (BitVec.ofNat 48 (siteRegBase + 0x10000)) 0xE2) base).core 0).me.tolExp = 0xE ∧
    ((nx (.registerWrite .host (BitVec.ofNat 48 (siteRegBase + 0x30000)) 0x7F00) base).core 0).se.slotReserve = 96 ∧
    (nx (.registerWrite .host 0x32000000A018 20000) base).pwr.cap = 12500 ∧
    nx (.registerWrite .host 0x320000009028 0x10001) base = base ∧
    nx (.registerWrite (.orrery 2) 0x320000008020 0x40) base = base ∧
    (nx (.registerWrite .host 0x320000008020 0x40) base).sec.ch0.addr = 0x40 ∧
    (nx (.registerWrite .host 0x320000008028 1) base).sec.ch0.busy = false ∧
    (nx (.registerWrite .host 0x320000008028 1) (mem [(0, [4])])).sec.ch0.busy = true := by decide +kernel

/-- The state a step leaves. -/
def after (s : State) : State :=
  match step s with
  | .next t => t
  | _ => s

theorem witness_EmptyQueueIsATick :
    base.pending = [] ∧ base.pwr.off = false ∧ base.clk.locked = true ∧
    (after base).tick = 1 ∧ (after base).pending = [] := by decide +kernel

/-- 00 R4, 01 R22: physical site 9, else a spare, fused off, with a command in front. -/
theorem witness_FusedSitesStayOff :
    let s := { base with
      part := { base.part with fused := [9] }, grid := { base.grid with roles := sset (fun _ => Role.active) base.grid.roles 9 .fusedOff }
      pending := [.refclkLoss] }
    FusedOff s ∧ (after s).role 9 = .fusedOff := by
  refine ⟨⟨by decide +kernel, ?_, by decide +kernel⟩, by decide +kernel⟩
  have ne (m : Sparse (Option Nat)) (hm : ∀ x ∈ m, x.2 ≠ some 9) (l : Nat) : sget (fun _ => none) m l ≠ some 9 := by
    induction m with
    | nil => simp [sget]
    | cons x r ih =>
      simp only [sget]
      split
      · exact hm x (by simp)
      · exact ih (fun y hy => hm y (by simp [hy]))
  intro l p h
  rw [List.mem_singleton]
  rintro rfl
  exact ne base.grid.map (by decide +kernel) l h

/-- The queue is first in, first out. -/
theorem witness_StepRunsFrontCommand :
    let s := { base with pending := [.registerWrite .host 0x32000000A018 5000, .refclkLoss] }
    (after s).pwr.cap = 5000 ∧ (after s).pending = [.refclkLoss] := by decide +kernel

/-- No command of the table has bits, so no word spells one. -/
theorem test_no_word_spells_a_command : decodeTableWord 16 0x1234 = none := by decide

/-! ## Commands that cannot occur -/

def linkLen (k : Nat) : LinkUpInfo :=
  { peer := 1, cascade := 0, trained := true, peerEncReq := false, attested := true, chainOk := false, peerKey := [], report := List.replicate 3072 0
    sent := List.replicate 64 0, nonce := List.replicate 64 0, kem := List.replicate k 0 }
def pktEx (cls : BitVec 2) (n : Nat) : WritePacket :=
  { src := 1, cls := cls, win := 0, off := 0, data := List.replicate n 0, last := true }
def hitEx (a : EccAt) (w : Nat) : Instr := .meMma 0 0 [{ at_ := a, word := w, ue := true }]

/-- At least one ill-formed command for each check of Instr.wf: none passes. -/
theorem test_ill_formed_refused :
    ([.schedulingTick 20, .halt (.orrery 31) 0 0, .orrHealthConfirm (.orrery 20), .urgentLatch 20 none, .urgentLatch 0 (some (.sram true (some 20))), .watchdogExpiry 20, .takeoverComplete 20,
      .sysRst (.orrery 20) 0, .registerWrite (.orrery 20) 0 0, .registerWrite .host 4 0,
      .coreWindowAccess (.orrery 20) 0 0 0 (.read 4) [], .coreWindowAccess .host 0 0 2 (.read 4) [],
      .coreWindowAccess .host 0 0 0 (.read 3) [], .coreWindowAccess .host 0 0 0 (.write (List.replicate 65 0)) [],
      hitEx .sp (2 ^ 19), hitEx .acc (2 ^ 17), hitEx .dmem (2 ^ 13), hitEx .imemA (2 ^ 14), hitEx .imemB (2 ^ 14),
      hitEx (.bed 0) (96 * 2 ^ 20), hitEx (.spOf 1 2) (2 ^ 19), .meMask 0 ⟨0, [{ at_ := .dmem, word := 2 ^ 13, ue := false }]⟩, .hqStall 0 0 0, .hqStall 0 0 9, .hqStall 0 0 0x14, .hqStall 0 0 0x22] : List Instr).all
      (fun i => !i.wf) = true ∧
    ([.trHandoff 0 [], .linkUp 0 (linkLen 1567), .flitReceive 0 [], .laneFail 0 true ⟨9, 0⟩, .fabStall 0 3 false,
      .fabSend .host 0 (List.replicate 96 0), .fabSend (.orrery 20) 0 (List.replicate 64 0), .writePacket 0 (pktEx 3 16),
      .writePacket 0 (pktEx 1 24), .writePacket 0 (pktEx 1 0), .writeWithNotice 0 (pktEx 1 4112), .keyReplacement 0 (linkLen 0),
      .patrolScrub 0 4 .clean, .patrolScrub 0 0x30000000 .clean, .rowRepair 0 false 0 12288 true, .seedbankRepair 0 ⟨12, true⟩,
      .gddr7CrcRetry 0 ⟨13, 0⟩, .deviceRetrain 0 13 ⟨false, true⟩ true, .keyUe 17, .hartGraft 18, .frameReceive 3 none (List.replicate 64 0) false,
      .frameReceive 0 none (List.replicate 63 0) false, .descriptorPoll 3 false 0, .phaseRetire 80, .thermalSample 68 0,
      .coldStart [64] [] [] true, .coldStart [] [(4, 0)] [] true, .coldStart [] [(0, 13)] [] true, .coldStart [] [] [(34, 0)] true,
      .coldStart [] [] [(4096, 0)] true] : List Instr).all (fun i => !i.wf) = true := by decide +kernel

/-- The last command inside each range passes. -/
theorem test_well_formed_passes :
    ([.schedulingTick 19, .registerWrite .host 8 0, .coreWindowAccess .host 0 0 4 (.read 4) [],
      hitEx .sp (2 ^ 19 - 1), .hqStall 0 0 8, .hqStall 0 0 0x13, .hqStall 0 0 0x21, .linkUp 0 (linkLen 1568), .laneFail 0 true ⟨8, 0⟩,
      .fabStall 0 2 false, .writePacket 0 (pktEx 2 16), .patrolScrub 0 0x2FFFFFF8 .clean, .rowRepair 0 false 0 12287 true,
      .gddr7CrcRetry 0 ⟨12, 0⟩, .keyUe 16, .hartGraft 17, .frameReceive 2 none (List.replicate 64 0) false, .phaseRetire 79,
      .thermalSample 67 0, .coldStart [63] [(3, 12)] [(33, 1)] true] : List Instr).all Instr.wf = true := by decide +kernel

/-- 10 R307, 11 R340: a register write into the handoff or the send window is malformed. 14 R432: go with no area in GDDR7, or of a
code above 9, ends with result 1, and while the channel is busy is only a cause. -/
theorem witness_WriterClauses :
    let hand := nx (.registerWrite .host (BitVec.ofNat 48 (xdRegBase + 0x401000)) 5) base
    let send := nx (.registerWrite .host (BitVec.ofNat 48 (xdRegBase + 0x101000)) 5) base
    let busy := nx (.registerWrite .host 0x320000008028 1) (mem [(0, [4])])
    (hand.xd (base.dieOf 0)).tr.cause = 2 ∧ (send.xd 0).fab.cause = 0x200 ∧
    (nx (.registerWrite .host 0x320000008028 1) busy).sec.cause = 2 ∧
    (nx (.registerWrite .host 0x320000008028 1) base).sec.ch0.result = 1 ∧
    (nx (.registerWrite .host 0x320000008028 1) (mem [(0, [10])])).sec.ch0.result = 1 ∧
    nx (.registerWrite (.orrery 2) 0x320000008028 1) (mem [(0, [4])]) = mem [(0, [4])] := by decide +kernel

/-- 16 R484: the counter stands while the domain is off or the PLL is unlocked. 11 R351: a correction is taken once. A dark
core counts nothing. -/
theorem witness_TickClauses :
    let off : State := { base with pwr := { base.pwr with off := true } }
    let bent : State := { base with tick := 10, fab := { base.fab with adjust := -1 } }
    let loose : State := { base with clk := { base.clk with locked := false } }
    after off = off ∧ after loose = loose ∧ (after bent).tick = 10 ∧ (after bent).fab.adjust = 0 ∧ (after (after bent)).tick = 11 ∧
    base.fab.inbox = [] ∧ base.outbox.length ≤ base.fab.mailed ∧ base.host.hart0 = false := by decide +kernel

end Sys2Proof.Tests
end

section
/-! SUPPORT. What each command leaves alone: all but the grafts of sites, the loss of power, the resets and start-up leave
the part, the roles, the graft map, the retirement record and the queue as they are. -/

namespace Sys2Proof.Machine

/-- An outcome that is a next state with the part, the roles, the graft map, the record and the queue of `s`. -/
def KeepsFixed (s : State) (r : Res) : Prop := ∃ t, r = .next t ∧ t.fixed = s.fixed

theorem KeepsFixed.next {s t : State} (h : t.fixed = s.fixed) : KeepsFixed s (.next t) := ⟨t, rfl, h⟩

/-- A command to a core or site that answers: nothing happens where none does. -/
theorem KeepsFixed.key {s : State} {o : Option Nat} {f : Nat → State} (h : ∀ k, (f k).fixed = s.fixed) :
    KeepsFixed s (match o with | some k => .next (f k) | none => .next s) := by
  cases o with
  | none => exact .next rfl
  | some k => exact .next (h k)

theorem fixed_ite_of {c : Prop} [Decidable c] {a b s : State} (ha : a.fixed = s.fixed) (hb : b.fixed = s.fixed) :
    State.fixed (if c then a else b) = s.fixed := by
  split
  · exact ha
  · exact hb

theorem execBundle_keeps (l : SiteNo) (c : CoreNo) (imem dmem : Ecc) (s : State) :
    KeepsFixed s (execBundle l c imem dmem s) := by
  unfold execBundle
  split
  · split
    · exact .next (State.bundleStep_fixed ..)
    · exact .next rfl
  · exact .next rfl

theorem execCcXregAccess_keeps (l : SiteNo) (c : CoreNo) (x : BitVec 5) (wr : Option Word) (s : State) :
    KeepsFixed s (execCcXregAccess l c x wr s) := by
  unfold execCcXregAccess
  split
  · exact .next (State.xreg_fixed ..)
  · cases wr with
    | none => exact .next rfl
    | some v => exact .next rfl

theorem execReleaseNotice_keeps (l : SiteNo) (c : CoreNo) (hq : BitVec 5) (s : State) :
    KeepsFixed s (execReleaseNotice l c hq s) := by
  unfold execReleaseNotice
  split
  · exact .next rfl
  · dsimp only
    split
    · exact .next rfl
    · split
      · exact .next rfl
      · exact .next rfl

theorem execRemotePush_keeps (l : SiteNo) (c : CoreNo) (hq : BitVec 5) (s : State) :
    KeepsFixed s (execRemotePush l c hq s) := by
  unfold execRemotePush
  split
  · exact .next rfl
  · dsimp only
    split
    · exact .next rfl
    · exact .next rfl

theorem execEarlyAbort_keeps (l : SiteNo) (c : CoreNo) (s : State) : KeepsFixed s (execEarlyAbort l c s) := by
  unfold execEarlyAbort
  split
  · exact .next rfl
  · dsimp only
    split
    · exact .next rfl
    · exact .next (fixed_ite_of (State.earlyVote_fixed ..) rfl)

theorem execVoteTimeout_keeps (ctx : BitVec 4) (s : State) : KeepsFixed s (execVoteTimeout ctx s) := by
  unfold execVoteTimeout
  dsimp only
  split
  · exact .next rfl
  · exact .next (fixed_ite_of ((State.emit_fixed ..).trans (State.modSrec_fixed ..)) rfl)

theorem execBucketStart_keeps (xd : BitVec 2) (s : State) : KeepsFixed s (execBucketStart xd s) := by
  unfold execBucketStart
  refine .next ?_
  split
  · rfl
  · exact fixed_ite_of (State.startBucket_fixed ..) rfl

theorem execHeartbeatSend_keeps (s : State) : KeepsFixed s (execHeartbeatSend s) := by
  refine .next (fixed_ite_of rfl ?_)
  split
  · rfl
  · rfl

theorem execHeartbeatLimitExpiry_keeps (rank : WatchedRank) (s : State) : KeepsFixed s (execHeartbeatLimitExpiry rank s) := by
  refine .next ?_
  split
  · exact State.hbExpire_fixed ..
  · exact State.loneExpire_fixed ..

theorem execSpareLaneCheckDone_keeps (port : BitVec 4) (tx : Bool) (good : LaneVerdict) (s : State) :
    KeepsFixed s (execSpareLaneCheckDone port tx good s) := by
  refine .next (fixed_ite_of rfl (fixed_ite_of ?_ ?_))
  · exact (State.raiseFab_fixed ..).trans ((State.modPort_fixed ..).trans (fixed_ite_of rfl (State.sendControl_fixed ..)))
  · exact (State.narrow_fixed ..).trans (State.modPort_fixed ..)

theorem execSendComplete_keeps (xd : BitVec 2) (s : State) : KeepsFixed s (execSendComplete xd s) := by
  refine .next ?_
  split
  · rfl
  · exact State.modFab_fixed ..

theorem execKeyReplacement_keeps (port : BitVec 4) (info : LinkUpInfo) (s : State) :
    KeepsFixed s (execKeyReplacement port info s) :=
  .next (fixed_ite_of rfl (fixed_ite_of (State.attestBegin_fixed ..) (fixed_ite_of (State.attestFail_fixed ..)
    ((State.modPort_fixed ..).trans (State.agreeKeys_fixed ..)))))

theorem execUnmappedAccess_keeps (addr : Addr) (acc : Access) (s : State) : KeepsFixed s (execUnmappedAccess addr acc s) := by
  refine .next (fixed_ite_of ?_ rfl)
  cases acc with
  | read n => exact State.mapFault_fixed ..
  | write bs => exact State.mapFault_fixed ..

theorem execUrgentLatch_keeps (oc : BitVec 5) (ev : Option HwEvent) (s : State) : KeepsFixed s (execUrgentLatch oc ev s) := by
  refine .next ((State.claimUrgent_fixed ..).trans ?_)
  cases ev with
  | none => rfl
  | some e => exact State.hwEvent_fixed ..

theorem execHalt_keeps (req : Requester) (mask : BitVec 16) (reason : Byte) (s : State) :
    KeepsFixed s (execHalt req mask reason s) := by
  unfold execHalt
  split
  · exact .next (State.haltGo_fixed ..)
  · exact .next rfl

/-- The commands that retire a site or switch the module off or on: grafts, loss of power, resets and start-up. -/
def movesSites : Instr → Bool
  | .siteGraft .. | .spareSiteRetire .. | .vinSample .. | .orderlyOff | .refclkLoss | .rstN .. | .pwrgdFall | .coldStart .. => true
  | _ => false

/-- Every other command leaves the part, the roles, the graft map and the record alone. -/
theorem exec_keeps (i : Instr) (s : State) (h : movesSites i = false) : KeepsFixed s (exec i s) := by
  cases i with
  | bundle => exact execBundle_keeps ..
  | ccStart => exact .key fun _ => fixed_ite_of (State.ccStart_fixed ..) rfl
  | ccCtlPause => exact .key fun _ => State.ccPause_fixed ..
  | ccDbgResume => exact .key fun _ => State.ccResume_fixed ..
  | ccImemVerWrite => exact .key fun _ => State.imemVer_fixed ..
  | ccXregAccess => exact execCcXregAccess_keeps ..
  | coreWindowAccess => exact .next (State.coreWindow_fixed ..)
  | meFeed => exact .next (State.meRun_fixed (hf := fun _ _ _ => State.meFeed_fixed ..) ..)
  | meMma => exact .next (State.meRun_fixed (hf := fun _ _ _ => State.meMma_fixed ..) ..)
  | meMmaTileComplete => exact .key fun _ => fixed_ite_of rfl (State.mmaDone_fixed ..)
  | meMask => exact .next (State.meRun_fixed (hf := fun _ _ _ => State.meMask_fixed ..) ..)
  | meSt => exact .next (State.meRun_fixed (hf := fun _ _ _ => State.meSt_fixed ..) ..)
  | meStComplete => exact .key fun _ => State.stDone_fixed ..
  | meLdacc => exact .next (State.meRun_fixed (hf := fun _ _ _ => State.meLdacc_fixed ..) ..)
  | meZero => exact .next (State.meRun_fixed (hf := fun _ _ _ => State.meZero_fixed ..) ..)
  | mePin => exact .next (State.meRun_fixed (hf := fun _ _ _ => State.mePin_fixed ..) ..)
  | meSeal => exact .next (State.meRun_fixed (hf := fun _ _ _ => State.meSeal_fixed ..) ..)
  | meSelftest => exact .next (State.meRun_fixed (hf := fun _ _ _ => State.meSelftest_fixed ..) ..)
  | meSelftestDone => exact .key fun _ => State.selftestDone_fixed ..
  | meCtlBcastWrite => exact .key fun _ => State.modMe_fixed ..
  | bcastModeSwitch => exact .key fun _ => State.modMe_fixed ..
  | activityLevelBoundary => exact .key fun _ => State.levelBoundary_fixed ..
  | veChain => exact .next (State.veRun_fixed (hf := fun _ _ _ => State.veChain_fixed ..) ..)
  | veChainComplete => exact .key fun _ => fixed_ite_of rfl (State.chainDone_fixed ..)
  | veTload => exact .next (State.veRun_fixed (hf := fun _ _ _ => State.veTload_fixed ..) ..)
  | veTloadDone => exact .key fun _ => State.tloadDone_fixed ..
  | veTswap => exact .next (State.veRun_fixed (hf := fun _ _ _ => State.veTswap_fixed ..) ..)
  | tswapTakesEffect => exact .key fun _ => State.swapDone_fixed ..
  | seTdesc => exact .next (State.seRun_fixed (hf := fun _ _ _ => State.seTdesc_fixed ..) ..)
  | seStart => exact .next (State.seRun_fixed (hf := fun _ _ _ => State.seStart_fixed ..) ..)
  | seCopy => exact .next (State.seRun_fixed (hf := fun _ _ _ => State.seCopy_fixed ..) ..)
  | seHqcfg => exact .next (State.seRun_fixed (hf := fun _ _ _ => State.seHqcfg_fixed ..) ..)
  | seMcast => exact .next (State.seRun_fixed (hf := fun _ _ _ => State.seMcast_fixed ..) ..)
  | seFence => exact .next (State.seRun_fixed (hf := fun _ _ _ => State.seFence_fixed ..) ..)
  | fenceComplete => exact .key fun _ => State.fenceDone_fixed ..
  | spNop => exact .next (State.spRun_fixed (hf := fun _ _ _ _ => State.spNext_fixed ..) ..)
  | spLoop => exact .next (State.spRun_fixed (hf := fun _ _ _ _ => (State.spNext_fixed ..).trans (State.modSeCtx_fixed ..)) ..)
  | spEndl => exact .next (State.spRun_fixed (hf := fun _ _ _ _ => State.modSeCtx_fixed ..) ..)
  | spXfer => exact .next (State.spRun_fixed (hf := fun _ _ _ _ => State.spXfer_fixed ..) ..)
  | spAcq => exact .next (State.spRun_fixed (hf := fun _ _ _ _ => State.spAcq_fixed ..) ..)
  | spPush => exact .next (State.spRun_fixed (hf := fun _ _ _ _ => State.spPush_fixed ..) ..)
  | spPop => exact .next (State.spRun_fixed (hf := fun _ _ _ _ => State.spPop_fixed ..) ..)
  | spRel => exact .next (State.spRun_fixed (hf := fun _ _ _ _ => State.spRel_fixed ..) ..)
  | spSetx => exact .next (State.spRun_fixed (hf := fun _ _ _ _ => (State.spNext_fixed ..).trans (State.modSeCtx_fixed ..)) ..)
  | spWaitt => exact .next (State.spRun_fixed (hf := fun _ _ _ _ => State.spWaitt_fixed ..) ..)
  | spEnd => exact .next (State.spRun_fixed (hf := fun _ _ _ _ => (State.drainCtx_fixed ..).trans (State.modSeCtx_fixed ..)) ..)
  | transferComplete => exact .key fun _ => State.xferDone_fixed ..
  | releaseNotice => exact execReleaseNotice_keeps ..
  | remotePush => exact execRemotePush_keeps ..
  | hqStall => exact .key fun _ => State.hqStall_fixed ..
  | seCtlPause => exact .key fun _ => State.modSe_fixed ..
  | pacedPeriodEnd => exact .next (State.periodEnd_fixed ..)
  | schedulingTick => exact .next (State.schedTick_fixed ..)
  | quantumExpiry => exact .next (fixed_ite_of (State.beginSwitch_fixed ..) rfl)
  | load =>
    refine .next ?_
    split
    · exact State.loadEntry_fixed ..
    · rfl
  | start =>
    refine .next ?_
    split
    · exact fixed_ite_of ((State.startCores_fixed ..).trans (State.startEntry_fixed ..)) rfl
    · rfl
  | step =>
    refine .next ?_
    split
    · exact State.stepEntry_fixed ..
    · rfl
  | mark =>
    refine .next ?_
    split
    · exact State.markEntry_fixed ..
    · rfl
  | entryFinished => exact .next (fixed_ite_of (State.entryFinished_fixed ..) rfl)
  | ctxCreate => exact .next (State.adminServe_fixed (hf := fun _ _ => State.ctxCreate_fixed ..) ..)
  | ctxDestroy => exact .next (State.adminServe_fixed (hf := fun _ _ => State.ctxDestroy_fixed ..) ..)
  | ctxHold => exact .next (State.adminServe_fixed (hf := fun _ _ => State.ctxHold_fixed ..) ..)
  | ctxResume => exact .next (State.adminServe_fixed (hf := fun _ _ => State.ctxResume_fixed ..) ..)
  | stashSet => exact .next (State.adminServe_fixed (hf := fun _ _ => State.stashSet_fixed ..) ..)
  | fabCfg => exact .next (State.adminServe_fixed (hf := fun _ _ => State.fabCfg_fixed ..) ..)
  | mcastSet => exact .next (State.adminServe_fixed (hf := fun _ _ => State.mcastSet_fixed ..) ..)
  | ethRing => exact .next (State.adminServe_fixed (hf := fun _ _ => State.ethRing_fixed ..) ..)
  | fwLoad => exact .next (State.adminServe_fixed (hf := fun _ _ => State.fwSlot_fixed (hf := fun _ _ => State.fwLoad_fixed ..) ..) ..)
  | fwUpdate => exact .next (State.adminServe_fixed (hf := fun _ _ => State.fwSlot_fixed (hf := fun _ _ => State.fwUpdate_fixed ..) ..) ..)
  | detach => exact .next (State.adminServe_fixed (hf := fun _ _ => State.detach_fixed ..) ..)
  | reattach => exact .next (State.adminServe_fixed (hf := fun _ _ => State.reattach_fixed ..) ..)
  | orrLoadBlk => exact .next (State.loadBlk_fixed ..)
  | orrAdminBaseWrite => exact .next (State.setAdminBase_fixed ..)
  | attach => exact .next (State.attach_fixed ..)
  | driverHeartbeatLoss => exact .next (State.driverLost_fixed ..)
  | orrHealthConfirm => exact .next (State.confirm_fixed ..)
  | confirmWindowExpiry => exact .next (State.confirmExpire_fixed ..)
  | watchdogExpiry => exact .next (State.wdogExpire_fixed ..)
  | takeoverComplete => exact .next (State.takeover_fixed ..)
  | forwardEndBeacon => exact .next (State.fwdBeacon_fixed ..)
  | bwdEnd => exact .next (State.bwdEnd_fixed ..)
  | tallyResult => exact .next (State.tallyResult_fixed ..)
  | earlyAbort => exact execEarlyAbort_keeps ..
  | voteWord => exact .next (State.voteWordAt_fixed ..)
  | decision => exact .next (State.decisionAt_fixed ..)
  | voteTimeout => exact execVoteTimeout_keeps ..
  | decisionRequest => exact .next (State.decisionAsked_fixed ..)
  | updateFinished => exact .next (fixed_ite_of rfl (fixed_ite_of ((State.nodeAck_fixed ..).trans (State.modUpd_fixed ..)) (State.modUpd_fixed ..)))
  | commitAcknowledgement => exact .next (State.commitAckAt_fixed ..)
  | done => exact .next (State.doneAt_fixed ..)
  | shardRestore => exact .next (State.shardRestore_fixed ..)
  | trHandoff => exact .next (State.handoff_fixed ..)
  | bucketStart => exact execBucketStart_keeps ..
  | segmentData => exact .next (State.segmentAt_fixed ..)
  | memberNotice => exact .next (State.noticeAt_fixed ..)
  | bucketGraceExpiry => exact .next (State.graceExpire_fixed ..)
  | closeNotice => exact .next (State.closeNoticeAt_fixed ..)
  | writeBackData => exact .next (State.writeBackAt_fixed ..)
  | heartbeatSend => exact execHeartbeatSend_keeps ..
  | heartbeat => exact .next (State.heartbeatAt_fixed ..)
  | heartbeatLimitExpiry => exact execHeartbeatLimitExpiry_keeps ..
  | failureReport => exact .next (State.failureAt_fixed ..)
  | linkUp => exact .next (State.linkUp_fixed ..)
  | flitReceive => exact .next (State.flitIn_fixed ..)
  | resendRequest => exact .next (fixed_ite_of (State.resendFrom_fixed ..) rfl)
  | ackTimeout => exact .next (fixed_ite_of (State.resendFrom_fixed ..) rfl)
  | laneFail => exact .next (State.laneFail_fixed ..)
  | spareLaneCheckDone => exact execSpareLaneCheckDone_keeps ..
  | fabStall => exact .next (fixed_ite_of (State.raiseFab_fixed ..) rfl)
  | fabSend => exact .next (State.fabSend_fixed ..)
  | sendComplete => exact execSendComplete_keeps ..
  | writePacket => exact .next (State.rxWrite_fixed ..)
  | writeWithNotice => exact .next (State.rxWrite_fixed ..)
  | refusal => exact .next (State.refusalAt_fixed ..)
  | electionSend => exact .next (fixed_ite_of rfl (fixed_foldl _ _ _ fun _ _ => rfl))
  | election => exact .next (State.elect_fixed ..)
  | timeMessageSend => exact .next (fixed_ite_of rfl rfl)
  | timeMessage => exact .next (State.timeMessage_fixed ..)
  | delayRequest => exact .next (State.delayAsked_fixed ..)
  | delayResponse => exact .next (State.delayAnswered_fixed ..)
  | timeLost => exact .next (fixed_ite_of rfl ((State.raiseFab_fixed ..).trans (State.loseLodestar_fixed ..)))
  | syncIn => exact .next (fixed_ite_of rfl (fixed_ite_of (State.steer_fixed ..) rfl))
  | syncLost => exact .next (fixed_ite_of rfl (State.raiseFab_fixed ..))
  | syncOut => exact .next (fixed_ite_of rfl rfl)
  | ptpMessage => exact .next (fixed_ite_of rfl rfl)
  | epochProposal => exact .next (State.proposal_fixed ..)
  | proposalAnswer => exact .next (State.proposalAnswer_fixed ..)
  | epochCommit => exact .next (State.epochCommitAt_fixed ..)
  | heldNotice => exact .next (State.heldAt_fixed ..)
  | keyReplacement => exact execKeyReplacement_keeps ..
  | patrolScrub => exact .next (State.scrub_fixed ..)
  | rowRepair => exact .next (State.rowRepairRec_fixed ..)
  | protectedWrite => exact .next (State.protStep_fixed ..)
  | parityDelta => exact .next (State.takeDelta_fixed ..)
  | sbCtlWrite => exact .next (State.sbCtl_fixed ..)
  | initPassEnd => exact .next (State.initEnd_fixed ..)
  | seedbankRepair => exact .next (State.seedbankRepair_fixed ..)
  | rebuildEnd => exact .next (State.rebuildEnd_fixed ..)
  | gddr7CrcRetry => exact .next (State.crcRetry_fixed ..)
  | deviceRetrain => exact .next (State.retrain_fixed ..)
  | unmappedAccess => exact execUnmappedAccess_keeps ..
  | report => exact .next (State.secServe_fixed (hf := fun _ _ => State.secReport_fixed ..) ..)
  | sealCfg => exact .next (fixed_ite_of rfl (State.secServe_fixed (hf := fun _ _ => State.sealCfg_fixed ..) ..))
  | keyDeliver => exact .next (State.secServe_fixed (hf := fun _ _ => State.keyDeliver_fixed ..) ..)
  | importBlob => exact .next (State.secServe_fixed (hf := fun _ _ => State.secImport_fixed ..) ..)
  | exportBlob => exact .next (fixed_ite_of rfl (State.secServe_fixed (hf := fun _ _ => State.secExport_fixed ..) ..))
  | ownerSet => exact .next (State.secServe_fixed (hf := fun _ _ => State.ownerSet_fixed ..) ..)
  | peerPolicy => exact .next (State.secServe_fixed (hf := fun _ _ => State.peerPolicy_fixed ..) ..)
  | extendM7 => exact .next (State.secServe_fixed (hf := fun _ _ => State.extendReq_fixed ..) ..)
  | svnCommit => exact .next (State.secServe_fixed (hf := fun _ _ => State.svnCommit_fixed ..) ..)
  | linkAttest => exact .next (State.secServe_fixed (hf := fun _ _ => State.linkAttest_fixed ..) ..)
  | codeMeasure => exact .next (State.secServe_fixed (hf := fun _ _ => State.codeMeasure_fixed ..) ..)
  | erase => exact .next (State.secServe_fixed (hf := fun _ _ => State.eraseReq_fixed ..) ..)
  | entropyFail => exact .next (State.raiseSec_fixed ..)
  | keyUe => exact .next (fixed_ite_of rfl (State.raiseSec_fixed ..))
  | urgentLatch => exact execUrgentLatch_keeps ..
  | halt => exact execHalt_keeps ..
  | haltArrival => exact .key fun _ => State.haltArrive_fixed ..
  | siteHeartbeatLoss => exact .next (fixed_ite_of (State.raise_fixed ..) rfl)
  | coreLost =>
    refine .next ?_
    split
    · exact fixed_ite_of rfl (State.raiseSite_fixed ..)
    · rfl
  | edgeFail => exact .next (State.edgeFail_fixed ..)
  | columnGraft => exact .key fun _ => State.columnGraft_fixed ..
  | coreGraft => exact .key fun _ => State.coreGraft_fixed ..
  | stepRestart => exact .next (State.stepRestart_fixed ..)
  | halfFail => exact .next (State.halfFail_fixed ..)
  | hartGraft => exact .next (State.hartGraft_fixed ..)
  | frameReceive => exact .next (State.frameIn_fixed ..)
  | descriptorPoll => exact .next (State.ethPoll_fixed ..)
  | pruneLevelExit => exact .next (State.leaveLevel_fixed ..)
  | overvoltage => exact .next (State.overvoltage_fixed ..)
  | governorTick => exact .next (State.governorTick_fixed ..)
  | phaseRetire => exact .next (State.phaseRetire_fixed ..)
  | thermalSample => exact .next (State.thermalSample_fixed ..)
  | throttleStep => exact .next (State.throttleStep_fixed ..)
  | refclkReturn => exact .next (State.refclkReturn_fixed ..)
  | holdoverExpiry => exact .next (fixed_ite_of (State.goOff_fixed ..) rfl)
  | pllUnlock => exact .next (fixed_ite_of rfl ((State.goOff_fixed ..).trans (State.raise_fixed ..)))
  | serdesPll => exact .next (fixed_ite_of rfl ((State.portDown_fixed ..).trans (State.raise_fixed ..)))
  | sysRst => exact .next (State.sysRst_fixed ..)
  | registerWrite => exact .next (State.regWrite_fixed ..)
  | meLdaccComplete => exact .key fun _ => State.ldaccDone_fixed ..
  | spWaittTickReached => exact .next (State.spRun_fixed (hf := fun _ _ _ _ => fixed_ite_of (State.spNext_fixed ..) rfl) ..)
  | beaconQueueDrain => exact .key fun _ => State.drainBeacon_fixed ..
  | gddr7IdleSelfRefresh => exact .next (fixed_ite_of rfl rfl)
  | siteGraft => cases h
  | spareSiteRetire => cases h
  | vinSample => cases h
  | orderlyOff => cases h
  | refclkLoss => cases h
  | rstN => cases h
  | pwrgdFall => cases h
  | coldStart => cases h
end Sys2Proof.Machine
end

section
/-! No fused-off site comes back (00 R4, 01 R22): the invariant `FusedOff` under the operations that move sites, and so under
each step (O54). -/

namespace Sys2Proof.Machine

/-! ## The graft map that a cold reset builds (01 R22) -/

/-- No fused-off site of the list is in service in the grid: the parts of `FusedOff` that the grid alone says. -/
def GridOff (fused : List Nat) (g : Grid) : Prop :=
  (∀ p ∈ fused, p < 64 → sget (fun _ => Role.active) g.roles p = .fusedOff) ∧
  ∀ l p, sget (fun _ => none) g.map l = some p → p ∉ fused

/-- An entry of the retirement record names no fused-off site of the list. -/
def SparesFused (fused : List Nat) (r : Retired) : Prop :=
  r.phys.toNat ∉ fused ∧ ∀ q, r.spare = some q → q.toNat ∉ fused

theorem fusedOff_iff (s : State) :
    FusedOff s ↔ GridOff s.part.fused s.grid ∧ ∀ r ∈ s.flash.record, SparesFused s.part.fused r :=
  and_assoc.symm

/-- A role other than `fusedOff`, given to a site that is not fused off. -/
theorem GridOff.setRole {fused : List Nat} {g : Grid} {p : Nat} (h : GridOff fused g) (hp : p ∉ fused) (r : Role) :
    GridOff fused { g with roles := sset (fun _ => Role.active) g.roles p r } := by
  refine ⟨fun j hj hlt => ?_, h.2⟩
  have hne : j ≠ p := fun e => hp (e ▸ hj)
  simpa [hne] using h.1 j hj hlt

/-- A logical ID served by a site that is not fused off, or by none. -/
theorem GridOff.setMap {fused : List Nat} {g : Grid} {q : Option Nat} (h : GridOff fused g) (l : Nat)
    (hq : ∀ p, q = some p → p ∉ fused) : GridOff fused { g with map := sset (fun _ => none) g.map l q } := by
  refine ⟨h.1, fun j p hj => ?_⟩
  simp only [sget_sset] at hj
  split at hj
  · exact hq p hj
  · exact h.2 j p hj

/-- The grid's other fields are free. -/
theorem GridOff.congr {fused : List Nat} {g g' : Grid} (h : GridOff fused g) (hr : g'.roles = g.roles) (hm : g'.map = g.map) :
    GridOff fused g' := by
  unfold GridOff
  rw [hr, hm]
  exact h

theorem GridOff.applyRetired {fused : List Nat} {g : Grid} {r : Retired} (h : GridOff fused g) (hr : SparesFused fused r) :
    GridOff fused (g.applyRetired r) := by
  have hphys := h.setRole hr.1 .retired
  unfold Grid.applyRetired
  dsimp only
  split
  next l q _ hq =>
    have hq' := hr.2 q hq
    exact ((hphys.setRole hq' .active).setMap l.toNat (q := some q.toNat) (by simpa using hq')).congr rfl rfl
  next l _ _ => exact (hphys.setMap l.toNat (q := none) (by simp)).congr rfl rfl
  next => exact hphys.congr rfl rfl

/-- A table of values reads as the list it was made from. -/
theorem sget_tableFrom {α : Type} [DecidableEq α] (d : α) (vs : List α) (k j : Nat) :
    sget (fun _ => d) (tableFrom d k vs) j = if k ≤ j then vs.getD (j - k) d else d := by
  induction vs generalizing k with
  | nil => simp [tableFrom]
  | cons v r ih =>
    have hrest : sget (fun _ => d) (tableFrom d (k + 1) r) j = if k + 1 ≤ j then r.getD (j - (k + 1)) d else d := ih (k + 1)
    have hcons : sget (fun _ => d) (tableFrom d k (v :: r)) j = if j = k then v else sget (fun _ => d) (tableFrom d (k + 1) r) j := by
      simp only [tableFrom]
      split
      next hv =>
        split
        next hj => subst hj; rw [hrest, if_neg (by omega), hv]
        · rfl
      · rfl
    rw [hcons, hrest]
    rcases Nat.lt_trichotomy k j with hlt | rfl | hgt
    · rw [if_neg (by omega), if_pos (by omega), if_pos (by omega), show j - k = j - (k + 1) + 1 by omega, List.getD_cons_succ]
    · simp
    · rw [if_neg (by omega), if_neg (by omega), if_neg (by omega)]

/-- A site of manufactured role active is not fused off. -/
theorem Part.not_fused_of_mem_actives {p : Part} {j : Nat} (h : j ∈ p.actives) : j ∉ p.fused := by
  intro hf
  simp [Part.actives, Part.role, hf] at h

/-- The map of the part alone, before the record is applied. -/
theorem gridOff_build_nil (p : Part) : GridOff p.fused (Grid.build p []) := by
  refine ⟨fun j hj hlt => ?_, fun l q hq => ?_⟩
  · simp [Grid.build, sget_tableFrom, List.getD, hlt, Part.role, hj]
  · simp only [Grid.build, List.foldl_nil, sget_tableFrom, Nat.zero_le, if_true, List.getD_eq_getElem?_getD,
      List.getElem?_map, Nat.sub_zero] at hq
    obtain ⟨j, hj, rfl⟩ : ∃ j, p.actives[l]? = some j ∧ j = q := by
      cases h : p.actives[l]? with
      | none => simp [h] at hq
      | some j => exact ⟨j, rfl, by simpa [h] using hq⟩
    exact Part.not_fused_of_mem_actives (List.mem_of_getElem? hj)

theorem gridOff_build {p : Part} {record : List Retired} (h : ∀ r ∈ record, SparesFused p.fused r) :
    GridOff p.fused (Grid.build p record) := by
  have key (l : List Retired) (g : Grid) (hg : GridOff p.fused g) (hl : ∀ r ∈ l, SparesFused p.fused r) :
      GridOff p.fused (l.foldl Grid.applyRetired g) := by
    induction l generalizing g with
    | nil => exact hg
    | cons r l ih =>
      exact ih _ (hg.applyRetired (hl r List.mem_cons_self)) fun x hx => hl x (List.mem_cons_of_mem _ hx)
  exact key record _ (gridOff_build_nil p) h

/-! ## The spare that a graft takes (01 R26) -/

theorem State.present_lt {s : State} {p : Nat} (h : s.present p = true) : p < 64 := by
  unfold State.present at h
  split at h
  · exact of_decide_eq_true h
  · exact of_decide_eq_true h
  · cases h

/-- Every site of the levels is in the first frontier or present. -/
theorem State.mem_hopLevels {s : State} {n : Nat} {seen front l : List Nat} {q : Nat} (hl : l ∈ s.hopLevels n seen front)
    (hq : q ∈ l) : q ∈ front ∨ s.present q = true := by
  induction n generalizing seen front with
  | zero => simp [State.hopLevels] at hl
  | succ n ih =>
    simp only [State.hopLevels, List.mem_cons] at hl
    rcases hl with rfl | hl
    · exact .inl hq
    · refine .inr ((ih hl).elim (fun hmem => ?_) id)
      simp only [List.mem_filter, Bool.and_eq_true] at hmem
      exact hmem.2.1

/-- The lowest-numbered site of a list is one of the list. -/
theorem mem_of_foldl_min {l : List Nat} {m : Option Nat} {q : Nat}
    (h : l.foldl (fun (m : Option Nat) q => some (match m with | some x => min x q | none => q)) m = some q) :
    q ∈ l ∨ m = some q := by
  induction l generalizing m with
  | nil => exact .inr h
  | cons a r ih =>
    rcases ih h with hmem | heq
    · exact .inl (List.mem_cons_of_mem _ hmem)
    · cases m with
      | none => exact .inl (by simp_all)
      | some x =>
        rcases Nat.le_total x a with hle | hle
        · exact .inr (by simp_all)
        · exact .inl (by simp_all)

theorem State.nearestSpare_spare {s : State} {p q : Nat} (hp : p < 64) (h : s.nearestSpare p = some q) :
    q < 64 ∧ s.role q = .spare := by
  unfold State.nearestSpare at h
  obtain ⟨l, hl, hmin⟩ := List.exists_of_findSome?_eq_some h
  have hmem := (mem_of_foldl_min hmin).resolve_right (by simp)
  simp only [List.mem_filter, decide_eq_true_eq] at hmem
  refine ⟨?_, hmem.2⟩
  rcases State.mem_hopLevels hl hmem.1 with hfront | hpres
  · simp_all
  · exact State.present_lt hpres

/-! ## What a flash record, a start and a logical ID say -/

theorem State.flashRecord_part (s : State) (ok : Bool) (f : Flash → Flash) : (s.flashRecord ok f).part = s.part := by
  unfold State.flashRecord
  split
  · rfl
  · exact congrArg Fixed.part (State.almFw_fixed s 5 0)

theorem State.role_of_logicalOf {s : State} {p l : Nat} (h : s.logicalOf p = some l) : s.role p = .active := by
  unfold State.logicalOf at h
  split at h
  · assumption
  · cases h

theorem State.bootLoader_fixed {s u : State} (h : s.bootLoader = some u) : u.fixed = s.fixed := by
  unfold State.bootLoader at h
  obtain ⟨x, _, rfl⟩ := Option.map_eq_some_iff.1 h
  simp only [↓fixed_upd, ↓fixed_ite, ↓ite_self, State.fresh, ↓State.modSec_fixed, ↓State.raiseSec_fixed, ↓State.gddrFill_fixed,
    ↓State.writeNow_fixed, ↓State.almFw_fixed]

theorem State.bootStage1_fixed {s u : State} (h : s.bootStage1 = some u) : u.fixed = s.fixed := by
  unfold State.bootStage1 at h
  obtain ⟨x, _, rfl⟩ := Option.map_eq_some_iff.1 h
  exact (State.modSec_fixed ..).trans (fixed_ite_of (State.raiseSec_fixed ..) rfl)

end Sys2Proof.Machine

namespace Sys2Proof
open Sys2Proof.Machine

/-! ## The invariant under the operations that move sites -/

variable {s t : State}

theorem FusedOff.of_fixed (hs : FusedOff s) (h : t.fixed = s.fixed) : FusedOff t := by
  have hpart : t.part = s.part := congrArg Fixed.part h
  have hroles : t.grid.roles = s.grid.roles := congrArg Fixed.roles h
  have hmap : t.grid.map = s.grid.map := congrArg Fixed.map h
  have hrecord : t.flash.record = s.flash.record := congrArg Fixed.record h
  rw [fusedOff_iff] at hs ⊢
  rw [hpart, hrecord]
  exact ⟨hs.1.congr hroles hmap, hs.2⟩

/-- A site of another role is not fused off. -/
theorem FusedOff.not_fused (hs : FusedOff s) {p : Nat} (hp : p < 64) (hr : s.role p ≠ .fusedOff) : p ∉ s.part.fused :=
  fun hf => hr (hs.1 p hf hp)

theorem FusedOff.not_fused_spare (hs : FusedOff s) {p q : Nat} (hp : p < 64) (h : s.nearestSpare p = some q) :
    q < 64 ∧ q ∉ s.part.fused := by
  obtain ⟨hq, hr⟩ := State.nearestSpare_spare hp h
  exact ⟨hq, hs.not_fused hq (by simp [hr])⟩

/-- Cold reset values of a part and flash whose record names no fused-off site. -/
theorem fusedOff_coldFrom {p : Part} {f : Flash} (n : Nat) (h : ∀ r ∈ f.record, SparesFused p.fused r) :
    FusedOff (State.coldFrom p f n) :=
  (fusedOff_iff _).2 ⟨gridOff_build h, h⟩

theorem FusedOff.powerOff (hs : FusedOff s) : FusedOff s.powerOff := by
  have hcold : FusedOff (State.coldFrom s.part s.flash s.freeCtr) := fusedOff_coldFrom _ ((fusedOff_iff s).1 hs).2
  have hmc := hcold.of_fixed (fixed_foldl (fun (t : State) x => t.modMc x (fun _ => (s.xd x).mc.failedOnly)) (List.range 4) _
    fun _ _ => State.modMc_fixed ..)
  exact hmc

/-- A new entry of the retirement record. -/
theorem FusedOff.appendRecord (hs : FusedOff s) {r : Retired} (hr : SparesFused s.part.fused r) (ok : Bool) :
    FusedOff (s.flashRecord ok (fun f => { f with record := f.record ++ [r] })) := by
  unfold State.flashRecord
  split
  · rw [fusedOff_iff] at hs ⊢
    refine ⟨hs.1, fun x hx => ?_⟩
    rcases List.mem_append.1 hx with hx | hx
    · exact hs.2 x hx
    · rw [List.mem_singleton.1 hx]
      exact hr
  · exact hs.of_fixed ((State.modOrr_fixed ..).trans (State.almFw_fixed ..))

/-- Another grid. -/
theorem FusedOff.setGrid (hs : FusedOff s) {g : Grid} (hg : GridOff s.part.fused g) : FusedOff { s with grid := g } :=
  (fusedOff_iff _).2 ⟨hg, ((fusedOff_iff s).1 hs).2⟩

theorem FusedOff.commitMap (hs : FusedOff s) {p : Nat} {q : Option Nat} (l : Nat) (hp : p ∉ s.part.fused)
    (hq : ∀ x, q = some x → x ∉ s.part.fused) : FusedOff (s.commitMap p l q) := by
  have hg := ((((fusedOff_iff s).1 hs).1.setRole hp .retired).setMap l hq)
  refine FusedOff.of_fixed (s := { s with grid := _ }) ?_ (State.rewriteRoutes_fixed _)
  cases q with
  | none => exact hs.setGrid (hg.congr rfl rfl)
  | some x => exact hs.setGrid ((hg.setRole (hq x rfl) .active).congr rfl rfl)

theorem FusedOff.graftOnto (hs : FusedOff s) {p q : Nat} (l : Nat) (t0 : DWord) (hp : p ∉ s.part.fused)
    (hq : q ∉ s.part.fused) : FusedOff (s.graftOnto p l q t0) := by
  have hlose := State.loseHolder_fixed s p
  have hpart : (s.loseHolder p).part = s.part := congrArg Fixed.part hlose
  have hmap : FusedOff ((s.loseHolder p).commitMap p l (some q)) :=
    (hs.of_fixed hlose).commitMap l (hpart ▸ hp) (by rintro x ⟨⟩; exact hpart ▸ hq)
  refine hmap.of_fixed ((fixed_foldl _ _ _ fun _ _ => State.takeCore_fixed ..).trans ((State.graftSeedbank_fixed ..).trans rfl))

theorem FusedOff.retireSite (hs : FusedOff s) {p : Nat} (l : Nat) (hp : p ∉ s.part.fused) : FusedOff (s.retireSite p l) := by
  have hlose := State.loseHolder_fixed s p
  have hpart : (s.loseHolder p).part = s.part := congrArg Fixed.part hlose
  have hmap : FusedOff ((s.loseHolder p).commitMap p l none) := (hs.of_fixed hlose).commitMap l (hpart ▸ hp) (by simp)
  refine hmap.of_fixed ((State.enterHold_fixed _).trans ((fixed_foldl _ _ _ fun u n => ?_).trans
    ((fixed_foldl _ _ _ fun u n => State.stopCtx_fixed ..).trans
      (fixed_ite_of rfl (fixed_ite_of (State.rebuildFails_fixed ..) (State.setUnprot_fixed ..))))))
  split
  · exact State.reportFailed_fixed ..
  · rfl

/-- An entry for a site in service, with the spare that takes its ID. -/
theorem FusedOff.sparesFused (hs : FusedOff s) {p : Nat} (hp : p < 64) (hr : s.role p ≠ .fusedOff) (l : Option SiteNo) {q : Option Nat}
    (hq : ∀ x, q = some x → x < 64 ∧ x ∉ s.part.fused) :
    SparesFused s.part.fused { phys := BitVec.ofNat 6 p, logical := l, spare := q.map (BitVec.ofNat 6) } := by
  refine ⟨?_, fun x hx => ?_⟩
  · simpa [Nat.mod_eq_of_lt hp] using hs.not_fused hp hr
  · obtain ⟨y, hy, rfl⟩ := Option.map_eq_some_iff.1 hx
    simpa [Nat.mod_eq_of_lt (hq y hy).1] using (hq y hy).2

theorem FusedOff.siteGraft (hs : FusedOff s) {p : Nat} (hp : p < 64) (ok : Bool) : FusedOff (s.siteGraft p ok) := by
  unfold State.siteGraft
  split
  next g l _ hl =>
    have hrole : s.role p ≠ .fusedOff := by simp [State.role_of_logicalOf hl]
    have hp' := hs.not_fused hp hrole
    have hrec := (hs.of_fixed (State.dropGraft_fixed s g)).appendRecord (ok := ok)
      (hs.sparesFused hp hrole (some (BitVec.ofNat 6 l)) fun x hx => hs.not_fused_spare hp hx)
    have hpart (f : Flash → Flash) : ((s.dropGraft g).flashRecord ok f).part = s.part := State.flashRecord_part _ ok f
    split
    · exact hs
    · dsimp only
      split
      next q hq =>
        exact (hrec.graftOnto l g.tick (by rwa [hpart]) (by rw [hpart]; exact (hs.not_fused_spare hp hq).2)).of_fixed
          (State.almGraft_fixed ..)
      · exact (hrec.retireSite l (by rwa [hpart])).of_fixed (State.almGraft_fixed ..)
  · exact hs

theorem FusedOff.retireSpare (hs : FusedOff s) {p : Nat} (hp : p < 64) (ok : Bool) : FusedOff (s.retireSpare p ok) := by
  unfold State.retireSpare
  split
  · exact hs
  next g _ =>
    split
    next hr =>
      have hrole : s.role p ≠ .fusedOff := by simp [hr]
      have hgrid := hs.setGrid (((fusedOff_iff s).1 hs).1.setRole (hs.not_fused hp hrole) .retired)
      have hdrop := hgrid.of_fixed ((State.dropGraft_fixed _ g).trans (State.rewriteRoutes_fixed _))
      exact (hdrop.appendRecord (ok := ok) (hs.sparesFused hp hrole none (q := none) (by simp))).of_fixed (State.almGraft_fixed ..)
    · exact hs.of_fixed ((State.queueGraft_fixed ..).trans (State.dropGraft_fixed ..))
    · exact hs.of_fixed (State.dropGraft_fixed ..)

theorem FusedOff.bootRetire (hs : FusedOff s) {p : Nat} (hp : p < 64) (ok : Bool) : FusedOff (State.bootRetire ok s p) := by
  have key (r : Retired) (hr : SparesFused s.part.fused r) :
      FusedOff (({ s with grid := s.grid.applyRetired r } : State).flashRecord ok (fun f => { f with record := f.record ++ [r] })) :=
    (hs.setGrid (((fusedOff_iff s).1 hs).1.applyRetired hr)).appendRecord hr ok
  unfold State.bootRetire
  dsimp only
  split
  next r hr =>
    refine (key r ?_).of_fixed (State.almGraft_fixed ..)
    split at hr
    next hrole =>
      obtain ⟨l, _, rfl⟩ := Option.map_eq_some_iff.1 hr
      exact hs.sparesFused hp (by simp [hrole]) _ fun x hx => hs.not_fused_spare hp hx
    next hrole =>
      cases hr
      exact hs.sparesFused hp (by simp [hrole]) none (q := none) (by simp)
    · cases hr
  · exact hs

theorem FusedOff.bootRetireAll (hs : FusedOff s) (ps : List Nat) (ok : Bool) (hps : ∀ p ∈ ps, p < 64) :
    FusedOff (ps.foldl (State.bootRetire ok) s) := by
  induction ps generalizing s with
  | nil => exact hs
  | cons p r ih =>
    exact ih (hs.bootRetire (hps p List.mem_cons_self) ok) fun x hx => hps x (List.mem_cons_of_mem _ hx)

theorem FusedOff.bootWeakSites (hs : FusedOff s) (cols : List (Nat × BitVec 130)) (ok : Bool) (n : Nat) :
    FusedOff (s.bootWeakSites cols ok n) := by
  induction n generalizing s with
  | zero => exact hs
  | succ n ih =>
    unfold State.bootWeakSites
    split
    next p hp => exact ih (hs.bootRetire (List.mem_range.1 (List.mem_of_find?_eq_some hp)) ok)
    · exact hs

theorem FusedOff.bootSelftest (hs : FusedOff s) (cols : List (Nat × BitVec 130)) (ok : Bool) :
    FusedOff (s.bootSelftest cols ok) :=
  (hs.bootWeakSites cols ok 64).of_fixed ((fixed_foldl _ _ _ fun _ _ => State.modSite_fixed ..).trans
    (fixed_ite_of rfl (State.flashRecord_fixed _ _ _ fun _ => rfl)))

theorem FusedOff.bootEnd (hs : FusedOff s) (cols : List (Nat × BitVec 130)) (ok : Bool) : FusedOff (s.bootEnd cols ok) := by
  have htest := hs.bootSelftest cols ok
  unfold State.bootEnd
  dsimp only
  split
  next u hu => exact htest.of_fixed (State.bootLoader_fixed hu)
  · exact htest.of_fixed (State.bootFail_fixed _)

theorem FusedOff.bootCold (hs : FusedOff s) (badSites : List Nat) (badDevs : List (Nat × Nat)) (cols : List (Nat × BitVec 130))
    (ok : Bool) : FusedOff (s.bootCold badSites badDevs cols ok) := by
  unfold State.bootCold
  dsimp only
  split
  · exact hs.powerOff.of_fixed (State.bootFail_fixed _)
  next u hu =>
    have htrain := hs.powerOff.of_fixed ((State.trainAll_fixed u badDevs).trans ((State.bootStage1_fixed hu).trans (fixed_upd s.powerOff ..)))
    split
    · exact htrain
    · refine (htrain.bootRetireAll _ ok fun p hp => ?_).bootEnd cols ok
      exact of_decide_eq_true (List.mem_filter.1 hp).2

theorem FusedOff.bootWarm (hs : FusedOff s) (badDevs : List (Nat × Nat)) (cols : List (Nat × BitVec 130)) (ok : Bool) :
    FusedOff (s.bootWarm badDevs cols ok) := by
  have htrain := hs.of_fixed (State.trainAll_fixed { s with warm := .idle } badDevs)
  unfold State.bootWarm
  dsimp only
  split
  · exact htrain
  · exact htrain.bootEnd cols ok

/-! ## The commands that move sites -/

theorem FusedOff.vinSample (hs : FusedOff s) (v : Half) : FusedOff (s.vinSample v) := by
  have key (u : State) (hu : u.fixed = s.fixed) (worst : Nat) : FusedOff (if u.powered then u.enterLevels worst 5
      else if u.starting && decide (v.toNat < 4600) then u.powerOff else u) := by
    have hoff := hs.of_fixed hu
    split
    · exact hoff.of_fixed (State.enterLevels_fixed ..)
    · split
      · exact hoff.powerOff
      · exact hoff
  unfold State.vinSample
  split
  · exact hs
  · exact key _ (State.modPwr_fixed ..) _

theorem FusedOff.refclkLoss (hs : FusedOff s) : FusedOff s.refclkLoss := by
  unfold State.refclkLoss
  split
  · exact hs
  · split
    · exact hs
    · split
      · exact FusedOff.powerOff (s := { s with clk := _ }) hs
      · exact hs.of_fixed (State.raise_fixed ..)

theorem FusedOff.rstN (hs : FusedOff s) (low : Nat) : FusedOff (s.rstN low) := by
  unfold State.rstN
  split
  · exact hs
  · have hfresh := hs.of_fixed (State.fresh_fixed s 1)
    dsimp only
    split
    · exact hfresh.powerOff
    · exact hfresh

theorem FusedOff.pwrgdFall (hs : FusedOff s) : FusedOff s.pwrgdFall := by
  unfold State.pwrgdFall
  dsimp only
  split
  · exact hs.of_fixed (State.goOff_fixed _)
  · exact FusedOff.powerOff (s := { s with pins := _ }) hs

/-- Every command keeps the invariant. -/
theorem FusedOff.exec (hs : FusedOff s) (i : Instr) (h : Machine.exec i s = .next t) : FusedOff t := by
  by_cases hi : movesSites i = false
  · obtain ⟨u, hu, hfix⟩ := exec_keeps i s hi
    cases hu.symm.trans h
    exact hs.of_fixed hfix
  · cases i
    case siteGraft site ok => cases h; exact hs.siteGraft site.isLt ok
    case spareSiteRetire site ok => cases h; exact hs.retireSpare site.isLt ok
    case vinSample v => cases h; exact hs.vinSample v
    case orderlyOff =>
      cases h
      split
      · exact hs.powerOff
      · exact hs
    case refclkLoss => cases h; exact hs.refclkLoss
    case rstN low => cases h; exact hs.rstN low
    case pwrgdFall => cases h; exact hs.pwrgdFall
    case coldStart badSites badDevs cols ok =>
      cases h
      split
      · exact hs.bootWarm badDevs cols ok
      · split
        · exact hs
        · exact hs.bootCold badSites badDevs cols ok
    all_goals exact absurd rfl hi

/-- Settles O54: each command keeps the invariant (`FusedOff.exec`), and a tick changes none of its parts. -/
theorem fusedSitesStayOff : Obligations.FusedSitesStayOff := by
  intro s t hs h
  unfold step at h
  split at h
  · cases h
    exact hs.of_fixed (State.tickOnce_fixed s)
  next c rest _ => exact FusedOff.exec (s := { s with pending := rest }) hs c h

end Sys2Proof
end

section
/-! What a register write does, by its address (00 R12, R13): the places of the register blocks, one equation per block, and the
writes of leaf causes (15 R462). -/

namespace Sys2Proof.Machine

/-! ## Addresses of the register blocks (12 R378) -/

theorem place_siteReg {l off : Nat} (hl : l < 64) (ho : off < 2 ^ 24) : place (siteRegBase + l * 2 ^ 24 + off) = .siteReg l off := by
  have hf : fld (siteRegBase + l * 2 ^ 24 + off) 24 6 = l := by simp only [fld, siteRegBase]; omega
  have hm : (siteRegBase + l * 2 ^ 24 + off) % 2 ^ 24 = off := by simp only [siteRegBase]; omega
  rw [place, if_neg (by simp only [gddrBytes, siteRegBase]; omega), if_neg (by simp only [bedBase, siteRegBase]; omega),
    if_neg (by simp only [coreBase, siteRegBase]; omega), if_pos (by simp only [siteRegBase]; omega), hf, hm]

theorem place_xdReg {x off : Nat} (hx : x < 4) (ho : off < 2 ^ 24) : place (xdRegBase + x * 2 ^ 24 + off) = .xdReg x off := by
  have hf : fld (xdRegBase + x * 2 ^ 24 + off) 24 2 = x := by simp only [fld, xdRegBase]; omega
  have hm : (xdRegBase + x * 2 ^ 24 + off) % 2 ^ 24 = off := by simp only [xdRegBase]; omega
  rw [place, if_neg (by simp only [gddrBytes, xdRegBase]; omega), if_neg (by simp only [bedBase, xdRegBase]; omega),
    if_neg (by simp only [coreBase, xdRegBase]; omega), if_neg (by simp only [siteRegBase, xdRegBase]; omega),
    if_pos (by simp only [xdRegBase]; omega), hf, hm]

theorem place_sys {off : Nat} (ho : off < 2 ^ 24) : place (sysBase + off) = .sys off := by
  rw [place, if_neg (by simp only [gddrBytes, sysBase]; omega), if_neg (by simp only [bedBase, sysBase]; omega),
    if_neg (by simp only [coreBase, sysBase]; omega), if_neg (by simp only [siteRegBase, sysBase]; omega),
    if_neg (by simp only [xdRegBase, sysBase]; omega), if_pos (by simp only [sysBase]; omega), Nat.add_sub_cancel_left]

/-! ## With no closure in force, a write goes where its address says -/

section
variable {s : State} {req : Requester} (hs : ∀ n, n < 16 → s.sealedNow n = false)
include hs

/-- 14 R438 refuses nothing while no closure is in force. -/
theorem State.refusedBySeal_unsealed (wr : Bool) (pl : Place) : s.refusedBySeal req (s.ctxOf req) wr pl = false := by
  have hclosed : s.closedBy pl = none := by
    refine List.find?_eq_none.2 fun n hn => ?_
    simp [hs n (List.mem_range.1 hn)]
  unfold State.refusedBySeal
  rw [hclosed]
  split
  · rfl
  · dsimp only
    split
    next n hn =>
      have hlt : n < 16 := by
        unfold State.ctxOf at hn
        split at hn
        next l c =>
          obtain ⟨k, _, hk⟩ := Option.bind_eq_some_iff.1 hn
          obtain ⟨b, _, rfl⟩ := Option.map_eq_some_iff.1 hk
          exact b.isLt
        · cases hn
      simp [hs n hlt]
    · simp

theorem exec_registerWrite_unsealed (a : Addr) (v : DWord) :
    exec (.registerWrite req a v) s = .next (match place a.toNat with
      | .siteReg f off =>
        (match s.siteField (logicalReq req) f with
         | some p => s.siteWrite p off v
         | none => s.mapFault a.toNat)
      | .xdReg x off => s.xdWrite x off v
      | .sys off => s.sysWrite req off v
      | _ => s) := by
  change Host.Outcome.next (s.regWrite req a.toNat v) = _
  rw [State.regWrite, s.refusedBySeal_unsealed hs]
  simp only [Bool.and_false, Bool.false_eq_true, if_false] <;> rfl

theorem exec_write_site {l p off : Nat} (hf : s.siteField (logicalReq req) l = some p) (hl : l < 64) (ho : off < 2 ^ 24) (v : DWord) :
    exec (.registerWrite req (BitVec.ofNat 48 (siteRegBase + l * 2 ^ 24 + off)) v) s = .next (s.siteWrite p off v) := by
  have ha : (BitVec.ofNat 48 (siteRegBase + l * 2 ^ 24 + off)).toNat = siteRegBase + l * 2 ^ 24 + off := by
    simp only [BitVec.toNat_ofNat, siteRegBase]; omega
  rw [exec_registerWrite_unsealed hs, ha, place_siteReg hl ho]
  simp only [hf]

theorem exec_write_core {l p c off : Nat} (hr : logicalReq req = true) (hp : s.physOf l = some p) (hd : s.dark p = false) (hl : l < 64)
    (hc : c < 32) (ho : off < 0x40000) (v : DWord) :
    exec (.registerWrite req (BitVec.ofNat 48 (siteRegBase + l * 2 ^ 24 + c * 0x40000 + off)) v) s =
      .next (s.coreWrite (s.keyOf p c) off v) := by
  rw [Nat.add_assoc, exec_write_site hs (p := p) (by rw [hr]; exact hp) hl (by omega)]
  have hdiv : (c * 0x40000 + off) / 0x40000 = c := by omega
  have hmod : (c * 0x40000 + off) % 0x40000 = off := by omega
  rw [State.siteWrite, if_pos (by omega), hd, hdiv, hmod]
  rfl

theorem exec_write_xd {x off : Nat} (hx : x < 4) (ho : off < 2 ^ 24) (v : DWord) :
    exec (.registerWrite req (BitVec.ofNat 48 (xdRegBase + x * 2 ^ 24 + off)) v) s = .next (s.xdWrite x off v) := by
  have ha : (BitVec.ofNat 48 (xdRegBase + x * 2 ^ 24 + off)).toNat = xdRegBase + x * 2 ^ 24 + off := by
    simp only [BitVec.toNat_ofNat, xdRegBase]; omega
  rw [exec_registerWrite_unsealed hs, ha, place_xdReg hx ho]

theorem exec_write_sys {off : Nat} (ho : off < 2 ^ 24) (v : DWord) :
    exec (.registerWrite req (BitVec.ofNat 48 (sysBase + off)) v) s = .next (s.sysWrite req off v) := by
  have ha : (BitVec.ofNat 48 (sysBase + off)).toNat = sysBase + off := by
    simp only [BitVec.toNat_ofNat, sysBase]; omega
  rw [exec_registerWrite_unsealed hs, ha, place_sys ho]

end

/-! ## Leaf causes (15 R462) -/

/-- What a write of `n` to a leaf cause register does. -/
def State.clearLeaf (s : State) (n : Nat) : Leaf → State
  | .cc k => s.modCc k (fun c => { c with cause := clearBits c.cause n })
  | .me k => s.modMe k (fun m => { m with cause := clearBits m.cause n })
  | .ve k => s.modVe k (fun e => { e with cause := clearBits e.cause n })
  | .se k => s.modSe k (fun e => { e with
      cause := clearBits e.cause n, tdSeen := e.tdSeen && (clearBits e.cause n &&& 0xF0) != 0 })
  | .bed p => s.modSite p (fun t => { t with bedCause := clearBits t.bedCause n })
  | .site p => s.modSite p (fun t => { t with cause := clearBits t.cause n })
  | .mc x => s.modMc x (fun m => { m with cause := clearBits m.cause n })
  | .fab x => s.modFab x (fun d => { d with cause := clearBits d.cause n })
  | .tr x => s.modTr x (fun t => { t with cause := clearBits t.cause n })
  | .xdl x => s.modXd x (fun d => { d with xdlCause := clearBits d.xdlCause n })
  | .sb => { s with sb := { s.sb with cause := clearBits s.sb.cause n } }
  | .orr => s.modOrr (fun o => { o with cause := clearBits o.cause n })
  | .hc => { s with host := { s.host with cause := clearBits s.host.cause n } }
  | .sec => s.modSec (fun c => { c with cause := clearBits c.cause n })
  | .siteLost => s.modGis (fun g => { g with siteLost := clearBits g.siteLost n })
  | .pwr => s.modPwr (fun p => { p with cause := clearBits p.cause n })
  | .clk => { s with clk := { s.clk with cause := clearBits s.clk.cause n } }
  | .therm => { s with therm := { s.therm with cause := clearBits s.therm.cause n } }

/-- Where a leaf's register answers a requester of the logical view: its core is in reach, its site serves an ID, its die is
one of four. -/
def State.leafInReach (s : State) : Leaf → Prop
  | .cc k | .me k | .ve k | .se k => ∃ l c, s.logicalOf (k / 64) = some l ∧ s.physOf l = some (k / 64) ∧ l < 64 ∧ s.whoIs k = (l, c) ∧ c < 32 ∧
      s.keyOf (k / 64) c = k ∧ s.dark (k / 64) = false
  | .bed p | .site p => ∃ l, s.logicalOf p = some l ∧ l < 64 ∧ s.physOf l = some p
  | .mc x | .fab x | .tr x | .xdl x => x < 4
  | _ => True

theorem clearBits_ofNat {w : Nat} (c : BitVec w) (v : DWord) :
    BitVec.ofNat 64 (clearBits c v.toNat).toNat = BitVec.ofNat 64 c.toNat &&& ~~~v := by
  refine BitVec.eq_of_getLsbD_eq fun i hi => ?_
  simp only [clearBits, BitVec.getLsbD_ofNat, BitVec.getLsbD_and, BitVec.getLsbD_not, BitVec.testBit_toNat, hi, decide_true,
    Bool.true_and]
  by_cases hiw : i < w
  · simp [hiw]
  · simp [BitVec.getLsbD_of_ge c i (by omega)]

/-- The bits written as 1 are cleared and no other. -/
theorem State.leaf_clearLeaf (s : State) (v : DWord) (lf : Leaf) :
    BitVec.ofNat 64 ((s.clearLeaf v.toNat lf).leaf lf) = BitVec.ofNat 64 (s.leaf lf) &&& ~~~v := by
  cases lf <;> simp only [State.clearLeaf, State.leaf, State.modCc_eq, State.modMe_eq, State.modVe_eq, State.modSe_eq, State.modSite_eq,
    State.modMc_eq, State.modFab_eq, State.modTr_eq, State.modXd_eq, State.core_setCore, State.site_setSite, State.xd_setXd, if_true,
    State.modOrr, State.modSec, State.modGis, State.modPwr] <;> exact clearBits_ofNat _ v

/-- The urgent latch, the contexts and GDDR7 stand. -/
theorem State.clearLeaf_rest (s : State) (n : Nat) (lf : Leaf) :
    (s.clearLeaf n lf).gis.urgent = s.gis.urgent ∧ (s.clearLeaf n lf).ctxs = s.ctxs ∧ (s.clearLeaf n lf).gddr = s.gddr := by
  cases lf <;> exact ⟨rfl, rfl, rfl⟩

section
variable {s : State} {lf : Leaf}

/-- A core whose cause registers are those of the core it replaces, but for the leaf's own. -/
theorem State.leaf_setCore {k : Nat} {x : Core} (hcc : lf = .cc k → x.cc.cause = (s.core k).cc.cause)
    (hme : lf = .me k → x.me.cause = (s.core k).me.cause) (hve : lf = .ve k → x.ve.cause = (s.core k).ve.cause)
    (hse : lf = .se k → x.se.cause = (s.core k).se.cause) : (s.setCore k x).leaf lf = s.leaf lf := by
  cases lf with
  | cc j =>
    simp only [State.leaf, State.core_setCore]
    split
    next e => subst e; rw [hcc rfl]
    · rfl
  | me j =>
    simp only [State.leaf, State.core_setCore]
    split
    next e => subst e; rw [hme rfl]
    · rfl
  | ve j =>
    simp only [State.leaf, State.core_setCore]
    split
    next e => subst e; rw [hve rfl]
    · rfl
  | se j =>
    simp only [State.leaf, State.core_setCore]
    split
    next e => subst e; rw [hse rfl]
    · rfl
  | _ => rfl

theorem State.leaf_setSite {p : Nat} {x : Site} (hbed : lf = .bed p → x.bedCause = (s.site p).bedCause)
    (hsite : lf = .site p → x.cause = (s.site p).cause) : (s.setSite p x).leaf lf = s.leaf lf := by
  cases lf with
  | bed j =>
    simp only [State.leaf, State.site_setSite]
    split
    next e => subst e; rw [hbed rfl]
    · rfl
  | site j =>
    simp only [State.leaf, State.site_setSite]
    split
    next e => subst e; rw [hsite rfl]
    · rfl
  | _ => rfl

theorem State.leaf_setXd {n : Nat} {x : Xd} (hmc : lf = .mc n → x.mc.cause = (s.xd n).mc.cause)
    (hfab : lf = .fab n → x.fab.cause = (s.xd n).fab.cause) (htr : lf = .tr n → x.tr.cause = (s.xd n).tr.cause)
    (hxdl : lf = .xdl n → x.xdlCause = (s.xd n).xdlCause) : (s.setXd n x).leaf lf = s.leaf lf := by
  cases lf with
  | mc j =>
    simp only [State.leaf, State.xd_setXd]
    split
    next e => subst e; rw [hmc rfl]
    · rfl
  | fab j =>
    simp only [State.leaf, State.xd_setXd]
    split
    next e => subst e; rw [hfab rfl]
    · rfl
  | tr j =>
    simp only [State.leaf, State.xd_setXd]
    split
    next e => subst e; rw [htr rfl]
    · rfl
  | xdl j =>
    simp only [State.leaf, State.xd_setXd]
    split
    next e => subst e; rw [hxdl rfl]
    · rfl
  | _ => rfl

/-- Every other leaf register stands. -/
theorem State.leaf_clearLeaf_other (n : Nat) {own : Leaf} (h : lf ≠ own) : (s.clearLeaf n own).leaf lf = s.leaf lf := by
  cases own with
  | cc k => exact State.leaf_setCore (absurd · h) (fun _ => rfl) (fun _ => rfl) (fun _ => rfl)
  | me k => exact State.leaf_setCore (fun _ => rfl) (absurd · h) (fun _ => rfl) (fun _ => rfl)
  | ve k => exact State.leaf_setCore (fun _ => rfl) (fun _ => rfl) (absurd · h) (fun _ => rfl)
  | se k => exact State.leaf_setCore (fun _ => rfl) (fun _ => rfl) (fun _ => rfl) (absurd · h)
  | bed p => exact State.leaf_setSite (absurd · h) (fun _ => rfl)
  | site p => exact State.leaf_setSite (fun _ => rfl) (absurd · h)
  | mc x => exact State.leaf_setXd (absurd · h) (fun _ => rfl) (fun _ => rfl) (fun _ => rfl)
  | fab x => exact State.leaf_setXd (fun _ => rfl) (absurd · h) (fun _ => rfl) (fun _ => rfl)
  | tr x => exact State.leaf_setXd (fun _ => rfl) (fun _ => rfl) (absurd · h) (fun _ => rfl)
  | xdl x => exact State.leaf_setXd (fun _ => rfl) (fun _ => rfl) (fun _ => rfl) (absurd · h)
  | sb =>
    cases lf with
    | sb => exact absurd rfl h
    | _ => rfl
  | orr =>
    cases lf with
    | orr => exact absurd rfl h
    | _ => rfl
  | hc =>
    cases lf with
    | hc => exact absurd rfl h
    | _ => rfl
  | sec =>
    cases lf with
    | sec => exact absurd rfl h
    | _ => rfl
  | siteLost =>
    cases lf with
    | siteLost => exact absurd rfl h
    | _ => rfl
  | pwr =>
    cases lf with
    | pwr => exact absurd rfl h
    | _ => rfl
  | clk =>
    cases lf with
    | clk => exact absurd rfl h
    | _ => rfl
  | therm =>
    cases lf with
    | therm => exact absurd rfl h
    | _ => rfl

/-! ### The write of a leaf's register -/

theorem coreSpace_eq {k l c : Nat} (hlog : s.logicalOf (k / 64) = some l) (hwho : s.whoIs k = (l, c)) :
    s.coreSpace k = siteRegBase + l * 2 ^ 24 + c * 0x40000 := by
  simp only [State.coreSpace, State.siteSpace, hlog, hwho, Option.getD_some]

theorem siteSpace_eq {p l : Nat} (hlog : s.logicalOf p = some l) : s.siteSpace p = siteRegBase + l * 2 ^ 24 := by
  simp only [State.siteSpace, hlog, Option.getD_some]

/-- A write at the address of a leaf register clears bits of it and does no more (R12, 15 R462). -/
theorem exec_write_leaf {req : Requester} (hs : ∀ n, n < 16 → s.sealedNow n = false) (hr : logicalReq req = true)
    (hl : s.leafInReach lf) (v : DWord) :
    exec (.registerWrite req (BitVec.ofNat 48 (s.leafAddr lf)) v) s = .next (s.clearLeaf v.toNat lf) := by
  have core (k off : Nat) (ho : off < 0x40000) (hk : ∃ l c, s.logicalOf (k / 64) = some l ∧ s.physOf l = some (k / 64) ∧ l < 64 ∧
      s.whoIs k = (l, c) ∧ c < 32 ∧ s.keyOf (k / 64) c = k ∧ s.dark (k / 64) = false) :
      exec (.registerWrite req (BitVec.ofNat 48 (s.coreSpace k + off)) v) s = .next (s.coreWrite k off v) := by
    obtain ⟨l, c, hlog, hphys, hl, hwho, hc, hkey, hdark⟩ := hk
    rw [coreSpace_eq hlog hwho, exec_write_core hs hr hphys hdark hl hc ho, hkey]
  have site (p off : Nat) (ho : off < 2 ^ 24) (hp : ∃ l, s.logicalOf p = some l ∧ l < 64 ∧ s.physOf l = some p) :
      exec (.registerWrite req (BitVec.ofNat 48 (s.siteSpace p + off)) v) s = .next (s.siteWrite p off v) := by
    obtain ⟨l, hlog, hl, hphys⟩ := hp
    rw [siteSpace_eq hlog, exec_write_site hs (p := p) (by rw [hr]; exact hphys) hl ho]
  cases lf with
  | cc k => exact core k 0x10 (by decide) hl
  | me k => exact core k 0x10010 (by decide) hl
  | ve k => exact core k 0x20008 (by decide) hl
  | se k => exact core k 0x30010 (by decide) hl
  | bed p => exact site p 0x900010 (by decide) hl
  | site p => exact site p 0x901010 (by decide) hl
  | mc x => exact exec_write_xd hs hl (off := 0x200010) (by decide) v
  | fab x => exact exec_write_xd hs hl (off := 0x100010) (by decide) v
  | tr x => exact exec_write_xd hs hl (off := 0x400010) (by decide) v
  | xdl x => exact exec_write_xd hs hl (off := 0x1010) (by decide) v
  | sb => exact exec_write_sys hs (off := 0x6010) (by decide) v
  | orr => exact exec_write_sys hs (off := 0x7008) (by decide) v
  | hc => exact exec_write_sys hs (off := 0x7808) (by decide) v
  | sec => exact exec_write_sys hs (off := 0x8008) (by decide) v
  | siteLost => exact exec_write_sys hs (off := 0x9020) (by decide) v
  | pwr => exact exec_write_sys hs (off := 0xA008) (by decide) v
  | clk => exact exec_write_sys hs (off := 0xB008) (by decide) v
  | therm => exact exec_write_sys hs (off := 0xB810) (by decide) v

end

end Sys2Proof.Machine
end

section
/-! Registers that keep limits, and registers that one class of requester alone writes (O51). -/

namespace Sys2Proof.Machine

variable {s : State}

/-! ## Registers of the system block -/

/-- A register that the requester may not write. -/
theorem exec_write_sys_ignored {req : Requester} (hs : ∀ n, n < 16 → s.sealedNow n = false) {off : Nat} (ho : off < 2 ^ 24) {v : DWord}
    (h : s.sysWrite req off v = s) : exec (.registerWrite req (BitVec.ofNat 48 (sysBase + off)) v) s = .next s := by
  rw [exec_write_sys hs ho, h]

theorem confirm_host (s : State) : s.confirm .host = s := by
  unfold State.confirm
  split
  · rfl
  · rfl

theorem tolStored_fld (v : DWord) :
    tolStored (fld v.toNat 4 4) = if 6 ≤ v.toNat / 16 % 16 ∧ v.toNat / 16 % 16 ≤ 14 then v.extractLsb' 4 4 else 0xA := by
  by_cases h : 6 ≤ v.toNat / 16 % 16 ∧ v.toNat / 16 % 16 ≤ 14
  · have hbits : BitVec.ofNat 4 (fld v.toNat 4 4) = v.extractLsb' 4 4 :=
      BitVec.eq_of_toNat_eq (by simp [fld, Nat.shiftRight_eq_div_pow])
    exact (if_pos h).trans (hbits.trans (if_pos h).symm)
  · exact (if_neg h).trans (if_neg h).symm

/-- ME_CTL, SE_CTL and SE_HQ_WAIT_LIMIT of a core (03 R97, 07 R224). -/
theorem exec_write_meCtl (hs : ∀ n, n < 16 → s.sealedNow n = false) {l : SiteNo} {c : CoreNo} {k : Nat} (hk : s.key l c = some k)
    (v : DWord) :
    exec (.registerWrite .host (BitVec.ofNat 48 (siteRegBase + l.toNat * 2 ^ 24 + c.toNat * 0x40000 + 0x10000)) v) s =
      .next (s.modMe k (fun m => { m with
        bcastReq := bitAt v.toNat 0, chkEn := bitAt v.toNat 1, tolExp := tolStored (fld v.toNat 4 4) })) := by
  obtain ⟨p, hp, hd, rfl⟩ := s.key_some hk
  exact exec_write_core hs rfl hp hd l.isLt c.isLt (by decide) v

theorem exec_write_seCtl (hs : ∀ n, n < 16 → s.sealedNow n = false) {l : SiteNo} {c : CoreNo} {k : Nat} (hk : s.key l c = some k)
    (v : DWord) :
    exec (.registerWrite .host (BitVec.ofNat 48 (siteRegBase + l.toNat * 2 ^ 24 + c.toNat * 0x40000 + 0x30000)) v) s =
      .next (s.modSe k (fun e => { e with pause := bitAt v.toNat 0, slotReserve := BitVec.ofNat 7 (min 96 (fld v.toNat 8 7)) })) := by
  obtain ⟨p, hp, hd, rfl⟩ := s.key_some hk
  exact exec_write_core hs rfl hp hd l.isLt c.isLt (by decide) v

theorem exec_write_seWaitLimit (hs : ∀ n, n < 16 → s.sealedNow n = false) {l : SiteNo} {c : CoreNo} {k : Nat} (hk : s.key l c = some k)
    (v : DWord) :
    exec (.registerWrite .host (BitVec.ofNat 48 (siteRegBase + l.toNat * 2 ^ 24 + c.toNat * 0x40000 + 0x30028)) v) s =
      .next (s.modSe k (fun e => { e with waitLimit := BitVec.ofNat 40 (max 1880 (fld v.toNat 0 40)) })) := by
  obtain ⟨p, hp, hd, rfl⟩ := s.key_some hk
  exact exec_write_core hs rfl hp hd l.isLt c.isLt (by decide) v

theorem fld_zero (n len : Nat) : fld n 0 len = n % 2 ^ len := by simp [fld]

/-- THERM_CTL keeps the thresholds of 16 R492. -/
theorem setCtl_thresholds (t : Therm) (n : Nat) :
    (t.setCtl n).throttleC.toNat = (if 80 ≤ n / 256 % 256 ∧ n / 256 % 256 ≤ 105 then n / 256 % 256 else 100) ∧
    (t.setCtl n).warnC.toNat = min (n % 256) (t.setCtl n).throttleC.toNat := by
  have hth : (throttleStored (fld n 8 8)).toNat = (if 80 ≤ n / 256 % 256 ∧ n / 256 % 256 ≤ 105 then n / 256 % 256 else 100) := by
    by_cases h : 80 ≤ n / 256 % 256 ∧ n / 256 % 256 ≤ 105
    · have hbits : (BitVec.ofNat 8 (fld n 8 8)).toNat = n / 256 % 256 :=
        Nat.mod_eq_of_lt (Nat.mod_lt _ (by decide))
      exact (congrArg BitVec.toNat (if_pos h)).trans (hbits.trans (if_pos h).symm)
    · exact (congrArg BitVec.toNat (if_neg h)).trans (if_neg h).symm
  refine ⟨hth, ?_⟩
  simp only [Therm.setCtl, fld_zero]
  split
  · omega
  · simp only [BitVec.toNat_ofNat]; omega

/-! ## The request channels (14 R432) -/

theorem State.putLeaf_chans (u : State) (lf : Leaf) (b : Nat) (x : Bool) :
    (u.putLeaf b x lf).sec.ch0 = u.sec.ch0 := by
  cases lf <;> rfl

theorem State.raise_ch0 (u : State) (lf : Leaf) (b : Nat) : (u.raise lf b).sec.ch0 = u.sec.ch0 := by
  unfold State.raise State.raiseArg
  dsimp only
  split
  · exact u.putLeaf_chans lf b true
  · exact u.putLeaf_chans lf b true

theorem State.mapFault_sec (u : State) (a : Nat) : (u.mapFault a).sec = u.sec := by
  unfold State.mapFault
  split <;> rfl

theorem State.raiseBed_ch0 (u : State) (p b off : Nat) : (u.raiseBed p b off).sec.ch0 = u.sec.ch0 := by
  rw [State.raiseBed, State.raise_ch0]
  split
  · exact congrArg Sec.ch0 (u.setSite_sec p _)
  · rfl

theorem State.raiseMc_ch0 (u : State) (x b chan addr : Nat) : (u.raiseMc x b chan addr).sec.ch0 = u.sec.ch0 := by
  rw [State.raiseMc, State.raise_ch0]
  split
  · exact congrArg Sec.ch0 (u.setXd_sec x _)
  · rfl

theorem State.modSec_errInfo_ch0 (u : State) (e : DWord) : (u.modSec (fun c => { c with errInfo := e })).sec.ch0 = u.sec.ch0 := rfl

theorem State.raiseSec_ch0 (u : State) (b addr cls : Nat) : (u.raiseSec b addr cls).sec.ch0 = u.sec.ch0 := by
  rw [State.raiseSec, State.raise_ch0]
  split
  · exact u.modSec_errInfo_ch0 _
  · rfl

/-- What an access meets in memory leaves the host's channel alone. -/
theorem State.meetAll_ch0 (u : State) (evs : List MemEv) : (u.meetAll evs).sec.ch0 = u.sec.ch0 := by
  induction evs generalizing u with
  | nil => rfl
  | cons e r ih =>
    unfold State.meetAll
    rw [ih]
    cases e with
    | sbClosed p o => exact u.raiseBed_ch0 p 4 o
    | bedHole p o => exact u.raiseBed_ch0 p 3 o
    | keyFault a => exact u.raiseMc_ch0 (gddrXd a) 4 (gddrChan a) a
    | unmapped a => exact congrArg Sec.ch0 (u.mapFault_sec a)
    | fwClosed => exact u.raise_ch0 .orr 11
    | sealedOut a cls => exact u.raiseSec_ch0 0 a cls
    | _ => rfl

theorem State.secSeen_ch0 (u : State) (a n : Nat) : (u.secSeen a n).sec.ch0 = u.sec.ch0 := by
  unfold State.secSeen State.seenRun State.met
  dsimp only
  split
  · rw [State.mapFault_sec]; exact State.meetAll_ch0 ..
  · exact State.meetAll_ch0 ..

/-- req_busy raised: the cause alone changes, and the first event's record. -/
theorem State.raise_req_busy (u : State) : { u.raise .sec 1 with sec := u.sec } = u ∧ (u.raise .sec 1).sec.ch0 = u.sec.ch0 ∧
    (u.raise .sec 1).sec.ch1 = u.sec.ch1 ∧ (u.raise .sec 1).sec.cause = u.sec.cause ||| 2 := ⟨rfl, rfl, rfl, rfl⟩

theorem State.modSec_errInfo (u : State) (e : DWord) :
    { u.modSec (fun c => { c with errInfo := e }) with sec := u.sec } = u ∧
    (u.modSec (fun c => { c with errInfo := e })).sec.ch0 = u.sec.ch0 ∧
    (u.modSec (fun c => { c with errInfo := e })).sec.ch1 = u.sec.ch1 ∧
    (u.modSec (fun c => { c with errInfo := e })).sec.cause = u.sec.cause := ⟨rfl, rfl, rfl, rfl⟩

theorem State.raiseSec_req_busy (addr cls : Nat) : { s.raiseSec 1 addr cls with sec := s.sec } = s ∧
    (s.raiseSec 1 addr cls).sec.ch0 = s.sec.ch0 ∧ (s.raiseSec 1 addr cls).sec.ch1 = s.sec.ch1 ∧
    (s.raiseSec 1 addr cls).sec.cause = s.sec.cause ||| 2 := by
  unfold State.raiseSec
  dsimp only
  generalize hu : (if s.sec.cause == 0 then _ else s) = u
  have hnoted : { u with sec := s.sec } = s ∧ u.sec.ch0 = s.sec.ch0 ∧ u.sec.ch1 = s.sec.ch1 ∧ u.sec.cause = s.sec.cause := by
    subst hu
    split
    · exact s.modSec_errInfo _
    · exact ⟨rfl, rfl, rfl, rfl⟩
  obtain ⟨hframe, h0, h1, hcause⟩ := hnoted
  obtain ⟨rframe, r0, r1, rcause⟩ := u.raise_req_busy
  refine ⟨?_, r0.trans h0, r1.trans h1, by rw [rcause, hcause]⟩
  calc
    _ = { ({ u.raise .sec 1 with sec := u.sec } : State) with sec := s.sec } := rfl
    _ = s := by rw [rframe, hframe]

/-- go while the channel is busy. -/
theorem State.secGo_busy (h : s.sec.ch0.busy = true) : s.secGo false = s.raiseSec 1 0 0 := by
  rw [State.secGo, if_pos]
  exact h

/-- go of a request that the host's channel serves: a code of 1–9 in a record inside GDDR7. -/
theorem State.secGo_served (h : s.sec.ch0.busy = false) (ha : s.sec.ch0.addr.toNat + 64 ≤ gddrBytes)
    (hlo : 1 ≤ (readReq (s.secRead s.sec.ch0.addr.toNat 64)).code) (hhi : (readReq (s.secRead s.sec.ch0.addr.toNat 64)).code ≤ 9) :
    s.secGo false = (s.secSeen s.sec.ch0.addr.toNat 64).modSec (fun c => { c with
      ch0 := { s.sec.ch0 with busy := true, record := s.secRead s.sec.ch0.addr.toNat 64 } }) := by
  have hseen := s.secSeen_ch0 s.sec.ch0.addr.toNat 64
  unfold State.secGo
  simp only [State.chan, Bool.false_eq_true, if_false, h, chanServes, inGddr, hlo, hhi, ha, and_self, decide_true, Bool.and_self,
    if_true, State.setChan, hseen]

/-- go of a request that it does not serve. -/
theorem State.secGo_unserved (h : s.sec.ch0.busy = false) (hn : gddrBytes < s.sec.ch0.addr.toNat + 64 ∨
      (readReq (s.secRead s.sec.ch0.addr.toNat 64)).code = 0 ∨ 9 < (readReq (s.secRead s.sec.ch0.addr.toNat 64)).code) :
    s.secGo false = (s.secSeen s.sec.ch0.addr.toNat 64).modSec (fun c => { c with
      ch0 := { s.sec.ch0 with
        busy := false, result := 1, seq := BitVec.ofNat 32 (readReq (s.secRead s.sec.ch0.addr.toNat 64)).seq } }) := by
  have hseen := s.secSeen_ch0 s.sec.ch0.addr.toNat 64
  have hnot : (chanServes false (readReq (s.secRead s.sec.ch0.addr.toNat 64)).code && inGddr s.sec.ch0.addr.toNat 64) = false := by
    simp only [chanServes, Bool.false_eq_true, if_false, inGddr, ← Bool.decide_and, decide_eq_false_iff_not]
    omega
  unfold State.secGo
  simp only [State.chan, Bool.false_eq_true, if_false, h, hnot, State.secDone, State.setChan, hseen]
  rfl

/-! ## Register writes into the send windows (10 R307, 11 R340) -/

/-- Eight bytes are no handoff. -/
theorem handoff_eight (x n : Nat) :
    s.handoff x (leBytes 8 n) = s.raiseTr (s.dieOf x) 1 (bfld (leBytes 8 n) 0 2) 0 s.trStep.toNat := by
  have h : s.handoffOf x (leBytes 8 n) = none := by
    simp [State.handoffOf, leBytes_length]
  rw [State.handoff, h]

/-- Eight bytes are no send request. -/
theorem fabSend_eight (req : Requester) (x n : Nat) :
    s.fabSend req x (leBytes 8 n) = s.raiseFab x 9 0 (bfld (leBytes 8 n) 0 2) (bfld (leBytes 8 n) 2 1) := by
  have h : s.sendReq req (leBytes 8 n) = none := by
    unfold State.sendReq
    dsimp only
    rw [if_pos]
    rw [List.any_eq_true]
    refine ⟨_, List.mem_cons_self, ?_⟩
    rw [leBytes_length]
    split <;> rfl
  rw [State.fabSend, h]

theorem State.setXd_frame (s : State) (x : Nat) (v : Xd) : { s.setXd x v with xds := s.xds, gis := s.gis } = s := rfl

/-- Beyond the dies and the urgent latch a leaf cause of a die's block changes nothing. -/
theorem State.raise_xd_frame {lf : Leaf} (h : (∃ x, lf = .fab x) ∨ ∃ x, lf = .tr x) (b : Nat) :
    { s.raise lf b with xds := s.xds, gis := s.gis } = s := by
  unfold State.raise State.raiseArg
  dsimp only
  rcases h with ⟨x, rfl⟩ | ⟨x, rfl⟩
  · split <;> rfl
  · split <;> rfl

theorem State.raise_xd {lf : Leaf} (b x : Nat) : (s.raise lf b).xd x = (s.putLeaf b true lf).xd x := by
  unfold State.raise State.raiseArg
  dsimp only
  split <;> rfl

/-- An event of a die's fabric sets its cause bit; the sends in flight stand. -/
theorem State.raiseFab_die (x b port addr win : Nat) (hb : b < 14) :
    { s.raiseFab x b port addr win with xds := s.xds, gis := s.gis } = s ∧
    ((s.raiseFab x b port addr win).xd x).fab.cause.getLsbD b = true ∧
    ((s.raiseFab x b port addr win).xd x).fab.sends = (s.xd x).fab.sends := by
  unfold State.raiseFab
  dsimp only
  generalize hu : (if (s.xd x).fab.cause == 0 then _ else s) = u
  have hframe : { u with xds := s.xds, gis := s.gis } = s := by
    subst hu
    split
    · exact s.setXd_frame x _
    · rfl
  have hsends : (u.xd x).fab.sends = (s.xd x).fab.sends := by
    subst hu
    split
    · simp
    · rfl
  refine ⟨?_, ?_, ?_⟩
  · calc
      _ = { ({ u.raise (.fab x) b with xds := u.xds, gis := u.gis } : State) with xds := s.xds, gis := s.gis } := rfl
      _ = s := by rw [State.raise_xd_frame (.inl ⟨x, rfl⟩), hframe]
  · simp [State.raise_xd, State.putLeaf, setBit_getLsbD _ _ _ _ hb]
  · simp [State.raise_xd, State.putLeaf, hsends]

theorem State.modTr_totals (u : State) (x y : Nat) (f : TrDie → TrDie) (hf : ∀ d, (f d).totals = d.totals) :
    ((u.modTr x f).xd y).tr.totals = (u.xd y).tr.totals := by
  simp only [State.modTr_eq, State.xd_setXd]
  split
  next e => subst e; exact hf _
  · rfl

theorem State.modTr_errInfo_totals (u : State) (x y : Nat) (e : DWord) :
    ((u.modTr x (fun c => { c with errInfo := e })).xd y).tr.totals = (u.xd y).tr.totals :=
  u.modTr_totals x y (fun c => { c with errInfo := e }) fun _ => rfl

/-- An event of a die's Trellis engine sets its cause bit, and no die's totals change. -/
theorem State.raiseTr_die (x y b tag rank step : Nat) (hb : b < 11) :
    { s.raiseTr x b tag rank step with xds := s.xds, gis := s.gis } = s ∧
    ((s.raiseTr x b tag rank step).xd x).tr.cause.getLsbD b = true ∧
    ((s.raiseTr x b tag rank step).xd y).tr.totals = (s.xd y).tr.totals := by
  unfold State.raiseTr
  dsimp only
  generalize hu : (if (s.xd x).tr.cause == 0 then _ else s) = u
  have hframe : { u with xds := s.xds, gis := s.gis } = s := by
    subst hu
    split
    · exact s.setXd_frame x _
    · rfl
  have htotals : (u.xd y).tr.totals = (s.xd y).tr.totals := by
    subst hu
    split
    · exact s.modTr_errInfo_totals x y _
    · rfl
  refine ⟨?_, ?_, ?_⟩
  · calc
      _ = { ({ u.raise (.tr x) b with xds := u.xds, gis := u.gis } : State) with xds := s.xds, gis := s.gis } := rfl
      _ = s := by rw [State.raise_xd_frame (.inr ⟨x, rfl⟩), hframe]
  · simp [State.raise_xd, State.putLeaf, setBit_getLsbD _ _ _ _ hb]
  · rw [State.raise_xd, ← htotals]
    exact u.modTr_totals x y (fun c => { c with cause := setBit c.cause b true }) fun _ => rfl

end Sys2Proof.Machine
end

section
/-! What a register write clears, clamps and may not reach, put together (O51). -/

namespace Sys2Proof.Machine

section
variable {s : State} (hs : ∀ n, n < 16 → s.sealedNow n = false)
include hs

/-! ## Holes and absent sites (00 R13, 12 R379) -/

theorem exec_write_hole (req : Requester) (a : Addr) (v : DWord) (hsite : ∀ f off, place a.toNat ≠ .siteReg f off)
    (hxd : ∀ x off, place a.toNat ≠ .xdReg x off) (hsys : ∀ off, place a.toNat ≠ .sys off) :
    exec (.registerWrite req a v) s = .next s := by
  rw [exec_registerWrite_unsealed hs]
  split
  next f off h => exact absurd h (hsite f off)
  next x off h => exact absurd h (hxd x off)
  next off h => exact absurd h (hsys off)
  · rfl

theorem exec_write_absent (req : Requester) (a : Addr) (v : DWord) {f off : Nat} (hp : place a.toNat = .siteReg f off)
    (hf : s.siteField (logicalReq req) f = none) (hh : s.gis.mapHole = false) :
    exec (.registerWrite req a v) s = .next { s with gis := { s.gis with mapHole := true, mapAddr := a } } := by
  rw [exec_registerWrite_unsealed hs, hp]
  simp only [hf]
  rw [State.mapFault, hh, BitVec.ofNat_toNat, BitVec.setWidth_eq]
  rfl

/-! ## Limits that registers keep -/

section
variable {l : SiteNo} {c : CoreNo} {k : Nat} (hk : s.key l c = some k) (v : DWord)
include hk

/-- ME_CTL (03 R97). -/
theorem meCtl_keeps_limits :
    ∃ t, exec (.registerWrite .host (BitVec.ofNat 48 (siteRegBase + l.toNat * 2 ^ 24 + c.toNat * 0x40000 + 0x10000)) v) s = .next t ∧
      OnlyCore k s t ∧ { t.core k with me := (s.core k).me } = s.core k ∧
      (t.core k).me.bcastReq = v.getLsbD 0 ∧ (t.core k).me.chkEn = v.getLsbD 1 ∧
      (t.core k).me.tolExp = (if 6 ≤ v.toNat / 16 % 16 ∧ v.toNat / 16 % 16 ≤ 14 then v.extractLsb' 4 4 else 0xA) ∧
      (t.core k).me.queue = (s.core k).me.queue ∧ (t.core k).me.bcastActive = (s.core k).me.bcastActive := by
  refine ⟨_, exec_write_meCtl hs hk v, OnlyCore.modCore s k _, ?_⟩
  simp [tolStored_fld]

/-- SE_CTL and SE_HQ_WAIT_LIMIT (07 R224). -/
theorem seCtl_keeps_limits :
    ∃ t, exec (.registerWrite .host (BitVec.ofNat 48 (siteRegBase + l.toNat * 2 ^ 24 + c.toNat * 0x40000 + 0x30000)) v) s = .next t ∧
      OnlyCore k s t ∧ t.core k = { s.core k with se := { (s.core k).se with
        pause := v.getLsbD 0, slotReserve := BitVec.ofNat 7 (min 96 (v.toNat / 256 % 128)) } } := by
  refine ⟨_, exec_write_seCtl hs hk v, OnlyCore.modCore s k _, ?_⟩
  simp [fld]

theorem seWaitLimit_keeps_limits :
    ∃ t, exec (.registerWrite .host (BitVec.ofNat 48 (siteRegBase + l.toNat * 2 ^ 24 + c.toNat * 0x40000 + 0x30028)) v) s = .next t ∧
      OnlyCore k s t ∧ t.core k = { s.core k with se := { (s.core k).se with
        waitLimit := BitVec.ofNat 40 (max 1880 (v.toNat % 2 ^ 40)) } } := by
  refine ⟨_, exec_write_seWaitLimit hs hk v, OnlyCore.modCore s k _, ?_⟩
  simp [fld_zero]

end

/-- The bed controller's repair threshold (12 R381). -/
theorem bedCtl_keeps_limits (v : DWord) {l : SiteNo} {p : Nat} (hp : s.physOf l.toNat = some p) :
    ∃ t, exec (.registerWrite .host (BitVec.ofNat 48 (siteRegBase + l.toNat * 2 ^ 24 + 0x900000)) v) s = .next t ∧
      { t with sites := s.sites } = s ∧ (∀ j, j ≠ p → t.site j = s.site j) ∧
      t.site p = { s.site p with scrubEn := v.getLsbD 0, repairThr := BitVec.ofNat 4 (max 1 (v.toNat / 16 % 16)) } := by
  refine ⟨s.modSite p (fun t => { t with scrubEn := bitAt v.toNat 0, repairThr := BitVec.ofNat 4 (max 1 (fld v.toNat 4 4)) }),
    exec_write_site hs (req := .host) (off := 0x900000) hp l.isLt (by decide) v, rfl, fun j hj => ?_, ?_⟩
  · simp [hj]
  · simp [fld]

/-- TR_GRACE and TR_FOLD (10 R324). -/
theorem trellis_keeps_limits (v : DWord) {x : Nat} (hx : x < 4) :
    ∃ t u, exec (.registerWrite .host (BitVec.ofNat 48 (xdRegBase + x * 2 ^ 24 + 0x400028)) v) s = .next t ∧
      exec (.registerWrite .host (BitVec.ofNat 48 (xdRegBase + x * 2 ^ 24 + 0x400030)) v) s = .next u ∧
      { t with xds := s.xds } = s ∧ (∀ y, y ≠ x → t.xd y = s.xd y) ∧
      t.xd x = { s.xd x with tr := { (s.xd x).tr with grace := BitVec.ofNat 32 (max 9400 (v.toNat % 2 ^ 32)) } } ∧
      { u with xds := s.xds } = s ∧ (∀ y, y ≠ x → u.xd y = s.xd y) ∧
      u.xd x = { s.xd x with tr := { (s.xd x).tr with fold := BitVec.ofNat 3 (min 4 (v.toNat % 8)) } } := by
  refine ⟨s.modTr x (fun t => { t with grace := BitVec.ofNat 32 (max 9400 (fld v.toNat 0 32)) }),
    s.modTr x (fun t => { t with fold := BitVec.ofNat 3 (min 4 (fld v.toNat 0 3)) }),
    exec_write_xd hs hx (by decide) v, exec_write_xd hs hx (by decide) v, rfl, fun y hy => ?_, ?_, rfl, fun y hy => ?_, ?_⟩
  · simp [hy]
  · simp [fld_zero]
  · simp [hy]
  · simp [fld_zero]

/-- ORR_HB_LIMIT and ORR_WDOG_LIMIT (13 R421). -/
theorem hbLimit_keeps_limits (v : DWord) : exec (.registerWrite .host 0x320000007030 v) s =
    .next { s with orr := { s.orr with hbLimit := BitVec.ofNat 40 (max 9400000 (v.toNat % 2 ^ 40)) } } := by
  rw [← fld_zero]
  exact exec_write_sys hs (off := 0x7030) (by decide) v

theorem wdogLimit_keeps_limits (v : DWord) : exec (.registerWrite .host 0x3200000070A0 v) s =
    .next { s with orr := { s.orr with wdogLimit := BitVec.ofNat 32 (max 4700 (v.toNat % 2 ^ 32)) } } := by
  rw [← fld_zero]
  exact exec_write_sys hs (off := 0x70A0) (by decide) v

/-- PWR_CAP (16 R490). -/
theorem pwrCap_keeps_limits (v : DWord) : exec (.registerWrite .host 0x32000000A018 v) s =
    .next { s with pwr := { s.pwr with cap := BitVec.ofNat 16 (max 4000 (min 12500 (v.toNat % 2 ^ 16))) } } := by
  rw [← fld_zero]
  exact exec_write_sys hs (off := 0xA018) (by decide) v

/-- THERM_CTL (16 R492). -/
theorem thermCtl_keeps_limits (v : DWord) : ∃ t, exec (.registerWrite .host 0x32000000B800 v) s = .next t ∧
    { t with therm := s.therm } = s ∧
    t.therm.throttleC.toNat = (if 80 ≤ v.toNat / 256 % 256 ∧ v.toNat / 256 % 256 ≤ 105 then v.toNat / 256 % 256 else 100) ∧
    t.therm.warnC.toNat = min (v.toNat % 256) t.therm.throttleC.toNat :=
  ⟨{ s with therm := s.therm.setCtl v.toNat }, exec_write_sys hs (off := 0xB800) (by decide) v, rfl, setCtl_thresholds _ _⟩

/-! ## Registers that one class of requester alone writes -/

/-- SYS_HALT, ORR_HEALTH_CONFIRM, window 15 and the orrery's channel ignore a host (11 R361, 13 R385, 14 R432, 15 R465). -/
theorem host_write_ignored (v : DWord) {a : Addr} (ha : a ∈ [(0x320000009028 : Addr), 0x320000007090, 0x3200000041F0,
      0x3200000041F8, 0x320000008030, 0x320000008038]) : exec (.registerWrite .host a v) s = .next s := by
  simp only [List.mem_cons, List.not_mem_nil, or_false] at ha
  rcases ha with rfl | rfl | rfl | rfl | rfl | rfl
  · exact exec_write_sys_ignored hs (off := 0x9028) (by decide) rfl
  · refine exec_write_sys_ignored hs (off := 0x7090) (by decide) ?_
    change (if bitAt v.toNat 0 then s.confirm .host else s) = s
    rw [confirm_host, ite_self]
  · exact exec_write_sys_ignored hs (off := 0x41F0) (by decide) rfl
  · exact exec_write_sys_ignored hs (off := 0x41F8) (by decide) rfl
  · exact exec_write_sys_ignored hs (off := 0x8030) (by decide) rfl
  · exact exec_write_sys_ignored hs (off := 0x8038) (by decide) rfl

/-- The host's channel ignores an orrery core (14 R432). -/
theorem orrery_write_ignored (oc : BitVec 5) (v : DWord) {a : Addr} (ha : a ∈ [(0x320000008020 : Addr), 0x320000008028]) :
    exec (.registerWrite (.orrery oc) a v) s = .next s := by
  simp only [List.mem_cons, List.not_mem_nil, or_false] at ha
  rcases ha with rfl | rfl
  · exact exec_write_sys_ignored hs (off := 0x8020) (by decide) rfl
  · exact exec_write_sys_ignored hs (off := 0x8028) (by decide) rfl

theorem host_sets_reqAddr (v : DWord) : exec (.registerWrite .host 0x320000008020 v) s =
    .next { s with sec := { s.sec with ch0 := { s.sec.ch0 with addr := v.setWidth 48 } } } := by
  rw [← BitVec.ofNat_toNat]
  exact exec_write_sys hs (off := 0x8020) (by decide) v

/-- go of the host's channel (14 R432). -/
theorem exec_host_go {v : DWord} (hv : v.getLsbD 0 = true) :
    exec (.registerWrite .host 0x320000008028 v) s = .next (s.secGo false) := by
  have h := exec_write_sys hs (req := .host) (off := 0x8028) (by decide) v
  rw [show s.sysWrite .host 0x8028 v = if (Requester.host = .host ∧ bitAt v.toNat 0) then s.secGo false else s from rfl,
    if_pos ⟨rfl, (bitAt_toNat v 0).trans hv⟩] at h
  exact h

/-- SYS_HALT written by an orrery core is the halt command (15 R449). -/
theorem orrery_writes_sysHalt (oc : BitVec 5) (v : DWord) :
    ∃ t, exec (.registerWrite (.orrery oc) 0x320000009028 v) s = .next t ∧
      exec (.halt (.orrery oc) (v.extractLsb' 0 16) (v.extractLsb' 16 8)) s = .next t := by
  refine ⟨s.haltGo (BitVec.ofNat 16 v.toNat) (fld v.toNat 16 8), exec_write_sys hs (off := 0x9028) (by decide) v, ?_⟩
  have hmask : v.extractLsb' 0 16 = BitVec.ofNat 16 v.toNat := BitVec.eq_of_toNat_eq (by simp)
  have hreason : (v.extractLsb' 16 8).toNat = fld v.toNat 16 8 := by simp [fld, Nat.shiftRight_eq_div_pow]
  rw [hmask, ← hreason]
  rfl

/-- A register write into TR_HANDOFF or FAB_SEND is malformed (10 R307, 11 R340). -/
theorem handoff_write_malformed (v : DWord) {x off : Nat} (hx : x < 4) (ho : off < 0x40) :
    ∃ t, exec (.registerWrite .host (BitVec.ofNat 48 (xdRegBase + x * 2 ^ 24 + 0x401000 + off)) v) s = .next t ∧
      { t with xds := s.xds, gis := s.gis } = s ∧ (t.xd (s.dieOf x)).tr.cause.getLsbD 1 = true ∧
      (t.xd x).tr.totals = (s.xd x).tr.totals := by
  rw [Nat.add_assoc _ 0x401000 off]
  refine ⟨_, exec_write_xd hs hx (by omega) v, ?_⟩
  have hw : s.xdWrite x (0x401000 + off) v = s.handoff x (leBytes 8 v.toNat) := by
    rw [State.xdWrite, if_neg (by omega), if_neg (by omega), if_neg (by omega), if_neg (by omega), if_pos (by omega)]
  rw [hw, handoff_eight]
  exact State.raiseTr_die _ _ _ _ _ _ (by decide)

theorem fabSend_write_malformed (v : DWord) {x off : Nat} (hx : x < 4) (ho : off < 0x40) :
    ∃ t, exec (.registerWrite .host (BitVec.ofNat 48 (xdRegBase + x * 2 ^ 24 + 0x101000 + 2 * off)) v) s = .next t ∧
      { t with xds := s.xds, gis := s.gis } = s ∧ (t.xd x).fab.cause.getLsbD 9 = true ∧
      (t.xd x).fab.sends = (s.xd x).fab.sends := by
  rw [Nat.add_assoc _ 0x101000 (2 * off)]
  refine ⟨_, exec_write_xd hs hx (by omega) v, ?_⟩
  have hw : s.xdWrite x (0x101000 + 2 * off) v = s.fabSend .fabric x (leBytes 8 v.toNat) := by
    rw [State.xdWrite, if_neg (by omega), if_neg (by omega), if_pos (by omega), Nat.mod_eq_of_lt hx]
  rw [hw, fabSend_eight]
  exact State.raiseFab_die _ _ _ _ _ (by decide)

end

/-- Settles O51: each clause is the law of its register above, after the place of its address. -/
theorem registerWrites : Obligations.RegisterWrites := by
  unfold Obligations.RegisterWrites
  refine ⟨⟨?_, ?_⟩, ?_, ?_⟩
  · intro req v s lf hr hs hl
    have hreach : s.leafInReach lf := hl
    obtain ⟨hurgent, hctxs, hgddr⟩ := s.clearLeaf_rest v.toNat lf
    exact ⟨_, exec_write_leaf hs hr hreach v, s.leaf_clearLeaf v lf, fun _ h => State.leaf_clearLeaf_other _ h, hurgent, hctxs, hgddr⟩
  · intro req a v s hs
    exact ⟨exec_write_hole hs req a v, fun f off hp hf hh => exec_write_absent hs req a v hp hf hh⟩
  · intro v s hs
    exact ⟨fun l c k hk => ⟨meCtl_keeps_limits hs hk v, seCtl_keeps_limits hs hk v, seWaitLimit_keeps_limits hs hk v⟩,
      fun l p hp => bedCtl_keeps_limits hs v hp, fun x hx => trellis_keeps_limits hs v hx, hbLimit_keeps_limits hs v,
      wdogLimit_keeps_limits hs v, pwrCap_keeps_limits hs v, thermCtl_keeps_limits hs v⟩
  · intro oc v s hs
    refine ⟨fun a ha => host_write_ignored hs v ha, fun a ha => orrery_write_ignored hs oc v ha, host_sets_reqAddr hs v, fun hv => ?_,
      fun x off hx ho => ⟨handoff_write_malformed hs v hx ho, fabSend_write_malformed hs v hx ho⟩, orrery_writes_sysHalt hs oc v⟩
    rw [exec_host_go hs hv]
    refine ⟨fun hb => ?_, fun hb ha hlo hhi => ?_, fun hb hn => ?_⟩
    · rw [State.secGo_busy hb]
      exact ⟨_, rfl, State.raiseSec_req_busy 0 0⟩
    · rw [State.secGo_served hb ha hlo hhi]
      rfl
    · rw [State.secGo_unserved hb hn]
      rfl

end Sys2Proof.Machine
end

section
/-! The stream engine's commands that have their effect at once, and the ones it skips (07 R191, R192, 00 R14): the head of the
queue runs, it is taken and finished, or it is skipped and logged. SE.TDESC, SE.HQCFG and SE.MCAST follow from these. -/

namespace Sys2Proof.Machine

/-! ## The head of the SE queue -/

/-- With no fence pending, a known command without reserved bits at the head of the queue runs. -/
theorem State.seRun_head {s : State} {l : SiteNo} {c : CoreNo} {k op : Nat} {q : QEntry} {rest : List QEntry}
    {f : Nat → QEntry → State → State} (hk : s.key l c = some k) (hfence : (s.core k).se.fence = none)
    (hq : (s.core k).se.queue = q :: rest) (ho : q.op = op) (hop : seOps.contains op = true)
    (hr : reservedBits q.w (seMaskOf q.w) = false) : s.seRun l c op f = f k q s := by
  subst ho
  have hknown : s.seSkipUnknown k (q :: rest).length = s := by
    simp only [List.length_cons, State.seSkipUnknown, hq, List.head?_cons, hop, if_true]
  simp only [State.seRun, hk, hfence, hq, hknown, hr, List.head?_cons, Option.isSome_none, Bool.false_eq_true, if_false,
    ne_eq, not_true_eq_false]

/-- The core once the head of its SE queue, entry `q`, is taken and complete. -/
def Core.seDone (c : Core) (q : QEntry) : Core :=
  { c with
    se := { c.se with queue := c.se.queue.tail }
    cc := { c.cc with seCnt := ({ c.cc.seCnt with started := c.cc.seCnt.started + 1 } : EngCnt).complete q.num } }

theorem State.take_finish_se (s : State) (k : Nat) (q : QEntry) :
    (s.take k .se).finish k .se q = s.setCore k ((s.core k).seDone q) := by
  simp only [State.finish, State.take, State.modCore_eq, State.modCc_eq, State.core_setCore, if_true, State.setCore_setCore,
    Core.setQueue, Core.queue, Cc.setCnt, Cc.cnt, Core.seDone]

theorem Core.seDone_completes (c : Core) (q : QEntry) : Completes q.num c.cc.seCnt (c.seDone q).cc.seCnt :=
  Completes.of_complete q.num _ _ rfl rfl rfl

theorem Core.seDone_started (c : Core) (q : QEntry) : (c.seDone q).cc.seCnt.started = c.cc.seCnt.started + 1 :=
  (EngCnt.complete_issued _ _).2

theorem Core.seDone_issued (c : Core) (q : QEntry) : (c.seDone q).cc.seCnt.issued = c.cc.seCnt.issued :=
  (EngCnt.complete_issued _ _).1

/-- A command that changes the stream engine at once, apart from its queue: taken and finished. -/
theorem State.seTake_finish {s : State} {k : Nat} {q : QEntry} {rest : List QEntry} (f : Se → Se)
    (hq : (s.core k).se.queue = q :: rest) (hf : ∀ e, (f e).queue = e.queue) :
    let t := ((s.modSe k f).take k .se).finish k .se q
    SeTakes k rest s t ∧ Completes q.num (s.core k).cc.seCnt (t.core k).cc.seCnt ∧
      (t.core k).se = { f (s.core k).se with queue := rest } := by
  intro t
  have ht : t = s.setCore k (({ s.core k with se := f (s.core k).se } : Core).seDone q) := by
    simp only [t, State.take_finish_se, State.modSe_eq, State.core_setCore, if_true, State.setCore_setCore]
  have hcore : t.core k = ({ s.core k with se := f (s.core k).se } : Core).seDone q := by
    rw [ht, State.core_setCore, if_pos rfl]
  have hse : (t.core k).se = { f (s.core k).se with queue := rest } := by
    simp only [hcore, Core.seDone, hf, hq, List.tail_cons]
  refine ⟨⟨ht ▸ OnlyCore.setCore s k _, ?_, ?_, ?_, ?_, ?_⟩, ?_, hse⟩
  · rw [hcore]; rfl
  · rw [hcore]; rfl
  · rw [hcore]; exact Core.seDone_issued _ q
  · rw [hcore]; exact Core.seDone_started _ q
  · rw [hse]
  · rw [hcore]; exact Core.seDone_completes _ q

/-! ## A skipped command (00 R14, 07 R226) -/

theorem State.raise_se_core (s : State) (k j b : Nat) :
    (s.raise (.se k) b).core j = if j = k then { s.core k with se := { (s.core k).se with
      cause := setBit (s.core k).se.cause b true } } else s.core j := by
  simp only [State.raise, State.raiseArg]
  split
  · exact State.core_setCore s k j _
  · exact State.core_setCore s k j _

/-- Recording a refusal changes SE_ERR_INFO of its core at most. -/
theorem State.seErr_core (s : State) (k : Nat) (tag : Half) (b : SeErr) :
    ∃ x, ∀ j, (s.seErr k tag b).core j =
      if j = k then { s.core k with se := { (s.core k).se with errInfo := x } } else s.core j := by
  unfold State.seErr
  split
  · exact ⟨_, fun j => State.core_setCore s k j _⟩
  · refine ⟨(s.core k).se.errInfo, fun j => ?_⟩
    split
    next h => rw [h]
    · rfl

/-- An entry of the error log changes the log of its core and counts itself. -/
theorem State.errLog_counts (s : State) (k : Nat) (addr : Half) (bank : Bool) (slot source cause : Nat) (tag : Half) :
    ∃ log nxt, ∀ j, (s.errLog k addr bank slot source cause tag).core j = if j = k then { s.core k with
      cc := { (s.core k).cc with errlog := log, errNext := nxt, errSeq := (s.core k).cc.errSeq + 1 } } else s.core j :=
  ⟨_, _, fun j => State.errLog_core s k j addr bank slot source cause tag⟩

/-- Core `k` skips the head `q` of its SE queue, leaving `rest`: the command is logged and complete, and of the engine only
the queue, the cause and SE_ERR_INFO may change. -/
structure SeSkips (k : Nat) (q : QEntry) (rest : List QEntry) (s t : State) : Prop where
  others : ∀ j, j ≠ k → t.core j = s.core j
  queue : (t.core k).se.queue = rest
  engine : { (t.core k).se with
    queue := (s.core k).se.queue, cause := (s.core k).se.cause, errInfo := (s.core k).se.errInfo } = (s.core k).se
  scratchpad : (t.core k).sp = (s.core k).sp
  errSeq : (t.core k).cc.errSeq = (s.core k).cc.errSeq + 1
  completes : Completes q.num (s.core k).cc.seCnt (t.core k).cc.seCnt

theorem SeSkips.tdescs {k q rest} {s t : State} (h : SeSkips k q rest s t) : (t.core k).se.tdescs = (s.core k).se.tdescs := by
  have h' := congrArg Se.tdescs h.engine
  exact h'

theorem SeSkips.hqs {k q rest} {s t : State} (h : SeSkips k q rest s t) : (t.core k).se.hqs = (s.core k).se.hqs := by
  have h' := congrArg Se.hqs h.engine
  exact h'

/-- A skipped command logs, records and completes in its own core. -/
theorem State.seSkip_core (s : State) (k : Nat) (q : QEntry) (b : SeErr) : ∃ info log nxt, ∀ j,
    (s.seSkip k q b).core j = if j = k then ({ s.core k with
      se := { (s.core k).se with errInfo := info, cause := setBit (s.core k).se.cause b.cause true }
      cc := { (s.core k).cc with errlog := log, errNext := nxt, errSeq := (s.core k).cc.errSeq + 1 } } : Core).seDone q
    else s.core j := by
  obtain ⟨info, herr⟩ := s.seErr_core k q.tag b
  obtain ⟨log, nxt, hlog⟩ := ((s.seErr k q.tag b).raise (.se k) b.cause).errLog_counts k q.addr q.bank q.slot.toNat 3 b.cause q.tag
  have hskip : s.seSkip k q b = ((((s.seErr k q.tag b).raise (.se k) b.cause).errLog k q.addr q.bank q.slot.toNat 3 b.cause
      q.tag).take k .se).finish k .se q := rfl
  refine ⟨info, log, nxt, fun j => ?_⟩
  rw [hskip, State.take_finish_se, State.core_setCore]
  simp only [hlog, State.raise_se_core, herr, if_true]
  split
  · rfl
  · rfl

theorem State.seSkip_skips {s : State} {k : Nat} {q : QEntry} {rest : List QEntry} (hq : (s.core k).se.queue = q :: rest)
    (b : SeErr) : SeSkips k q rest s (s.seSkip k q b) := by
  obtain ⟨info, log, nxt, hcore⟩ := s.seSkip_core k q b
  have hk := hcore k
  rw [if_pos rfl] at hk
  refine ⟨fun j hj => by rw [hcore, if_neg hj], ?_, ?_, ?_, ?_, ?_⟩
  · rw [hk]; simp only [Core.seDone, hq, List.tail_cons]
  · rw [hk]; rfl
  · rw [hk]; rfl
  · rw [hk]; rfl
  · rw [hk]; exact Core.seDone_completes _ q

/-- The cause of a skipped command is set. -/
theorem State.seSkip_cause (s : State) (k : Nat) (q : QEntry) {b : SeErr} (hb : b.cause < 19) :
    ((s.seSkip k q b).core k).se.cause.getLsbD b.cause = true := by
  obtain ⟨info, log, nxt, hcore⟩ := s.seSkip_core k q b
  rw [hcore, if_pos rfl]
  simp only [Core.seDone, setBit_getLsbD _ _ _ _ hb, if_true]

/-! ## SE.TDESC (06 R166, R167) -/

section
variable {s : State} {l : SiteNo} {c : CoreNo} {k : Nat} {q : QEntry} {rest : List QEntry}

theorem exec_seTdesc_head (hk : s.key l c = some k) (hfence : (s.core k).se.fence = none)
    (hq : (s.core k).se.queue = q :: rest) (ho : q.op = 0xA0) (hr : reservedBits q.w (seMaskOf q.w) = false) :
    exec (.seTdesc l ⟨c, []⟩) s = .next (State.seTdesc [] k q s) :=
  congrArg Host.Outcome.next (State.seRun_head hk hfence hq ho (by decide) hr)

theorem State.seTdesc_invalidates (hi : bitAt q.w 33 = true) (ha : fld q.w 34 16 = 0) :
    State.seTdesc [] k q s = ((s.setDesc k (fld q.w 24 9) none).take k .se).finish k .se q := by
  simp [State.seTdesc, hi, ha]

section
variable {bs : List Byte} (hi : bitAt q.w 33 = false) (ha : fld q.w 34 16 % 128 = 0)
  (hread : (s.core k).cc.dmemRead (fld q.w 34 16) 128 = some bs)
include hi ha hread

theorem State.seTdesc_accepts (hcheck : s.descCheck (fld q.w 34 16) bs = none) :
    State.seTdesc [] k q s = ((s.setDesc k (fld q.w 24 9) (some (decodeDesc bs))).take k .se).finish k .se q := by
  simp [State.seTdesc, State.eccHits, hi, ha, hread, hcheck]

theorem State.seTdesc_refuses {check cause dim : Nat} (hcheck : s.descCheck (fld q.w 34 16) bs = some (check, cause, dim)) :
    State.seTdesc [] k q s =
      ((s.setDesc k (fld q.w 24 9) none).tdInfo k (fld q.w 24 9) check dim q.tag).seSkip k q (SeErr.cmd 0 0 cause) := by
  simp [State.seTdesc, State.eccHits, hi, ha, hread, hcheck]

end

/-- Setting or clearing entry `i` is all that the command does to the engine. -/
theorem State.setDesc_takes (hq : (s.core k).se.queue = q :: rest) (i : Nat) (d : Option Desc) :
    let t := ((s.setDesc k i d).take k .se).finish k .se q
    SeTakes k rest s t ∧ Completes q.num (s.core k).cc.seCnt (t.core k).cc.seCnt ∧
      { (t.core k).se with queue := (s.core k).se.queue, tdescs := (s.core k).se.tdescs } = (s.core k).se ∧
      ∀ n, sget (fun _ => none) (t.core k).se.tdescs n = if n = i then d else sget (fun _ => none) (s.core k).se.tdescs n := by
  intro t
  obtain ⟨htakes, hcnt, hse⟩ := State.seTake_finish (fun e => { e with tdescs := sset (fun _ => none) e.tdescs i d }) hq
    (fun _ => rfl)
  refine ⟨htakes, hcnt, ?_, fun n => ?_⟩
  · rw [show (t.core k).se = _ from hse]
  · rw [show (t.core k).se = _ from hse]
    exact sget_sset _ _ i n d

/-- An entry set and a refusal recorded in SE_TD_INFO: nothing else of the core changes. -/
theorem State.setDesc_tdInfo (s : State) (k i check dim : Nat) (d : Option Desc) (tag : Half) :
    let u := (s.setDesc k i d).tdInfo k i check dim tag
    (∀ j, j ≠ k → u.core j = s.core j) ∧ (u.core k).sp = (s.core k).sp ∧ (u.core k).cc = (s.core k).cc ∧
      (u.core k).se.queue = (s.core k).se.queue ∧ (u.core k).se.tdescs = sset (fun _ => none) (s.core k).se.tdescs i d := by
  intro u
  have hset (j : Nat) : (s.setDesc k i d).core j = if j = k then { s.core k with
      se := { (s.core k).se with tdescs := sset (fun _ => none) (s.core k).se.tdescs i d } } else s.core j :=
    State.core_setCore s k j _
  simp only [u, State.tdInfo]
  split
  · simp +contextual [hset]
  · simp +contextual [hset]

/-- A record that fails leaves its entry invalid, and the command is skipped (06 R167). -/
theorem State.tdInfo_skips (hq : (s.core k).se.queue = q :: rest) (i check dim : Nat) (b : SeErr) :
    let t := ((s.setDesc k i none).tdInfo k i check dim q.tag).seSkip k q b
    (∀ j, j ≠ k → t.core j = s.core j) ∧ (t.core k).se.queue = rest ∧ (t.core k).sp = (s.core k).sp ∧
      (t.core k).cc.errSeq = (s.core k).cc.errSeq + 1 ∧ Completes q.num (s.core k).cc.seCnt (t.core k).cc.seCnt ∧
      ∀ n, sget (fun _ => none) (t.core k).se.tdescs n = if n = i then none else sget (fun _ => none) (s.core k).se.tdescs n := by
  intro t
  obtain ⟨hother, hsp, hcc, hqueue, htd⟩ := s.setDesc_tdInfo k i check dim none q.tag
  have hskips : SeSkips k q rest _ t := State.seSkip_skips (hqueue.trans hq) b
  refine ⟨fun j hj => (hskips.others j hj).trans (hother j hj), hskips.queue, hskips.scratchpad.trans hsp,
    hcc ▸ hskips.errSeq, hcc ▸ hskips.completes, fun n => ?_⟩
  rw [hskips.tdescs, htd]
  exact sget_sset _ _ i n none

end

/-! ## SE.HQCFG (07 R206, R212) -/

section
variable {s : State} {l : SiteNo} {c : CoreNo} {k : Nat} {q : QEntry} {rest : List QEntry} {bs : List Byte}

theorem exec_seHqcfg_head (hk : s.key l c = some k) (hfence : (s.core k).se.fence = none)
    (hq : (s.core k).se.queue = q :: rest) (ho : q.op = 0x90) (hr : reservedBits q.w (seMaskOf q.w) = false) :
    exec (.seHqcfg l ⟨c, []⟩) s = .next (State.seHqcfg [] k q s) :=
  congrArg Host.Outcome.next (State.seRun_head hk hfence hq ho (by decide) hr)

/-- A handle of queue `n` is not free, or an endpoint waits on it (07 R212). -/
def State.hqBusy (s : State) (k n : Nat) : Prop := (s.hq k n).used ≠ 0 ∨ s.hqWaited k n = true

/-- The record passes the checks of 07 R206 and R207: it clears queue `n`, or its roles and its pool are in order. -/
def State.hqCfgOk (s : State) (k n : Nat) (cfg : HqCfg) : Prop :=
  cfg.clears = true ∨ cfg.rolesOk = true ∧ (s.core k).se.poolOk n cfg = true

theorem State.hqCfgOk.passes {n : Nat} {cfg : HqCfg} (h : s.hqCfgOk k n cfg) :
    (!cfg.clears && (!cfg.rolesOk || !(s.core k).se.poolOk n cfg)) = false := by
  rcases h with hclears | ⟨hroles, hpool⟩
  · simp [hclears]
  · simp [hroles, hpool]

/-- The queue that a record configures: counters and positions 0. -/
def HqCfg.fresh (cfg : HqCfg) : Hq := { Hq.init with cfg := if cfg.clears then none else some cfg }

section
variable (ha : fld q.w 29 16 % 32 = 0) (hread : (s.core k).cc.dmemRead (fld q.w 29 16) 32 = some bs)
  (hres : hqReserved bs = false) (hok : s.hqCfgOk k (fld q.w 24 5) (decodeHqCfg bs))
include ha hread hres hok

theorem State.seHqcfg_busy (hbusy : s.hqBusy k (fld q.w 24 5)) :
    State.seHqcfg [] k q s = s.seSkip k q (SeErr.cmd 0 (fld q.w 24 5) seHqBusy) := by
  have hb : ((s.hq k (fld q.w 24 5)).used != 0 || s.hqWaited k (fld q.w 24 5)) = true := by
    simpa [State.hqBusy] using hbusy
  simp [State.seHqcfg, State.eccHits, ha, hread, hres, hok.passes, hb]

theorem State.seHqcfg_configures (hfree : ¬s.hqBusy k (fld q.w 24 5)) : ∃ ns, State.seHqcfg [] k q s =
    (({ s.modHq k (fld q.w 24 5) (fun _ => (decodeHqCfg bs).fresh) with notices := ns }).take k .se).finish k .se q := by
  have hb : ((s.hq k (fld q.w 24 5)).used != 0 || s.hqWaited k (fld q.w 24 5)) = false := by
    simpa [State.hqBusy] using hfree
  simp only [State.seHqcfg, ha, hread, hres, hok.passes, hb, State.eccHits, List.foldl_nil, ne_eq, not_true_eq_false, if_false,
    Bool.or_false, Bool.false_eq_true]
  cases (!(decodeHqCfg bs).clears && (decodeHqCfg bs).remote) with
  | false => exact ⟨s.notices, rfl⟩
  | true => exact ⟨_, rfl⟩

end

/-- A queue set anew and the command done: every other queue, the contexts and the scratchpad stand. -/
theorem State.modHq_takes (hq : (s.core k).se.queue = q :: rest) (n : Nat) (h : Hq) (ns : List Notice) :
    let t := (({ s.modHq k n (fun _ => h) with notices := ns }).take k .se).finish k .se q
    (∀ j, j ≠ k → t.core j = s.core j) ∧ (t.core k).se.queue = rest ∧ (t.core k).sp = (s.core k).sp ∧
      (t.core k).se.ctxs = (s.core k).se.ctxs ∧ (t.core k).cc.seCnt.started = (s.core k).cc.seCnt.started + 1 ∧
      Completes q.num (s.core k).cc.seCnt (t.core k).cc.seCnt ∧ (∀ m, m ≠ n → t.hq k m = s.hq k m) ∧ t.hq k n = h := by
  intro t
  have hcore (j : Nat) : t.core j = if j = k then ({ s.core k with
      se := { (s.core k).se with hqs := sset (fun _ => Hq.init) (s.core k).se.hqs n h } } : Core).seDone q else s.core j := by
    have hset (j : Nat) : ({ s.modHq k n (fun _ => h) with notices := ns } : State).core j = if j = k then { s.core k with
        se := { (s.core k).se with hqs := sset (fun _ => Hq.init) (s.core k).se.hqs n h } } else s.core j :=
      State.core_setCore s k j _
    simp only [t, State.take_finish_se, State.core_setCore, hset, if_true]
    split
    · rfl
    · rfl
  have hk := hcore k
  rw [if_pos rfl] at hk
  have hhq (m : Nat) : t.hq k m = if m = n then h else s.hq k m := by
    rw [State.hq, hk]
    exact sget_sset _ _ n m h
  refine ⟨fun j hj => by rw [hcore, if_neg hj], ?_, ?_, ?_, ?_, ?_, fun m hm => by rw [hhq, if_neg hm], by rw [hhq, if_pos rfl]⟩
  · rw [hk]; simp only [Core.seDone, hq, List.tail_cons]
  · rw [hk]; rfl
  · rw [hk]; rfl
  · rw [hk]; exact Core.seDone_started _ q
  · rw [hk]; exact Core.seDone_completes _ q

end

/-! ## SE.MCAST (07 R192, R204) -/

section
variable {s : State} {l : SiteNo} {c : CoreNo} {k : Nat} {q : QEntry} {rest : List QEntry}

/-- The group that the command names: a mesh group with its presented core, or a core mask of the own site. -/
def QEntry.mcastGroup (q : QEntry) : Mcast :=
  if bitAt q.w 27 then .mesh (BitVec.ofNat 6 (fld q.w 28 6)) (BitVec.ofNat 5 (fld q.w 34 5))
  else .die (BitVec.ofNat 32 (fld q.w 28 32))

theorem exec_seMcast_head (hk : s.key l c = some k) (hfence : (s.core k).se.fence = none)
    (hq : (s.core k).se.queue = q :: rest) (ho : q.op = 0x98) (hr : reservedBits q.w (seMaskOf q.w) = false) :
    exec (.seMcast l c) s =
      .next (((s.modSeCtx k (fld q.w 24 3) (fun x => { x with group := some q.mcastGroup })).take k .se).finish k .se q) :=
  congrArg Host.Outcome.next (State.seRun_head hk hfence hq ho (by decide) hr)

/-- A change of context `x` is all that the command does to the engine. -/
theorem State.modSeCtx_takes (hq : (s.core k).se.queue = q :: rest) (x : Nat) (f : SeCtx → SeCtx) :
    let t := ((s.modSeCtx k x f).take k .se).finish k .se q
    SeTakes k rest s t ∧ Completes q.num (s.core k).cc.seCnt (t.core k).cc.seCnt ∧
      { (t.core k).se with queue := (s.core k).se.queue, ctxs := (s.core k).se.ctxs } = (s.core k).se ∧
      ∀ y, (t.core k).se.ctx y = if y = x then f ((s.core k).se.ctx y) else (s.core k).se.ctx y := by
  intro t
  obtain ⟨htakes, hcnt, hse⟩ := State.seTake_finish
    (fun e => { e with ctxs := sset (fun _ => SeCtx.init) e.ctxs x (f (e.ctx x)) }) hq (fun _ => rfl)
  refine ⟨htakes, hcnt, ?_, fun y => ?_⟩
  · rw [show (t.core k).se = _ from hse]
  · rw [show (t.core k).se = _ from hse]
    refine (sget_sset _ _ x y _).trans ?_
    split
    next h => rw [h]
    · rfl

end

/-! ## The obligation -/

/-- Settles O13: each command at the head of the queue is one of the cases above, and what it leaves is that case's lemma. -/
theorem seTables : Obligations.SeTables := by
  unfold Obligations.SeTables
  refine ⟨?_, ?_, ?_⟩
  · intro l c s k q rest bs hk hfence hq ho hr
    refine ⟨fun hi ha => ?_, fun hi ha hread => ⟨fun hcheck => ?_, fun check cause dim hcheck => ?_⟩⟩
    · exact ⟨_, (exec_seTdesc_head hk hfence hq ho hr).trans (congrArg _ (State.seTdesc_invalidates hi ha)),
        State.setDesc_takes hq _ none⟩
    · exact ⟨_, (exec_seTdesc_head hk hfence hq ho hr).trans (congrArg _ (State.seTdesc_accepts hi ha hread hcheck)),
        State.setDesc_takes hq _ (some (decodeDesc bs))⟩
    · exact ⟨_, (exec_seTdesc_head hk hfence hq ho hr).trans (congrArg _ (State.seTdesc_refuses hi ha hread hcheck)),
        State.tdInfo_skips hq _ check dim _⟩
  · intro l c s k q rest bs hk hfence hq ho hr ha hread hres hok
    refine ⟨fun hfree => ?_, fun hbusy => ?_⟩
    · obtain ⟨ns, hgo⟩ := State.seHqcfg_configures ha hread hres hok hfree
      obtain ⟨hother, hqueue, hsp, hctxs, hstart, hdone, hqs, hnew⟩ :=
        State.modHq_takes hq (fld q.w 24 5) (decodeHqCfg bs).fresh ns
      refine ⟨_, (exec_seHqcfg_head hk hfence hq ho hr).trans (congrArg _ hgo), hother, hqueue, hsp, hctxs, hstart, hdone, hqs, ?_⟩
      rw [hnew]
      exact ⟨rfl, rfl, rfl, rfl, rfl, rfl, rfl, rfl, rfl⟩
    · have hskips := State.seSkip_skips hq (SeErr.cmd 0 (fld q.w 24 5) seHqBusy)
      exact ⟨_, (exec_seHqcfg_head hk hfence hq ho hr).trans (congrArg _ (State.seHqcfg_busy ha hread hres hok hbusy)),
        hskips.others, hskips.hqs, hskips.queue, hskips.scratchpad, s.seSkip_cause k q (show seHqBusy < 19 by decide), hskips.errSeq⟩
  · intro l c s k q rest hk hfence hq ho hr
    exact ⟨_, exec_seMcast_head hk hfence hq ho hr, State.modSeCtx_takes hq _ (fun x => { x with group := some q.mcastGroup })⟩

end Sys2Proof.Machine
end

section
/-! What the operations of a stream context can do (07 R191–R200): an instruction that is reached runs, and each step sets the
context, and the waits of its core, at most. -/

namespace Sys2Proof.Machine

/-! ## One context of a stream engine -/

/-- Stream context `x` of core `k` is set to `c`, and the waits of that core's endpoints to `ws`. -/
def State.putCtx (s : State) (k x : Nat) (c : SeCtx) (ws : List HqWait) : State :=
  s.setCore k { s.core k with se := { (s.core k).se with
    ctxs := sset (fun _ => SeCtx.init) (s.core k).se.ctxs x c, waits := ws } }

/-- The waits of a stream engine but those of one endpoint. -/
def Se.waitsBut (e : Se) (ep : Nat) : List HqWait := e.waits.filter (fun v => v.endpoint.toNat != ep)

/-- The context goes on to the next instruction. -/
def SeCtx.next (c : SeCtx) : SeCtx := { c with pc := c.pc + 1, waitKind := 0 }

section
variable (s : State) (k x : Nat) (c : SeCtx) (ws : List HqWait)

@[simp] theorem State.putCtx_core (j : Nat) : (s.putCtx k x c ws).core j = if j = k then { s.core k with
    se := { (s.core k).se with ctxs := sset (fun _ => SeCtx.init) (s.core k).se.ctxs x c, waits := ws } } else s.core j :=
  State.core_setCore s k j _

theorem State.putCtx_ctx (y : Nat) :
    ((s.putCtx k x c ws).core k).se.ctx y = if y = x then c else (s.core k).se.ctx y := by
  rw [State.putCtx_core, if_pos rfl]
  exact sget_sset _ _ x y c

@[simp] theorem State.putCtx_ctx_same : ((s.putCtx k x c ws).core k).se.ctx x = c := by
  rw [State.putCtx_ctx, if_pos rfl]

theorem State.putCtx_ctx_other {y : Nat} (hy : y ≠ x) : ((s.putCtx k x c ws).core k).se.ctx y = (s.core k).se.ctx y := by
  rw [State.putCtx_ctx, if_neg hy]

@[simp] theorem State.putCtx_waits : ((s.putCtx k x c ws).core k).se.waits = ws := by
  rw [State.putCtx_core, if_pos rfl]

@[simp] theorem State.putCtx_hq (n : Nat) : (s.putCtx k x c ws).hq k n = s.hq k n := by
  rw [State.hq, State.putCtx_core, if_pos rfl]; rfl

theorem State.putCtx_putCtx (c' : SeCtx) (ws' : List HqWait) :
    (s.putCtx k x c ws).putCtx k x c' ws' = s.putCtx k x c' ws' := by
  have hcore := State.putCtx_core s k x c ws k
  rw [if_pos rfl] at hcore
  rw [State.putCtx, hcore]
  simp only [State.putCtx, State.setCore_setCore, sset_sset]

theorem State.putCtx_onlySeCtx : OnlySeCtx k x s (s.putCtx k x c ws) := by
  refine ⟨OnlyCore.setCore s k _, ?_, ?_, fun y hy => s.putCtx_ctx_other k x c ws hy⟩
  · rw [State.putCtx_core, if_pos rfl]
  · rw [State.putCtx_core, if_pos rfl]

theorem State.modSeCtx_eq_putCtx (f : SeCtx → SeCtx) :
    s.modSeCtx k x f = s.putCtx k x (f ((s.core k).se.ctx x)) (s.core k).se.waits := rfl

theorem State.putCtx_endWait (ep : Nat) :
    (s.putCtx k x c ws).endWait k ep = s.putCtx k x c (ws.filter (fun v => v.endpoint.toNat != ep)) := by
  have hcore := State.putCtx_core s k x c ws k
  rw [if_pos rfl] at hcore
  simp only [State.endWait, State.modSe_eq, hcore]
  simp only [State.putCtx, State.setCore_setCore]

/-- A change of the context, then the next instruction. -/
theorem State.modSeCtx_spNext (f : SeCtx → SeCtx) : (s.modSeCtx k x f).spNext k x =
    s.putCtx k x (f ((s.core k).se.ctx x)).next ((s.core k).se.waitsBut (x + 1)) := by
  rw [State.spNext, State.modSeCtx_eq_putCtx, State.modSeCtx_eq_putCtx, State.putCtx_ctx_same, State.putCtx_waits,
    State.putCtx_putCtx, State.putCtx_endWait]
  rfl

theorem State.spNext_eq :
    s.spNext k x = s.putCtx k x ((s.core k).se.ctx x).next ((s.core k).se.waitsBut (x + 1)) := by
  rw [State.spNext, State.modSeCtx_eq_putCtx, State.putCtx_endWait]
  rfl

end

/-! ## The instruction at the context's position -/

section
variable {s : State} {l : SiteNo} {c : CoreNo} {x : BitVec 3} {k op : Nat} {w : DWord} {f : Nat → Nat → DWord → State → State}

theorem State.paused3_of_level (h : s.pwr.level.toNat < 3) : s.paused3 = false :=
  decide_eq_false (fun h' => by
    have h3 : 3 ≤ s.pwr.level.toNat := h'
    omega)

/-- A context that stands at an instruction of this opcode runs it. -/
theorem State.spRun_at (hk : s.key l c = some k) (hat : AtInstr s k x.toNat w) (hop : spOp w = op) :
    s.spRun l c x op f = f k x.toNat w s := by
  obtain ⟨hrun, hend, hpause, hlevel, hissue, p, hprog, hcode⟩ := hat
  simp [State.spRun, hk, hprog, hcode, hrun, hend, hpause, s.paused3_of_level hlevel, hissue, hop]

/-- While the engine is paused, no context runs an instruction (R222). -/
theorem State.spRun_paused (hk : s.key l c = some k) (hpause : (s.core k).se.pause = true) :
    s.spRun l c x op f = s := by
  simp only [State.spRun, hk, hpause]
  split
  · rfl
  · split
    · rfl
    · simp

/-- While a fence is pending, no command of the queue runs (R193). -/
theorem State.seRun_fenced {f : Nat → QEntry → State → State} (hk : s.key l c = some k)
    (hfence : (s.core k).se.fence.isSome = true) : s.seRun l c op f = s := by
  simp only [State.seRun, hk, hfence, if_true]

end

end Sys2Proof.Machine
end

section
/-! Fences, the pause, and waits past their limit (07 R193, R214, R222). -/

namespace Sys2Proof.Machine

/-! ## Fields of a packed register -/

/-- SE_HQ_STALL as it records a wait (R214). -/
def HqWait.stallReg (w : HqWait) : DWord :=
  reg64 [(w.hq.toNat, 0), (bit w.acq, 5), (w.endpoint.toNat, 8), (w.rsite.toNat, 16), (w.rcore.toNat, 22),
    (w.since.toNat % 2 ^ 32, 32)]

theorem bit_le (b : Bool) : bit b ≤ 1 := by cases b <;> decide

theorem HqWait.stallReg_toNat (w : HqWait) : w.stallReg.toNat = w.hq.toNat + bit w.acq * 2 ^ 5 + w.endpoint.toNat * 2 ^ 8 +
    w.rsite.toNat * 2 ^ 16 + w.rcore.toNat * 2 ^ 22 + w.since.toNat % 2 ^ 32 * 2 ^ 32 := by
  have hhq := w.hq.isLt
  have hacq := bit_le w.acq
  have hep := w.endpoint.isLt
  have hsite := w.rsite.isLt
  have hcore := w.rcore.isLt
  have hsince : w.since.toNat % 2 ^ 32 < 2 ^ 32 := Nat.mod_lt _ (by decide)
  rw [HqWait.stallReg, reg64, BitVec.toNat_ofNat]
  simp only [pack]
  omega

theorem HqWait.stallReg_fields (w : HqWait) : fld w.stallReg.toNat 0 5 = w.hq.toNat ∧
    fld w.stallReg.toNat 8 8 = w.endpoint.toNat ∧ fld w.stallReg.toNat 32 32 = w.since.toNat % 2 ^ 32 := by
  have hhq := w.hq.isLt
  have hacq := bit_le w.acq
  have hep := w.endpoint.isLt
  have hsite := w.rsite.isLt
  have hcore := w.rcore.isLt
  have hsince : w.since.toNat % 2 ^ 32 < 2 ^ 32 := Nat.mod_lt _ (by decide)
  rw [w.stallReg_toNat]
  simp only [fld]
  omega

/-! ## A wait past its limit (R214) -/

section
variable {s : State} {l : SiteNo} {c : CoreNo} {k : Nat} {v : HqWait}

theorem State.hqStall_early (hw : (s.core k).se.waits = [v]) (hlim : (s.tick - v.since).toNat ≤ (s.core k).se.waitLimit.toNat) :
    s.hqStall k v.endpoint.toNat = s := by
  cases hst : v.stalled with
  | false => simp only [State.hqStall, hw, List.find?_cons, hst, beq_self_eq_true, Bool.not_false, Bool.and_self, if_pos hlim]
  | true => simp [State.hqStall, hw, hst]

theorem State.hqStall_stalled (hw : (s.core k).se.waits = [v]) (hst : v.stalled = true) (ep : Nat) : s.hqStall k ep = s := by
  simp [State.hqStall, hw, hst]

/-- The engine once the wait `v`, its only one, has passed the limit. -/
def Se.stalledBy (e : Se) (v : HqWait) : Se :=
  { e with
    waits := [{ v with stalled := true }]
    hqStallReg := if bitAt e.cause.toNat 13 then e.hqStallReg else v.stallReg
    cause := setBit e.cause 13 true }

theorem State.hqStall_late (hw : (s.core k).se.waits = [v]) (hst : v.stalled = false)
    (hlim : (s.core k).se.waitLimit.toNat < (s.tick - v.since).toNat) :
    s.hqStall k v.endpoint.toNat = s.setCore k { s.core k with se := (s.core k).se.stalledBy v } := by
  have hcause (t : State) : t.raise (.se k) 13 = t.modSe k (fun e => { e with cause := setBit e.cause 13 true }) := rfl
  simp only [State.hqStall, hw, List.find?_cons, hst, beq_self_eq_true, Bool.not_false, Bool.and_self,
    if_neg (Nat.not_le.mpr hlim), hcause, State.modSe_eq, State.core_setCore, if_true, State.setCore_setCore, List.map_cons,
    List.map_nil]
  cases hb : bitAt (s.core k).se.cause.toNat 13 with
  | true => simp only [Se.stalledBy, hb, Bool.not_true, Bool.false_eq_true, if_false, if_true]
  | false => simp only [Se.stalledBy, hb, Bool.not_false, Bool.false_eq_true, if_false, if_true]; rfl

end

/-! ## Fences (R193) -/

section
variable {s : State} {l : SiteNo} {c : CoreNo} {k : Nat} {q : QEntry} {rest : List QEntry}

theorem exec_seFence_head (hk : s.key l c = some k) (hfence : (s.core k).se.fence = none)
    (hq : (s.core k).se.queue = q :: rest) (ho : q.op = 0xA8) (hr : reservedBits q.w (seMaskOf q.w) = false) :
    exec (.seFence l c) s = .next (State.seFence k q s) :=
  congrArg Host.Outcome.next (State.seRun_head hk hfence hq ho (by decide) hr)

/-- The core once the fence at the head of its SE queue has taken its place. -/
def Core.fenced (c : Core) (q : QEntry) : Core :=
  { c with
    se := { c.se with queue := c.se.queue.tail, fence := some (q, BitVec.ofNat 8 (fld q.w 24 8)) }
    cc := { c.cc with seCnt := { c.cc.seCnt with started := c.cc.seCnt.started + 1 } } }

theorem State.seFence_eq (s : State) (k : Nat) (q : QEntry) : State.seFence k q s = s.setCore k ((s.core k).fenced q) := by
  simp only [State.seFence, State.take, State.modCore_eq, State.modSe_eq, State.core_setCore, if_true, State.setCore_setCore,
    Core.setQueue, Core.queue, Cc.setCnt, Cc.cnt, Core.fenced]

/-- A context that the fence `q` names still runs, or has a push or a notice on its way. -/
def State.fenceOpen (s : State) (k : Nat) (q : QEntry) : Prop :=
  ∃ x, x < 8 ∧ bitAt (fld q.w 24 8) x = true ∧ (((s.core k).se.ctx x).running = true ∨ s.noticesOf k x = true)

/-- A fence that takes its place changes nothing that it waits for. -/
theorem State.fenceOpen_fenced (s : State) (k : Nat) (q : QEntry) :
    (s.setCore k ((s.core k).fenced q)).fenceOpen k q ↔ s.fenceOpen k q := by
  have hhq (m n : Nat) : (s.setCore k ((s.core k).fenced q)).hq m n = s.hq m n := by
    rw [State.hq, State.core_setCore]
    split
    next h => rw [h]; rfl
    · rfl
  have hnotices (x : Nat) : (s.setCore k ((s.core k).fenced q)).noticesOf k x = s.noticesOf k x := by
    simp only [State.noticesOf, hhq]
    rfl
  have hctx (x : Nat) : ((s.setCore k ((s.core k).fenced q)).core k).se.ctx x = (s.core k).se.ctx x := by
    rw [State.core_setCore, if_pos rfl]; rfl
  simp only [State.fenceOpen, hctx, hnotices]

/-- FENCE_COMPLETE waits exactly while the fence is open. -/
theorem State.fenceDone_eq {t : State} (hfence : (t.core k).se.fence = some (q, BitVec.ofNat 8 (fld q.w 24 8))) :
    (t.fenceOpen k q → t.fenceDone k = t) ∧ (¬t.fenceOpen k q → t.fenceDone k =
      (t.modSe k (fun e => { e with fence := none, fenceCnt := e.fenceCnt + 1 })).finish k .se q) := by
  have hopen : (onesOf 8 (BitVec.ofNat 8 (fld q.w 24 8)).toNat).any (fun x =>
      ((t.core k).se.ctx x).running || t.noticesOf k x) = true ↔ t.fenceOpen k q := by
    rw [BitVec.toNat_ofNat, Nat.mod_eq_of_lt (fld_lt q.w 24 8)]
    simp [onesOf, State.fenceOpen]
  refine ⟨fun h => ?_, fun h => ?_⟩
  · simp only [State.fenceDone, hfence, hopen.mpr h, if_true]
  · simp only [State.fenceDone, hfence]
    rw [if_neg (mt hopen.mp h)]

/-- The core once its fence `q` has completed. -/
def Core.fenceDone (c : Core) (q : QEntry) : Core :=
  { c with
    se := { c.se with fence := none, fenceCnt := c.se.fenceCnt + 1 }
    cc := { c.cc with seCnt := c.cc.seCnt.complete q.num } }

theorem State.fence_finish_eq (t : State) (k : Nat) (q : QEntry) :
    (t.modSe k (fun e => { e with fence := none, fenceCnt := e.fenceCnt + 1 })).finish k .se q =
      t.setCore k ((t.core k).fenceDone q) := by
  simp only [State.finish, State.modSe_eq, State.modCc_eq, State.core_setCore, if_true, State.setCore_setCore, Cc.setCnt, Cc.cnt,
    Core.fenceDone]

end

/-! ## The obligation -/

/-- Settles O14: a fence holds the queue by `State.seRun_fenced` until `State.fenceDone_eq`, a paused engine runs nothing by
`State.spRun_paused`, and a wait stalls once by `State.hqStall_late` and `State.hqStall_stalled`. -/
theorem seFencesAndPauses : Obligations.SeFencesAndPauses := by
  unfold Obligations.SeFencesAndPauses
  refine ⟨?_, ?_, ?_⟩
  · intro l c s k q rest hk hfence hq ho hr
    have hcore : (s.setCore k ((s.core k).fenced q)).core k = (s.core k).fenced q := by
      rw [State.core_setCore, if_pos rfl]
    have hkt : (s.setCore k ((s.core k).fenced q)).key l c = some k := hk
    have hset : ((s.setCore k ((s.core k).fenced q)).core k).se.fence.isSome = true := by rw [hcore]; rfl
    obtain ⟨hwaits, hdone⟩ := State.fenceDone_eq (t := s.setCore k ((s.core k).fenced q)) (k := k) (q := q)
      (by rw [hcore]; rfl)
    have hexec : exec (.fenceComplete l c) (s.setCore k ((s.core k).fenced q)) =
        .next ((s.setCore k ((s.core k).fenced q)).fenceDone k) := by
      show execFenceComplete l c _ = _
      rw [execFenceComplete, hkt]
    refine ⟨_, (exec_seFence_head hk hfence hq ho hr).trans (congrArg _ (s.seFence_eq k q)),
      ⟨OnlyCore.setCore s k _, ?_, ?_, ?_, ?_, ?_⟩, ?_, ?_, ?_, fun hopen => ?_, fun hclosed => ?_⟩
    · rw [hcore]; rfl
    · rw [hcore]; rfl
    · rw [hcore]; rfl
    · rw [hcore]; rfl
    · rw [hcore]; simp only [Core.fenced, hq, List.tail_cons]
    · rw [hcore]; rfl
    · rw [hcore]; simp only [Core.fenced, ← hfence]
    · rintro credit ecc i (rfl | rfl | rfl | rfl | rfl | rfl) <;>
        exact congrArg Host.Outcome.next (State.seRun_fenced hkt hset)
    · rw [hexec, hwaits ((s.fenceOpen_fenced k q).mpr hopen)]
    · have hu := hdone (fun h => hclosed ((s.fenceOpen_fenced k q).mp h))
      rw [State.fence_finish_eq] at hu
      refine ⟨_, hexec.trans (congrArg _ hu), OnlyCore.setCore _ k _, ?_⟩
      rw [State.core_setCore, if_pos rfl, hcore]
      exact ⟨rfl, rfl, rfl, rfl, rfl, Completes.of_complete q.num _ _ rfl rfl rfl⟩
  · intro l c x pause s k hk
    refine ⟨s.modSe k (fun e => { e with pause := pause }), ?_, OnlyCore.setCore s k _, ?_, fun hp => ?_⟩
    · show execSeCtlPause l c pause s = _
      rw [execSeCtlPause, hk]
    · rw [State.modSe_eq, State.core_setCore, if_pos rfl]
    · have hkt : (s.modSe k (fun e => { e with pause := pause })).key l c = some k := hk
      have hpause : ((s.modSe k (fun e => { e with pause := pause })).core k).se.pause = true := by
        rw [State.modSe_eq, State.core_setCore, if_pos rfl]; exact hp
      rintro credit ecc i (rfl | rfl | rfl | rfl | rfl | rfl | rfl | rfl | rfl | rfl | rfl) <;>
        exact congrArg Host.Outcome.next (State.spRun_paused hkt hpause)
  · intro l c ep s k v hk hw hep hst
    subst hep
    have hexec (t : State) (ht : t.key l c = some k) :
        exec (.hqStall l c v.endpoint) t = .next (t.hqStall k v.endpoint.toNat) := by
      show execHqStall l c v.endpoint t = _
      rw [execHqStall, ht]
    refine ⟨fun hlim => by rw [hexec s hk, State.hqStall_early hw hlim], fun hlim => ?_⟩
    have hcore : (s.setCore k { s.core k with se := (s.core k).se.stalledBy v }).core k =
        { s.core k with se := (s.core k).se.stalledBy v } := by
      rw [State.core_setCore, if_pos rfl]
    refine ⟨_, (hexec s hk).trans (congrArg _ (State.hqStall_late hw hst hlim)), OnlyCore.setCore s k _, ?_⟩
    have hcause := bitAt_toNat (s.core k).se.cause 13
    have honce := (hexec _ (show (s.setCore k { s.core k with se := (s.core k).se.stalledBy v }).key l c = some k from hk)).trans
      (congrArg _ (State.hqStall_stalled (v := { v with stalled := true }) (by rw [hcore]; rfl) rfl v.endpoint.toNat))
    rw [hcore]
    refine ⟨rfl, ?_, rfl, rfl, fun h => ?_, fun h => ?_, honce⟩
    · simp only [Se.stalledBy, setBit_getLsbD _ _ _ _ (show 13 < 19 by decide), if_true]
    · simp only [Se.stalledBy, hcause, h, if_true]
    · simp only [Se.stalledBy, hcause, h, Bool.false_eq_true, if_false]
      exact v.stallReg_fields

end Sys2Proof.Machine
end

section
/-! The stream instructions that touch nothing but their context: SP.NOP, SP.SETX, SP.WAITT, SP.LOOP, SP.ENDL (07 R195, R196). -/

namespace Sys2Proof.Machine

/-! ## Index vectors -/

theorem nth_set {α : Type} (v : List α) (i d : Nat) (a z : α) :
    nth (v.set i a) d z = if d = i ∧ d < v.length then a else nth v d z := by
  simp only [nth, List.getElem?_set]
  by_cases hi : i = d
  · subst hi
    by_cases hlen : i < v.length
    · simp [hlen]
    · simp [hlen]
  · simp [hi, Ne.symm hi]

@[simp] theorem bump_length (v : List (BitVec 32)) (i : Nat) (n : Int) : (bump v i n).length = v.length :=
  List.length_modify _ _ _

theorem nth_bump (v : List (BitVec 32)) (i d : Nat) (n : Int) (hd : d < v.length) :
    nth (bump v i n) d 0 = if d = i then nth v d 0 + BitVec.ofInt 32 n else nth v d 0 := by
  simp only [nth, bump, List.getElem?_modify, List.getElem?_eq_getElem hd, Option.getD_some]
  by_cases hi : i = d
  · simp [hi]
  · simp [hi, Ne.symm hi]

/-- Taking off `n` times the increment is the difference modulo 2³². -/
theorem add_ofInt_neg_mul (v : BitVec 32) (n : Nat) (i : Int) :
    v + BitVec.ofInt 32 (-(n * i)) = v - BitVec.ofNat 32 n * BitVec.ofInt 32 i := by
  rw [BitVec.ofInt_neg, BitVec.ofInt_mul, BitVec.ofInt_natCast, BitVec.sub_eq_add_neg]

/-! ## The meanings -/

/-- What SP.SETX does to the index vectors. -/
def SeCtx.setX (w : DWord) (c : SeCtx) : SeCtx :=
  if spF w 4 1 == 0 then { c with x := c.x.set (spF w 5 3) (BitVec.ofInt 32 (sfld w.toNat 8 24)) }
  else { c with y := c.y.set (spF w 5 3) (BitVec.ofInt 32 (sfld w.toNat 8 24)) }

section
variable {s : State} {l : SiteNo} {c : CoreNo} {x : BitVec 3} {k : Nat} {w : DWord}
  (hk : s.key l c = some k) (hat : AtInstr s k x.toNat w)
include hk hat

theorem exec_spNop_at (hop : spOp w = 0x0) : exec (.spNop l c x) s = .next (s.spNext k x.toNat) :=
  congrArg Host.Outcome.next (State.spRun_at hk hat hop)

theorem exec_spLoop_at (hop : spOp w = 0x1) : exec (.spLoop l c x) s =
    .next ((s.modSeCtx k x.toNat (fun c => { c with
      loops := { level := BitVec.ofNat 3 (spF w 4 3), body := c.pc + 1, left := spF w 7 24 + 1, word := w } :: c.loops })).spNext
        k x.toNat) :=
  congrArg Host.Outcome.next (State.spRun_at hk hat hop)

theorem exec_spEndl_at (hop : spOp w = 0x2) : exec (.spEndl l c x) s =
    .next (s.modSeCtx k x.toNat (fun c => { c.endLoop with waitKind := 0 })) :=
  congrArg Host.Outcome.next (State.spRun_at hk hat hop)

theorem exec_spSetx_at (hop : spOp w = 0x8) :
    exec (.spSetx l c x) s = .next ((s.modSeCtx k x.toNat (SeCtx.setX w)).spNext k x.toNat) :=
  congrArg Host.Outcome.next (State.spRun_at hk hat hop)

theorem exec_spWaitt_at (hop : spOp w = 0x9) : exec (.spWaitt l c x) s = .next (State.spWaitt k x.toNat w s) :=
  congrArg Host.Outcome.next (State.spRun_at hk hat hop)

theorem exec_spWaittTickReached_at (hop : spOp w = 0x9) (hkind : ((s.core k).se.ctx x.toNat).waitKind = 6)
    (htick : ((s.core k).se.ctx x.toNat).waitTick.toNat ≤ s.tick.toNat) :
    exec (.spWaittTickReached l c x) s = .next (s.spNext k x.toNat) := by
  refine congrArg Host.Outcome.next ((State.spRun_at hk hat hop).trans ?_)
  simp [hkind, htick]

end

/-- The context goes on: nothing else of it changes, and beyond it only the wait of its endpoint. -/
theorem State.spNext_onlySeCtx (s : State) (k x : Nat) : OnlySeCtx k x s (s.spNext k x) ∧
    ((s.spNext k x).core k).se.ctx x = ((s.core k).se.ctx x).next := by
  rw [State.spNext_eq]
  exact ⟨s.putCtx_onlySeCtx k x _ _, s.putCtx_ctx_same k x _ _⟩

/-- The context changes by `f` and goes on. -/
theorem State.modSeCtx_spNext_onlySeCtx (s : State) (k x : Nat) (f : SeCtx → SeCtx) :
    OnlySeCtx k x s ((s.modSeCtx k x f).spNext k x) ∧
      (((s.modSeCtx k x f).spNext k x).core k).se.ctx x = (f ((s.core k).se.ctx x)).next := by
  rw [State.modSeCtx_spNext]
  exact ⟨s.putCtx_onlySeCtx k x _ _, s.putCtx_ctx_same k x _ _⟩

/-- Only the context changes, by `f`. -/
theorem State.modSeCtx_onlySeCtx (s : State) (k x : Nat) (f : SeCtx → SeCtx) : OnlySeCtx k x s (s.modSeCtx k x f) ∧
    ((s.modSeCtx k x f).core k).se.ctx x = f ((s.core k).se.ctx x) := by
  rw [State.modSeCtx_eq_putCtx]
  exact ⟨s.putCtx_onlySeCtx k x _ _, s.putCtx_ctx_same k x _ _⟩

/-- SP.SETX goes on and sets one component of one vector. -/
theorem SeCtx.setX_next (c : SeCtx) (w : DWord) :
    { (c.setX w).next with x := c.x, y := c.y } = c.next ∧
    (∀ d, nth (c.setX w).next.x d 0 = if spF w 4 1 = 0 ∧ d = spF w 5 3 ∧ d < c.x.length
      then BitVec.ofInt 32 (sfld w.toNat 8 24) else nth c.x d 0) ∧
    (∀ d, nth (c.setX w).next.y d 0 = if spF w 4 1 ≠ 0 ∧ d = spF w 5 3 ∧ d < c.y.length
      then BitVec.ofInt 32 (sfld w.toNat 8 24) else nth c.y d 0) := by
  by_cases h : spF w 4 1 = 0
  · simp [SeCtx.setX, SeCtx.next, h, nth_set]
  · simp [SeCtx.setX, SeCtx.next, h, nth_set]

/-- The tick that SP.WAITT names: that of the present period of the core's context, counted from its start. -/
def State.waittTarget (s : State) (k : Nat) (w : DWord) : DWord :=
  (match (s.core k).ctx with
    | some n => (s.ctx n.toNat).pStart
    | none => 0) + BitVec.ofNat 64 (spF w 4 32)

/-- SP.WAITT goes on once its tick has come, and else waits for it. -/
theorem State.spWaitt_onlySeCtx (s : State) (k x : Nat) (w : DWord) (hkind : ((s.core k).se.ctx x).waitKind ≠ 6) :
    OnlySeCtx k x s (State.spWaitt k x w s) ∧ ((State.spWaitt k x w s).core k).se.ctx x =
      if (s.waittTarget k w).toNat ≤ s.tick.toNat then ((s.core k).se.ctx x).next
      else { (s.core k).se.ctx x with waitKind := 6, waitTick := s.waittTarget k w } := by
  have heq : State.spWaitt k x w s = if ((s.core k).se.ctx x).waitKind == 6 then s
      else if (s.waittTarget k w).toNat ≤ s.tick.toNat then s.spNext k x
      else s.modSeCtx k x (fun c => { c with waitKind := 6, waitTick := s.waittTarget k w }) := rfl
  rw [heq, if_neg (by simpa using hkind)]
  split
  · exact s.spNext_onlySeCtx k x
  · exact s.modSeCtx_onlySeCtx k x _

/-- The end of an iteration: the increments are added and the body runs again, or after the last iteration all of them are taken
off and the program goes on (R196). -/
theorem SeCtx.endLoop_cons (c : SeCtx) {lp : SLoop} {rest : List SLoop} (hl : c.loops = lp :: rest) :
    let n := (spF lp.word 7 24 + 1 : Nat)
    let xi := BitVec.ofInt 32 (sfld lp.word.toNat 34 12)
    let yi := BitVec.ofInt 32 (sfld lp.word.toNat 49 12)
    c.endLoop.loops = (if 1 < lp.left then { lp with left := lp.left - 1 } :: rest else rest) ∧
    c.endLoop.pc = (if 1 < lp.left then lp.body else c.pc + 1) ∧
    (∀ d, d < c.x.length → nth c.endLoop.x d 0 = if d = spF lp.word 31 3 then
      (if 1 < lp.left then nth c.x d 0 + xi else nth c.x d 0 + xi - BitVec.ofNat 32 n * xi) else nth c.x d 0) ∧
    (∀ d, d < c.y.length → nth c.endLoop.y d 0 = if d = spF lp.word 46 3 then
      (if 1 < lp.left then nth c.y d 0 + yi else nth c.y d 0 + yi - BitVec.ofNat 32 n * yi) else nth c.y d 0) := by
  intro n xi yi
  by_cases h : 1 < lp.left
  · have heq : c.endLoop = { c with
        x := bump c.x (spF lp.word 31 3) (sfld lp.word.toNat 34 12), y := bump c.y (spF lp.word 46 3) (sfld lp.word.toNat 49 12)
        loops := { lp with left := lp.left - 1 } :: rest, pc := lp.body } := by
      simp only [SeCtx.endLoop, hl, gt_iff_lt, if_pos h]
    rw [heq]
    simp only [if_pos h]
    exact ⟨trivial, trivial, fun d hd => nth_bump _ _ _ _ hd, fun d hd => nth_bump _ _ _ _ hd⟩
  · have heq : c.endLoop = { c with
        x := bump (bump c.x (spF lp.word 31 3) (sfld lp.word.toNat 34 12)) (spF lp.word 31 3) (-(n * sfld lp.word.toNat 34 12))
        y := bump (bump c.y (spF lp.word 46 3) (sfld lp.word.toNat 49 12)) (spF lp.word 46 3) (-(n * sfld lp.word.toNat 49 12))
        loops := rest, pc := c.pc + 1 } := by
      simp only [SeCtx.endLoop, hl, gt_iff_lt, if_neg h]
      rfl
    rw [heq]
    simp only [if_neg h]
    refine ⟨trivial, trivial, fun d hd => ?_, fun d hd => ?_⟩
    · rw [nth_bump _ _ _ _ (by rwa [bump_length]), nth_bump _ _ _ _ hd]
      split
      · exact add_ofInt_neg_mul _ _ _
      · rfl
    · rw [nth_bump _ _ _ _ (by rwa [bump_length]), nth_bump _ _ _ _ hd]
      split
      · exact add_ofInt_neg_mul _ _ _
      · rfl

/-! ## The obligation -/

/-- Settles O16: each instruction that its context has reached runs (`State.spRun_at`) and sets that context alone. -/
theorem spControl : Obligations.SpControl := by
  unfold Obligations.SpControl
  refine ⟨?_, ?_⟩
  · intro l c x s k w hk hat cx start
    refine ⟨fun hop => ?_, fun hop => ?_, fun hop hkind => ?_, fun hop hkind htick => ?_⟩
    · exact ⟨_, exec_spNop_at hk hat hop, s.spNext_onlySeCtx k x.toNat⟩
    · obtain ⟨honly, hctx⟩ := s.modSeCtx_spNext_onlySeCtx k x.toNat (SeCtx.setX w)
      refine ⟨_, exec_spSetx_at hk hat hop, honly, ?_⟩
      rw [hctx]
      exact ((s.core k).se.ctx x.toNat).setX_next w
    · exact ⟨_, exec_spWaitt_at hk hat hop, s.spWaitt_onlySeCtx k x.toNat w hkind⟩
    · exact ⟨_, exec_spWaittTickReached_at hk hat hop hkind htick, s.spNext_onlySeCtx k x.toNat⟩
  · intro l c x s k w hk hat cx
    refine ⟨fun hop => ?_, fun hop lp rest hl => ?_⟩
    · exact ⟨_, exec_spLoop_at hk hat hop, s.modSeCtx_spNext_onlySeCtx k x.toNat _⟩
    · obtain ⟨honly, hctx⟩ := s.modSeCtx_onlySeCtx k x.toNat (fun c => { c.endLoop with waitKind := 0 })
      refine ⟨_, exec_spEndl_at hk hat hop, honly, ?_⟩
      rw [hctx]
      exact ((s.core k).se.ctx x.toNat).endLoop_cons hl

end Sys2Proof.Machine
end

section
/-! The stream instructions on handle queues, and the notices of remote queues (07 R205, R208, R211, R214). -/

namespace Sys2Proof.Machine

/-! ## One handle queue -/

section
variable (s : State) (k n : Nat) (f : Hq → Hq)

theorem State.modHq_hq (m : Nat) : (s.modHq k n f).hq k m = if m = n then f (s.hq k n) else s.hq k m := by
  have hcore : (s.modHq k n f).core k = { s.core k with
      se := { (s.core k).se with hqs := sset (fun _ => Hq.init) (s.core k).se.hqs n (f (s.hq k n)) } } := by
    rw [State.modHq, State.modSe_eq, State.core_setCore, if_pos rfl]; rfl
  rw [State.hq, hcore]
  exact sget_sset _ _ n m _

@[simp] theorem State.modHq_hq_same : (s.modHq k n f).hq k n = f (s.hq k n) := by
  rw [State.modHq_hq, if_pos rfl]

theorem State.modSeCtx_hq (x m : Nat) (g : SeCtx → SeCtx) : (s.modSeCtx k x g).hq k m = s.hq k m := by
  rw [State.modSeCtx_eq_putCtx, State.putCtx_hq]

end

/-- The credits that core `k` holds, as a remote producer, for the consumer queue of this key (R211). -/
def State.credits (s : State) (k key : Nat) : Nat := sget (fun _ => 0) (s.core k).se.remotes key

/-- Core `k` gives up one credit. -/
def State.spendCredit (s : State) (k key : Nat) : State :=
  s.modSe k (fun e => { e with remotes := sset (fun _ => 0) e.remotes key (sget (fun _ => 0) e.remotes key - 1) })

theorem State.spendCredit_credits (s : State) (k key : Nat) : (s.spendCredit k key).credits k key = s.credits k key - 1 := by
  rw [State.credits, State.spendCredit, State.modSe_eq, State.core_setCore, if_pos rfl]
  exact (sget_sset _ _ key key _).trans (if_pos rfl)

@[simp] theorem State.spendCredit_hq (s : State) (k key n : Nat) : (s.spendCredit k key).hq k n = s.hq k n := by
  rw [State.hq, State.spendCredit, State.modSe_eq, State.core_setCore, if_pos rfl]; rfl

@[simp] theorem State.spendCredit_ctx (s : State) (k key x : Nat) :
    ((s.spendCredit k key).core k).se.ctx x = (s.core k).se.ctx x := by
  rw [State.spendCredit, State.modSe_eq, State.core_setCore, if_pos rfl]; rfl

@[simp] theorem State.modHq_ctx (s : State) (k n x : Nat) (f : Hq → Hq) :
    ((s.modHq k n f).core k).se.ctx x = (s.core k).se.ctx x := by
  rw [State.modHq, State.modSe_eq, State.core_setCore, if_pos rfl]; rfl

@[simp] theorem State.modHq_credits (s : State) (k n key : Nat) (f : Hq → Hq) : (s.modHq k n f).credits k key = s.credits k key := by
  rw [State.credits, State.modHq, State.modSe_eq, State.core_setCore, if_pos rfl]; rfl

@[simp] theorem State.putCtx_credits (s : State) (k x key : Nat) (c : SeCtx) (ws : List HqWait) :
    (s.putCtx k x c ws).credits k key = s.credits k key := by
  rw [State.credits, State.putCtx_core, if_pos rfl]; rfl

/-! ## What an operation on one queue leaves alone -/

/-- Of the machine only core `k` differs, and in it neither the scratchpad nor the control core, no stream context but `x` and no
queue but `n`. -/
def OnlyQueue (k x n : Nat) (s t : State) : Prop :=
  OnlyCore k s t ∧ (t.core k).sp = (s.core k).sp ∧ (t.core k).cc = (s.core k).cc ∧
    (∀ y, y ≠ x → (t.core k).se.ctx y = (s.core k).se.ctx y) ∧ ∀ m, m ≠ n → t.hq k m = s.hq k m

theorem OnlyQueue.trans {k x n : Nat} {s t u : State} (h1 : OnlyQueue k x n s t) (h2 : OnlyQueue k x n t u) :
    OnlyQueue k x n s u := by
  obtain ⟨hcore, hsp, hcc, hctx, hhq⟩ := h1
  obtain ⟨hcore', hsp', hcc', hctx', hhq'⟩ := h2
  exact ⟨OnlyCore.trans hcore hcore', hsp'.trans hsp, hcc'.trans hcc, fun y hy => (hctx' y hy).trans (hctx y hy),
    fun m hm => (hhq' m hm).trans (hhq m hm)⟩

section
variable (s : State) (k x n : Nat)

theorem OnlyQueue.putCtx (c : SeCtx) (ws : List HqWait) : OnlyQueue k x n s (s.putCtx k x c ws) := by
  refine ⟨OnlyCore.setCore s k _, ?_, ?_, fun y hy => s.putCtx_ctx_other k x c ws hy, fun m _ => s.putCtx_hq k x c ws m⟩
  · rw [State.putCtx_core, if_pos rfl]
  · rw [State.putCtx_core, if_pos rfl]

theorem OnlyQueue.modHq (f : Hq → Hq) : OnlyQueue k x n s (s.modHq k n f) := by
  refine ⟨OnlyCore.setCore s k _, ?_, ?_, fun y _ => s.modHq_ctx k n y f, fun m hm => by rw [State.modHq_hq, if_neg hm]⟩
  · rw [State.modHq, State.modSe_eq, State.core_setCore, if_pos rfl]
  · rw [State.modHq, State.modSe_eq, State.core_setCore, if_pos rfl]

theorem OnlyQueue.spendCredit (key : Nat) : OnlyQueue k x n s (s.spendCredit k key) := by
  refine ⟨OnlyCore.setCore s k _, ?_, ?_, fun y _ => s.spendCredit_ctx k key y, fun m _ => s.spendCredit_hq k key m⟩
  · rw [State.spendCredit, State.modSe_eq, State.core_setCore, if_pos rfl]
  · rw [State.spendCredit, State.modSe_eq, State.core_setCore, if_pos rfl]

end

/-- The context changes by `f` and goes on. -/
def State.goOn (s : State) (k x : Nat) (f : SeCtx → SeCtx) : State := (s.modSeCtx k x f).spNext k x

section
variable (s : State) (k x : Nat) (f : SeCtx → SeCtx)

theorem State.goOn_eq : s.goOn k x f =
    s.putCtx k x (f ((s.core k).se.ctx x)).next ((s.core k).se.waitsBut (x + 1)) := s.modSeCtx_spNext k x f

theorem State.goOn_hq (n : Nat) : (s.goOn k x f).hq k n = s.hq k n := by
  rw [State.goOn_eq, State.putCtx_hq]

theorem State.goOn_ctx : ((s.goOn k x f).core k).se.ctx x = (f ((s.core k).se.ctx x)).next := by
  rw [State.goOn_eq, State.putCtx_ctx_same]

theorem State.goOn_credits (key : Nat) : (s.goOn k x f).credits k key = s.credits k key := by
  rw [State.goOn_eq, State.putCtx_credits]

theorem OnlyQueue.goOn (n : Nat) : OnlyQueue k x n s (s.goOn k x f) := by
  rw [State.goOn_eq]
  exact OnlyQueue.putCtx s k x n _ _

end

/-! ## A context that waits (R214, R227) -/

/-- The context as it begins to wait. -/
def SeCtx.wait (c : SeCtx) (kind q site core : Nat) : SeCtx :=
  { c with
    waitKind := BitVec.ofNat 3 kind, waitHq := BitVec.ofNat 5 q, waitSite := BitVec.ofNat 6 site, waitCore := BitVec.ofNat 5 core }

/-- The wait of stream context `x` on a queue. -/
def State.ctxWait (s : State) (x q site core : Nat) (acq : Bool) : HqWait :=
  { endpoint := BitVec.ofNat 8 (x + 1), hq := BitVec.ofNat 5 q, acq := acq, rsite := BitVec.ofNat 6 site,
    rcore := BitVec.ofNat 5 core, since := s.tick, stalled := false }

theorem State.spWait_eq (s : State) (k x kind q site core : Nat) (acq : Bool) : ∃ ws, s.spWait k x kind q site core acq =
      s.putCtx k x (((s.core k).se.ctx x).wait kind q site core) ws ∧
    ((s.core k).se.waits = [] → ws = [s.ctxWait x q site core acq]) := by
  have hput (e : Se → List HqWait) : ((s.putCtx k x (((s.core k).se.ctx x).wait kind q site core) (s.core k).se.waits).modSe k
      (fun v => { v with waits := e v })) = s.putCtx k x (((s.core k).se.ctx x).wait kind q site core)
        (e ((s.putCtx k x (((s.core k).se.ctx x).wait kind q site core) (s.core k).se.waits).core k).se) := by
    have hcore := State.putCtx_core s k x (((s.core k).se.ctx x).wait kind q site core) (s.core k).se.waits k
    rw [if_pos rfl] at hcore
    rw [State.modSe_eq, hcore]
    simp only [State.putCtx, State.setCore_setCore]
  have hwait : s.spWait k x kind q site core acq = (s.putCtx k x (((s.core k).se.ctx x).wait kind q site core)
      (s.core k).se.waits).beginWait k (s.ctxWait x q site core acq) := rfl
  have hbegin (t : State) (w : HqWait) : t.beginWait k w = t.modSe k (fun e => { e with
      waits := if e.waits.any (fun v => v.same w)
        then e.waits.map (fun v => if v.same w then { v with rsite := w.rsite, rcore := w.rcore } else v)
        else e.waits.filter (fun v => v.endpoint != w.endpoint) ++ [w] }) := by
    simp only [State.beginWait, State.modSe_eq]
    split
    · rfl
    · rfl
  rw [hwait, hbegin, hput]
  refine ⟨_, rfl, fun hnone => ?_⟩
  simp [hnone]

/-! ## SP.ACQ (R205, R208, R211) -/

section
variable {s : State} {l : SiteNo} {c : CoreNo} {x : BitVec 3} {k : Nat} {w : DWord}

theorem spF_lt (w : DWord) (lo len : Nat) : spF w lo len < 2 ^ len := fld_lt w.toNat lo len

/-- The key of the credit counter that core `k` keeps for queue `n` of its own. -/
def State.ownKey (s : State) (k n : Nat) : Nat := remoteKey (s.whoIs k).1 (s.whoIs k).2 n

/-- An acquire of queue `n` of the core itself finds a free buffer: by the queue's counters, or by a credit where the producer is
remote. -/
def State.mayAcquire (s : State) (k n : Nat) : Prop :=
  if s.hqRemote k n then 0 < s.credits k (s.ownKey k n) else (s.hq k n).used < (s.hq k n).count

/-- The acquire of queue `n` of the core itself, before the context goes on. -/
def State.acquireOwn (s : State) (k n : Nat) : State :=
  if s.hqRemote k n then (s.modHq k n Hq.acquire).spendCredit k (s.ownKey k n) else s.modHq k n Hq.acquire

theorem State.acquireOwn_onlyQueue (s : State) (k n x : Nat) : OnlyQueue k x n s (s.acquireOwn k n) := by
  rw [State.acquireOwn]
  split
  · exact (OnlyQueue.modHq s k x n _).trans (OnlyQueue.spendCredit _ k x n _)
  · exact OnlyQueue.modHq s k x n _

theorem State.acquireOwn_hq (s : State) (k n : Nat) : (s.acquireOwn k n).hq k n = (s.hq k n).acquire := by
  rw [State.acquireOwn]
  split
  · rw [State.spendCredit_hq, State.modHq_hq_same]
  · rw [State.modHq_hq_same]

theorem State.acquireOwn_ctx (s : State) (k n x : Nat) :
    ((s.acquireOwn k n).core k).se.ctx x = (s.core k).se.ctx x := by
  rw [State.acquireOwn]
  split
  · rw [State.spendCredit_ctx, State.modHq_ctx]
  · rw [State.modHq_ctx]

theorem State.acquireOwn_credits (s : State) (k n : Nat) : (s.acquireOwn k n).credits k (s.ownKey k n) =
    s.credits k (s.ownKey k n) - (if s.hqRemote k n then 1 else 0) := by
  rw [State.acquireOwn]
  split
  · rw [State.spendCredit_credits, State.modHq_credits]
  · rw [State.modHq_credits]; rfl

/-- The buffer that an acquire of queue `n` of the core itself gives its context. -/
def State.acquired (s : State) (k n : Nat) : HeldBuf := { hq := BitVec.ofNat 5 n, handle := (s.hq k n).pAcq, mc := false }

theorem State.modHq_hqRemote_acquire (s : State) (k n : Nat) : (s.modHq k n Hq.acquire).hqRemote k n = s.hqRemote k n := by
  rw [State.hqRemote, State.modHq_hq_same]; rfl

theorem State.spMembers_own (s : State) (k x : Nat) : s.spMembers k x false = [((s.whoIs k).1, (s.whoIs k).2, k)] := rfl

theorem State.memberFree_own (s : State) (k n : Nat) :
    s.memberFree k n ((s.whoIs k).1, (s.whoIs k).2, k) = true ↔ s.mayAcquire k n := by
  rw [State.memberFree, State.mayAcquire]
  split
  · exact decide_eq_true_iff
  · exact decide_eq_true_iff

theorem State.memberAcquire_own (s : State) (k n : Nat) :
    s.memberAcquire k n ((s.whoIs k).1, (s.whoIs k).2, k) = s.acquireOwn k n := by
  simp only [State.memberAcquire, State.modHq_hqRemote_acquire]
  rfl

/-- SP.ACQ on a queue of the core itself, by its configured producer. -/
theorem State.spAcq_own (s : State) (k x : Nat) (w : DWord) (hmc : spF w 9 1 = 0) (hp : s.mayProduce k x k (spF w 4 5) = true) :
    (s.mayAcquire k (spF w 4 5) → State.spAcq k x w s =
      (s.acquireOwn k (spF w 4 5)).goOn k x (fun c => { c with acqHeld := c.acqHeld ++ [s.acquired k (spF w 4 5)] })) ∧
    (¬s.mayAcquire k (spF w 4 5) → State.spAcq k x w s =
      s.spWait k x (if s.hqRemote k (spF w 4 5) then 3 else 2) (spF w 4 5) (s.whoIs k).1 (s.whoIs k).2 true) := by
  have hmc' : (spF w 9 1 == 1) = false := by rw [hmc]; rfl
  refine ⟨fun hfree => ?_, fun hfull => ?_⟩
  · have hfree' := (s.memberFree_own k (spF w 4 5)).mpr hfree
    simp [State.spAcq, hmc', State.spMembers_own, hp, hfree', State.memberAcquire_own, State.acquired, State.goOn]
  · have hfull' : s.memberFree k (spF w 4 5) ((s.whoIs k).1, (s.whoIs k).2, k) = false :=
      Bool.eq_false_iff.mpr (fun h => hfull ((s.memberFree_own k (spF w 4 5)).mp h))
    simp [State.spAcq, hmc', State.spMembers_own, hp, hfull', State.acqWait]

end

/-! ## SP.PUSH (R205, R208, R211) -/

/-- The notice by which the remote producer `m` pushes on queue `n` of its own core. -/
def pushNotice (m : Nat × Nat) (n : Nat) : Notice :=
  { push := true, site := BitVec.ofNat 6 m.1, core := BitVec.ofNat 5 m.2, hq := BitVec.ofNat 5 n, credits := 0, start := false }

section
variable (s : State) (k x : Nat) (w : DWord)

/-- SP.PUSH on a queue of the core itself, by its configured producer, with an acquired handle and no transfer under way. -/
theorem State.spPush_own (hmc : spF w 9 1 = 0) (hp : s.mayProduce k x k (spF w 4 5) = true)
    (hheld : s.memberHeld (spF w 4 5) ((s.whoIs k).1, (s.whoIs k).2, k) = true) (hfly : ((s.core k).se.ctx x).inflight = []) :
    State.spPush k x w s = (s.memberPush (spF w 4 5) ((s.whoIs k).1, (s.whoIs k).2, k)).goOn k x
      (fun c => { c with acqHeld := dropHeld (spF w 4 5) c.acqHeld }) := by
  have hmc' : (spF w 9 1 == 1) = false := by rw [hmc]; rfl
  simp [State.spPush, hmc', State.spMembers_own, hp, hheld, hfly, State.goOn]

theorem State.memberPush_local {n : Nat} {m : Nat × Nat × Nat} (hr : s.hqRemote m.2.2 n = false) :
    s.memberPush n m = s.modHq m.2.2 n (fun h => h.push s.tick) := by
  simp only [State.memberPush, hr, Bool.false_eq_true, if_false]

theorem State.memberPush_remote {n : Nat} {m : Nat × Nat × Nat} (hr : s.hqRemote m.2.2 n = true) :
    s.memberPush n m = { s with notices := s.notices ++ [pushNotice (m.1, m.2.1) n] } := by
  simp only [State.memberPush, hr, if_true]
  rfl

/-- An acquired handle that no push on its way makes ready is one that the queue counts as acquired. -/
theorem State.memberHeld_heldP {n : Nat} {m : Nat × Nat × Nat} (h : s.memberHeld n m = true) : (s.hq m.2.2 n).heldP ≠ 0 :=
  Nat.ne_of_gt (Nat.lt_of_le_of_lt (Nat.zero_le _) (of_decide_eq_true h))

end

/-- A push of an acquired handle makes it ready, with its stamp. -/
theorem Hq.push_held {h : Hq} (hh : h.heldP ≠ 0) (tick : DWord) : h.push tick =
    { h with pushes := h.pushes + 1, pPush := nextPos h.count h.pPush, stamps := h.stamps ++ [tick] } := by
  simp only [Hq.push, beq_eq_false_iff_ne.mpr hh, Bool.false_eq_true, if_false]

/-- A release of a popped handle frees it. -/
theorem Hq.release_held {h : Hq} (hh : h.heldC ≠ 0) :
    h.release = { h with releases := h.releases + 1, pRel := nextPos h.count h.pRel } := by
  simp only [Hq.release, beq_eq_false_iff_ne.mpr hh, Bool.false_eq_true, if_false]

/-! ## SP.REL (R208, R211) -/

/-- The notice by which queue `n` of core `k` gives its remote producer one credit. -/
def State.creditNotice (s : State) (k n : Nat) : Notice :=
  { push := false, site := BitVec.ofNat 6 (s.whoIs k).1, core := BitVec.ofNat 5 (s.whoIs k).2, hq := BitVec.ofNat 5 n, credits := 1,
    start := false }

section
variable (s : State) (k x : Nat) (w : DWord)

/-- SP.REL by the configured consumer, with a popped handle and no transfer under way. -/
theorem State.spRel_held (hc : s.mayConsume k x (spF w 4 5) = true) (hfly : ((s.core k).se.ctx x).inflight = [])
    (hheld : (s.hq k (spF w 4 5)).heldC ≠ 0) : State.spRel k x w s =
      ((s.modSeCtx k x (fun c => { c with popHeld := dropHeld (spF w 4 5) c.popHeld })).hqRelease k (spF w 4 5)).spNext k x := by
  simp [State.spRel, hc, hheld, hfly]

variable {n : Nat}

theorem State.hqRelease_local (hheld : (s.hq k n).heldC ≠ 0) (hl : ∀ g, (s.hq k n).cfg = some g → g.remote = false) :
    s.hqRelease k n = s.modHq k n Hq.release := by
  simp only [State.hqRelease, beq_eq_false_iff_ne.mpr hheld, Bool.false_eq_true, if_false]
  split
  next g hg => rw [hl g hg]; rfl
  · rfl

theorem State.hqRelease_remote (hheld : (s.hq k n).heldC ≠ 0) {g : HqCfg} (hg : (s.hq k n).cfg = some g) (hr : g.remote = true) :
    s.hqRelease k n = { s.modHq k n Hq.release with notices := s.notices ++ [s.creditNotice k n] } := by
  simp only [State.hqRelease, beq_eq_false_iff_ne.mpr hheld, Bool.false_eq_true, if_false, hg, hr, if_true]
  rfl

end

/-! ## SP.POP (R208, R214) -/

section
variable (s : State) (k x : Nat) (w : DWord) {n : Nat}

theorem State.hqPop_unpaced {g : HqCfg} (hg : (s.hq k n).cfg = some g) (hp : g.paced = false) :
    s.hqPop k n = ((s.hq k n).pPop, s.modHq k n Hq.pop) := by
  simp only [State.hqPop]
  split
  next g' _ hg' _ =>
    obtain rfl : g = g' := Option.some.inj (hg.symm.trans hg')
    simp only [hp, Bool.false_eq_true, if_false]
  · rfl

/-- The buffer that a pop of queue `n` gives its context. -/
def State.popped (s : State) (k n : Nat) : HeldBuf := { hq := BitVec.ofNat 5 n, handle := (s.hq k n).pPop, mc := false }

/-- SP.POP by the configured consumer of a queue that is not paced. -/
theorem State.spPop_own {g : HqCfg} (hc : s.mayConsume k x (spF w 4 5) = true) (hg : (s.hq k (spF w 4 5)).cfg = some g)
    (hp : g.paced = false) :
    ((s.hq k (spF w 4 5)).ready ≠ 0 → State.spPop k x w s = (s.modHq k (spF w 4 5) Hq.pop).goOn k x
      (fun c => { c with popHeld := c.popHeld ++ [s.popped k (spF w 4 5)] })) ∧
    ((s.hq k (spF w 4 5)).ready = 0 → State.spPop k x w s =
      s.spWait k x 1 (spF w 4 5) (s.whoIs k).1 (s.whoIs k).2 false) := by
  refine ⟨fun hready => ?_, fun hnone => ?_⟩
  · simp [State.spPop, hc, Hq.canPop, Nat.pos_of_ne_zero hready, s.hqPop_unpaced k hg hp, State.goOn, State.popped]
  · simp [State.spPop, hc, Hq.canPop, hnone]

end

/-! ## Notices (R211) -/

theorem takeNotice_head {push : Bool} {l : SiteNo} {c : CoreNo} {n : BitVec 5} {m : Notice} {rest : List Notice}
    (hpush : m.push = push) (hsite : m.site = l) (hcore : m.core = c) (hhq : m.hq = n) :
    takeNotice push l c n (m :: rest) = some (m, rest) := by
  simp [takeNotice, hpush, hsite, hcore, hhq]

/-- The credits of a release notice reach core `k` as a remote producer; a start notice sets the counter. -/
def State.takeCredits (s : State) (k key : Nat) (m : Notice) : State :=
  s.modSe k (fun e => { e with
    remotes := sset (fun _ => 0) e.remotes key ((if m.start then 0 else sget (fun _ => 0) e.remotes key) + m.credits) })

theorem State.takeCredits_credits (s : State) (k key j : Nat) (m : Notice) : (s.takeCredits k key m).credits k j =
    if j = key then (if m.start then 0 else s.credits k j) + m.credits else s.credits k j := by
  rw [State.credits, State.takeCredits, State.modSe_eq, State.core_setCore, if_pos rfl]
  refine (sget_sset _ _ key j _).trans ?_
  split
  next h => rw [h]; rfl
  · rfl

section
variable {s : State} {l : SiteNo} {c : CoreNo} {n : BitVec 5} {k pk : Nat} {m : Notice} {rest : List Notice}
  (hk : s.key l c = some k) (hn : s.notices = m :: rest) (hsite : m.site = l) (hcore : m.core = c) (hhq : m.hq = n)
include hk hn hsite hcore hhq

theorem exec_releaseNotice_head (hpush : m.push = false) {g : HqCfg} (hg : (s.hq k n.toNat).cfg = some g)
    (hpk : s.key g.rsite g.rcore = some pk) : exec (.releaseNotice l c n) s =
      .next (({ s with notices := rest } : State).takeCredits pk (remoteKey l.toNat c.toNat n.toNat) m) := by
  have hk' : ({ s with notices := rest } : State).key l c = some k := hk
  have hg' : (({ s with notices := rest } : State).hq k n.toNat).cfg = some g := hg
  have hpk' : ({ s with notices := rest } : State).key g.rsite g.rcore = some pk := hpk
  show execReleaseNotice l c n s = _
  simp only [execReleaseNotice, hn, takeNotice_head hpush hsite hcore hhq, hk', Option.bind_some, hg', hpk']
  rfl

theorem exec_remotePush_head (hpush : m.push = true) : exec (.remotePush l c n) s =
    .next (({ s with notices := rest } : State).modHq k n.toNat (fun h => h.push s.tick)) := by
  have hk' : ({ s with notices := rest } : State).key l c = some k := hk
  show execRemotePush l c n s = _
  simp only [execRemotePush, hn, takeNotice_head hpush hsite hcore hhq, hk']

end

/-! ## The obligation -/

section
variable {s : State} {l : SiteNo} {c : CoreNo} {x : BitVec 3} {k : Nat} {w : DWord}
  (hk : s.key l c = some k) (hat : AtInstr s k x.toNat w)
include hk hat

theorem exec_spAcq_at (hop : spOp w = 0x4) : exec (.spAcq l c x) s = .next (State.spAcq k x.toNat w s) :=
  congrArg Host.Outcome.next (State.spRun_at hk hat hop)

theorem exec_spPush_at (hop : spOp w = 0x5) : exec (.spPush l c x) s = .next (State.spPush k x.toNat w s) :=
  congrArg Host.Outcome.next (State.spRun_at hk hat hop)

theorem exec_spPop_at (hop : spOp w = 0x6) : exec (.spPop l c x) s = .next (State.spPop k x.toNat w s) :=
  congrArg Host.Outcome.next (State.spRun_at hk hat hop)

theorem exec_spRel_at (hop : spOp w = 0x7) : exec (.spRel l c x) s = .next (State.spRel k x.toNat w s) :=
  congrArg Host.Outcome.next (State.spRun_at hk hat hop)

end

section
variable (s : State) (k x n : Nat)

/-- What an acquire that finds a buffer leaves (R205, R208, R211). -/
theorem State.acquireOwn_goOn (f : SeCtx → SeCtx) (hf : ∀ c, (f c).pc = c.pc) :
    let t := (s.acquireOwn k n).goOn k x f
    OnlyQueue k x n s t ∧ t.hq k n = (s.hq k n).acquire ∧ ((t.core k).se.ctx x).pc = ((s.core k).se.ctx x).pc + 1 ∧
      t.credits k (s.ownKey k n) = s.credits k (s.ownKey k n) - (if s.hqRemote k n then 1 else 0) ∧
      (t.core k).se.ctx x = (f ((s.core k).se.ctx x)).next := by
  intro t
  have hctx : (t.core k).se.ctx x = (f ((s.core k).se.ctx x)).next := by
    rw [State.goOn_ctx, State.acquireOwn_ctx]
  refine ⟨(s.acquireOwn_onlyQueue k n x).trans (OnlyQueue.goOn _ k x f n), ?_, ?_, ?_, hctx⟩
  · rw [State.goOn_hq, State.acquireOwn_hq]
  · rw [hctx]; exact congrArg (· + 1) (hf _)
  · rw [State.goOn_credits, State.acquireOwn_credits]

/-- What a change of queue `n`, after which the context goes on, leaves. -/
theorem State.modHq_goOn (g : Hq → Hq) (f : SeCtx → SeCtx) (hf : ∀ c, (f c).pc = c.pc) :
    let t := (s.modHq k n g).goOn k x f
    OnlyQueue k x n s t ∧ t.hq k n = g (s.hq k n) ∧ ((t.core k).se.ctx x).pc = ((s.core k).se.ctx x).pc + 1 ∧
      (t.core k).se.ctx x = (f ((s.core k).se.ctx x)).next := by
  intro t
  have hctx : (t.core k).se.ctx x = (f ((s.core k).se.ctx x)).next := by
    rw [State.goOn_ctx, State.modHq_ctx]
  refine ⟨(OnlyQueue.modHq s k x n g).trans (OnlyQueue.goOn _ k x f n), ?_, ?_, hctx⟩
  · rw [State.goOn_hq, State.modHq_hq_same]
  · rw [hctx]; exact congrArg (· + 1) (hf _)

/-- What a context that begins to wait leaves (R214, R227). -/
theorem State.spWait_leaves (kind q site core : Nat) (acq : Bool) :
    let t := s.spWait k x kind q site core acq
    OnlyQueue k x n s t ∧ (∀ m, t.hq k m = s.hq k m) ∧ ((t.core k).se.ctx x).pc = ((s.core k).se.ctx x).pc ∧
      (∀ key, t.credits k key = s.credits k key) ∧ ((t.core k).se.ctx x).waitKind = BitVec.ofNat 3 kind ∧
      ((s.core k).se.waits = [] → (t.core k).se.waits = [s.ctxWait x q site core acq]) := by
  intro t
  obtain ⟨ws, ht, hws⟩ := s.spWait_eq k x kind q site core acq
  simp only [t, ht]
  refine ⟨OnlyQueue.putCtx s k x n _ _, s.putCtx_hq k x _ _, ?_, fun key => s.putCtx_credits k x key _ _, ?_, fun hnone => ?_⟩
  · rw [State.putCtx_ctx_same]; rfl
  · rw [State.putCtx_ctx_same]; rfl
  · rw [State.putCtx_waits, hws hnone]

/-- What a release, after which the context goes on, leaves: here, or with a notice to a remote producer. -/
theorem State.hqRelease_goOn (f : SeCtx → SeCtx) (hf : ∀ c, (f c).pc = c.pc) (hheld : (s.hq k n).heldC ≠ 0) :
    let t := ((s.modSeCtx k x f).hqRelease k n).spNext k x
    ((∀ g, (s.hq k n).cfg = some g → g.remote = false) → OnlyQueue k x n s t ∧ t.hq k n = (s.hq k n).release ∧
      ((t.core k).se.ctx x).pc = ((s.core k).se.ctx x).pc + 1) ∧
    ((∃ g, (s.hq k n).cfg = some g ∧ g.remote = true) → t.hq k n = (s.hq k n).release ∧
      t.notices = s.notices ++ [s.creditNotice k n]) := by
  intro t
  have hhq := s.modSeCtx_hq k x n f
  have hheld' : ((s.modSeCtx k x f).hq k n).heldC ≠ 0 := by rwa [hhq]
  refine ⟨fun hlocal => ?_, fun ⟨g, hg, hr⟩ => ?_⟩
  · have ht : t = ((s.modSeCtx k x f).modHq k n Hq.release).spNext k x :=
      congrArg (fun u : State => u.spNext k x) (State.hqRelease_local _ k hheld' (by rwa [hhq]))
    have hstep : OnlyQueue k x n s ((s.modSeCtx k x f).modHq k n Hq.release) :=
      (OnlyQueue.putCtx s k x n _ _).trans (OnlyQueue.modHq _ k x n _)
    rw [ht, State.spNext_eq]
    refine ⟨hstep.trans (OnlyQueue.putCtx _ k x n _ _), ?_, ?_⟩
    · rw [State.putCtx_hq, State.modHq_hq_same, hhq]
    · rw [State.putCtx_ctx_same, State.modHq_ctx, State.modSeCtx_eq_putCtx, State.putCtx_ctx_same]
      exact congrArg (· + 1) (hf _)
  · have ht : t = ({ (s.modSeCtx k x f).modHq k n Hq.release with
        notices := s.notices ++ [s.creditNotice k n] } : State).spNext k x :=
      congrArg (fun u : State => u.spNext k x) (State.hqRelease_remote _ k hheld' (by rwa [hhq]) hr)
    refine ⟨?_, by rw [ht]; rfl⟩
    rw [ht, State.spNext_eq, State.putCtx_hq]
    exact (State.modHq_hq_same _ k n _).trans (congrArg _ hhq)

end

/-- Settles O17: each operation on a queue is one change of that queue (`State.modHq_goOn`, `State.acquireOwn_goOn`,
`State.hqRelease_goOn`) or a wait (`State.spWait_leaves`), and a notice changes one counter or one queue. -/
theorem spQueues : Obligations.SpQueues := by
  unfold Obligations.SpQueues
  refine ⟨?_, ?_, ?_⟩
  · intro l c x s k w hk hat cx n me credits kept
    have hn : n < 2 ^ 5 := spF_lt w 4 5
    refine ⟨fun hop hmc hp => ?_, fun hop hmc hp hheld hfly => ⟨fun hr => ?_, fun hr => ?_⟩, fun hop hc hfly hheld hl => ?_,
      fun hop hc hfly hheld hr => ?_⟩
    · obtain ⟨hget, hwait⟩ := s.spAcq_own k x.toNat w hmc hp
      by_cases hfree : s.mayAcquire k n
      · obtain ⟨honly, hhq, hpc, hcred, hctx⟩ := s.acquireOwn_goOn k x.toNat n
          (fun c => { c with acqHeld := c.acqHeld ++ [s.acquired k n] }) (fun _ => rfl)
        refine ⟨_, (exec_spAcq_at hk hat hop).trans (congrArg _ (hget hfree)), honly, fun _ => ?_, fun h => absurd hfree h⟩
        refine ⟨(congrArg Hq.acquires hhq).trans rfl, (congrArg Hq.pushes hhq).trans rfl, (congrArg Hq.releases hhq).trans rfl,
          hpc, hcred, ?_⟩
        exact congrArg SeCtx.acqHeld hctx
      · obtain ⟨honly, hhq, hpc, hcred, hkind, _⟩ := s.spWait_leaves k x.toNat n (if s.hqRemote k n then 3 else 2) n
          (s.whoIs k).1 (s.whoIs k).2 true
        refine ⟨_, (exec_spAcq_at hk hat hop).trans (congrArg _ (hwait hfree)), honly, fun h => absurd h hfree, fun _ => ?_⟩
        refine ⟨hhq n, hpc, hcred _, hkind.trans ?_⟩
        split
        · rfl
        · rfl
    · obtain ⟨honly, hhq, hpc, _⟩ := s.modHq_goOn k x.toNat n (fun h => h.push s.tick)
        (fun c => { c with acqHeld := dropHeld n c.acqHeld }) (fun _ => rfl)
      rw [Hq.push_held (State.memberHeld_heldP s hheld)] at hhq
      exact ⟨_, (exec_spPush_at hk hat hop).trans (congrArg _ ((s.spPush_own k x.toNat w hmc hp hheld hfly).trans
          (congrArg (fun u : State => u.goOn k x.toNat _) (s.memberPush_local hr)))), honly,
        (congrArg Hq.pushes hhq).trans rfl, (congrArg Hq.stamps hhq).trans rfl, (congrArg Hq.acquires hhq).trans rfl, hpc⟩
    · refine ⟨_, (exec_spPush_at hk hat hop).trans (congrArg _ ((s.spPush_own k x.toNat w hmc hp hheld hfly).trans
          (congrArg (fun u : State => u.goOn k x.toNat _) (s.memberPush_remote hr)))), ?_, ?_,
        pushNotice ((s.whoIs k).1, (s.whoIs k).2) n, ?_, rfl, Nat.mod_eq_of_lt hn, rfl⟩
      · rw [State.goOn_hq]; rfl
      · rw [State.goOn_ctx]; rfl
      · rw [State.goOn_eq]; rfl
    · obtain ⟨honly, hhq, hpc⟩ := (s.hqRelease_goOn k x.toNat n (fun c => { c with popHeld := dropHeld n c.popHeld })
        (fun _ => rfl) hheld).1 hl
      rw [Hq.release_held hheld] at hhq
      exact ⟨_, (exec_spRel_at hk hat hop).trans (congrArg _ (s.spRel_held k x.toNat w hc hfly hheld)), honly,
        (congrArg Hq.releases hhq).trans rfl, (congrArg Hq.pops hhq).trans rfl, hpc⟩
    · obtain ⟨hhq, hnotices⟩ := (s.hqRelease_goOn k x.toNat n (fun c => { c with popHeld := dropHeld n c.popHeld })
        (fun _ => rfl) hheld).2 hr
      rw [Hq.release_held hheld] at hhq
      exact ⟨_, (exec_spRel_at hk hat hop).trans (congrArg _ (s.spRel_held k x.toNat w hc hfly hheld)),
        (congrArg Hq.releases hhq).trans rfl, _, hnotices, rfl, rfl, Nat.mod_eq_of_lt hn, rfl⟩
  · intro l c x s k w g hk hat hop hc hg hp hnone cx n
    have hn : n < 2 ^ 5 := spF_lt w 4 5
    obtain ⟨hget, hwait⟩ := s.spPop_own k x.toNat w hc hg hp
    by_cases hready : (s.hq k n).ready = 0
    · obtain ⟨⟨honly, hsp, hcc, hctx, hhq⟩, hsame, hpc, _, hkind, hws⟩ :=
        s.spWait_leaves k x.toNat n 1 n (s.whoIs k).1 (s.whoIs k).2 false
      refine ⟨_, (exec_spPop_at hk hat hop).trans (congrArg _ (hwait hready)), honly, hsp, hctx, hhq,
        fun h => absurd hready h, fun _ => ⟨hsame n, hpc, hkind, _, hws hnone, ?_, Nat.mod_eq_of_lt hn, rfl, rfl⟩⟩
      have hx := x.isLt
      exact Nat.mod_eq_of_lt (by omega)
    · obtain ⟨⟨honly, hsp, hcc, hctx, hhq⟩, hpop, hpc, hnew⟩ := s.modHq_goOn k x.toNat n Hq.pop
        (fun c => { c with popHeld := c.popHeld ++ [s.popped k n] }) (fun _ => rfl)
      exact ⟨_, (exec_spPop_at hk hat hop).trans (congrArg _ (hget hready)), honly, hsp, hctx, hhq,
        fun _ => ⟨(congrArg Hq.pops hpop).trans rfl, (congrArg Hq.stamps hpop).trans rfl, (congrArg Hq.pushes hpop).trans rfl,
          hpc, congrArg SeCtx.popHeld hnew⟩,
        fun h => absurd h hready⟩
  · intro l c n s k rest hk
    refine ⟨fun m g pk hnot hpush hsite hcore hhq hg hpk => ?_, fun m hnot hpush hsite hcore hhq hheld => ?_⟩
    · refine ⟨_, exec_releaseNotice_head hk hnot hsite hcore hhq hpush hg hpk, rfl, OnlyCore.setCore _ pk _, ?_⟩
      have hcore : (({ s with notices := rest } : State).takeCredits pk (remoteKey l.toNat c.toNat n.toNat) m).core pk = _ :=
        (State.core_setCore _ pk pk _).trans (if_pos rfl)
      refine ⟨?_, ?_, fun key => State.takeCredits_credits _ pk _ key m⟩
      · rw [hcore]; rfl
      · rw [hcore]; rfl
    · have hpushed := State.modHq_hq { s with notices := rest } k n.toNat (fun h => h.push s.tick)
      have hnew := (hpushed n.toNat).trans (if_pos rfl)
      rw [Hq.push_held (show (({ s with notices := rest } : State).hq k n.toNat).heldP ≠ 0 from hheld)] at hnew
      refine ⟨_, exec_remotePush_head hk hnot hsite hcore hhq hpush, rfl, OnlyCore.modCore _ k _, (congrArg Hq.pushes hnew).trans rfl,
        (congrArg Hq.stamps hnew).trans rfl, fun j hj => (hpushed j).trans (if_neg hj), ?_⟩
      exact (OnlyQueue.modHq { s with notices := rest } k 0 n.toNat _).2.1

end Sys2Proof.Machine
end

section
/-! How a move is handed to a stream context and issued into slots, and how a context ends (07 R193, R201, R227). -/

namespace Sys2Proof.Machine

/-! ## What an access meets leaves the cores alone -/

theorem State.raiseBed_cores (s : State) (p b off : Nat) : (s.raiseBed p b off).cores = s.cores := by
  rw [State.raiseBed, State.raise_cores _ (.bed p) b rfl]
  split
  · rfl
  · rfl

theorem State.raiseMc_cores (s : State) (x b chan a : Nat) : (s.raiseMc x b chan a).cores = s.cores := by
  rw [State.raiseMc, State.raise_cores _ (.mc x) b rfl]
  split
  · exact s.setXd_cores x _
  · rfl

theorem State.modSec_cores (s : State) (f : Sec → Sec) : (s.modSec f).cores = s.cores := rfl

theorem State.raiseSec_cores (s : State) (b a cls : Nat) : (s.raiseSec b a cls).cores = s.cores := by
  rw [State.raiseSec, State.raise_cores _ .sec b rfl]
  split
  · exact s.modSec_cores _
  · rfl

theorem State.mapFault_cores (s : State) (a : Nat) : (s.mapFault a).cores = s.cores := by
  rw [State.mapFault]
  split
  · rfl
  · rfl

theorem State.meetAll_cores (s : State) (evs : List MemEv) : (s.meetAll evs).cores = s.cores := by
  induction evs generalizing s with
  | nil => rfl
  | cons e r ih =>
    unfold State.meetAll
    rw [ih]
    cases e with
    | sbClosed p o => exact s.raiseBed_cores p 4 o
    | bedHole p o => exact s.raiseBed_cores p 3 o
    | keyFault a => exact s.raiseMc_cores (gddrXd a) 4 (gddrChan a) a
    | unmapped a => exact s.mapFault_cores a
    | fwClosed => exact s.raise_cores .orr 11 rfl
    | sealedOut a cls => exact s.raiseSec_cores 0 a cls
    | _ => rfl

theorem State.meet_core (s : State) (evs : List MemEv) (j : Nat) : (s.meet evs).core j = s.core j := by
  rw [State.core, State.meet, State.meetAll_cores]; rfl

/-! ## Issue into slots (R201) -/

/-- The context once up to `n` of its waiting transfers are issued. -/
def SeCtx.issue (c : SeCtx) (n : Nat) : SeCtx :=
  if (c.toIssue.drop n).isEmpty then
    { c with
      inflight := c.inflight ++ c.toIssue.take n, toIssue := c.toIssue.drop n
      waitKind := 0, pc := if c.prog.isSome then c.pc + 1 else c.pc }
  else { c with inflight := c.inflight ++ c.toIssue.take n, toIssue := c.toIssue.drop n, waitKind := 5 }

theorem Se.issue_eq (e : Se) (total x : Nat) : e.issue total x = if (e.ctx x).toIssue.isEmpty then e
    else { e with ctxs := sset (fun _ => SeCtx.init) e.ctxs x ((e.ctx x).issue (e.slotsFor total x)) } := rfl

section
variable (c : SeCtx) (n : Nat)

/-- Issue moves transfers from one list to the other, and changes the position and what the context shows. -/
theorem SeCtx.issue_keeps : { c.issue n with
    inflight := c.inflight, toIssue := c.toIssue, waitKind := c.waitKind, pc := c.pc } = c := by
  rw [SeCtx.issue]
  split
  · rfl
  · rfl

theorem SeCtx.issue_transfers : (c.issue n).inflight ++ (c.issue n).toIssue = c.inflight ++ c.toIssue := by
  have hsplit : (c.inflight ++ c.toIssue.take n) ++ c.toIssue.drop n = c.inflight ++ c.toIssue := by
    rw [List.append_assoc, List.take_append_drop]
  rw [SeCtx.issue]
  split
  · exact hsplit
  · exact hsplit

theorem SeCtx.issue_toIssue : (c.issue n).toIssue = c.toIssue.drop n := by
  rw [SeCtx.issue]
  split
  · rfl
  · rfl

/-- With all of them issued a program goes on. -/
theorem SeCtx.issue_all (hall : (c.issue n).toIssue = []) (hprog : c.prog.isSome = true) :
    (c.issue n).pc = c.pc + 1 ∧ (c.issue n).waitKind = 0 := by
  rw [SeCtx.issue_toIssue] at hall
  rw [SeCtx.issue, if_pos (by rw [hall]; rfl), if_pos hprog]
  exact ⟨rfl, rfl⟩

/-- While some wait for slots, the context shows it (R227). -/
theorem SeCtx.issue_some (hsome : (c.issue n).toIssue ≠ []) : (c.issue n).pc = c.pc ∧ (c.issue n).waitKind = 5 := by
  rw [SeCtx.issue_toIssue] at hsome
  rw [SeCtx.issue, if_neg (by simpa using hsome)]
  exact ⟨rfl, rfl⟩

end

/-! ## A move handed over (R201, R227) -/

/-- The context with the transfers `ts` to issue, before any of them is issued. -/
def SeCtx.toGive (c : SeCtx) (ts : List Xfer) (credit : Bool) : SeCtx :=
  { c with toIssue := c.toIssue ++ ts, waitKind := if credit then c.waitKind else 7 }

/-- The context `c` becomes `c'` as it is handed the transfers `ts`: with mesh credit they are issued into free slots, without it
they all wait. -/
def Handed (ts : List Xfer) (credit : Bool) (c c' : SeCtx) : Prop :=
  if credit = true ∧ c.toIssue ++ ts ≠ [] then ∃ n, c' = (c.toGive ts credit).issue n else c' = c.toGive ts credit

/-- Being handed transfers changes neither the command nor the state of the context. -/
theorem Handed.keeps {ts : List Xfer} {credit : Bool} {c c' : SeCtx} (h : Handed ts credit c c') :
    { c' with inflight := c.inflight, toIssue := c.toIssue, waitKind := c.waitKind, pc := c.pc } = c := by
  rw [Handed] at h
  split at h
  · obtain ⟨n, rfl⟩ := h
    have hkeep := (c.toGive ts credit).issue_keeps n
    exact congrArg (fun d : SeCtx => { d with
      inflight := c.inflight, toIssue := c.toIssue, waitKind := c.waitKind, pc := c.pc }) hkeep
  · rw [h]; rfl

theorem Handed.transfers {ts : List Xfer} {credit : Bool} {c c' : SeCtx} (h : Handed ts credit c c') :
    c'.inflight ++ c'.toIssue = c.inflight ++ (c.toIssue ++ ts) := by
  rw [Handed] at h
  split at h
  · obtain ⟨n, rfl⟩ := h
    exact (c.toGive ts credit).issue_transfers n
  · rw [h]; rfl

/-- The transfers of a move, each with what it met. -/
def State.moveXfers (s : State) (k : Nat) (mv : Moved) (group : Option Mcast) : List (Xfer × List MemEv) :=
  mv.runs.zipIdx.map (fun r => s.makeXfer (s.mover k) mv group k r.2 r.1)

theorem State.moveXfers_landed (s : State) (k : Nat) (mv : Moved) (group : Option Mcast) :
    ∀ f ∈ (s.moveXfers k mv group).map Prod.fst, f.landed = false := by
  intro f hf
  simp only [State.moveXfers, List.map_map, List.mem_map] at hf
  obtain ⟨r, -, rfl⟩ := hf
  rfl

theorem State.moveXfers_ne_nil (s : State) (k : Nat) {mv : Moved} (group : Option Mcast) (h : mv.runs ≠ []) :
    (s.moveXfers k mv group).map Prod.fst ≠ [] := by
  simpa [State.moveXfers] using h

/-- Core `k` has handed `ts` to its context `x`: beyond that context only SE_TD_STAT may have changed. -/
structure HandsOver (k x : Nat) (ts : List Xfer) (credit : Bool) (s t : State) : Prop where
  core : ∀ j, t.core j = if j = k then { s.core k with se := (t.core k).se } else s.core j
  engine : { (t.core k).se with ctxs := (s.core k).se.ctxs, tdStat := (s.core k).se.tdStat } = (s.core k).se
  others : ∀ y, y ≠ x → (t.core k).se.ctx y = (s.core k).se.ctx y
  ctx : Handed ts credit ((s.core k).se.ctx x) ((t.core k).se.ctx x)

/-- The engine that is given the transfers `ts` for context `x`, and issues them if there is mesh credit. -/
def Se.give (e : Se) (x : Nat) (ts : List Xfer) (credit : Bool) (total : Nat) : Se :=
  let e := { e with ctxs := sset (fun _ => SeCtx.init) e.ctxs x ((e.ctx x).toGive ts credit) }
  if credit then e.issue total x else e

theorem Se.give_spec (e : Se) (x : Nat) (ts : List Xfer) (credit : Bool) (total : Nat) :
    { e.give x ts credit total with ctxs := e.ctxs } = e ∧
    (∀ y, y ≠ x → (e.give x ts credit total).ctx y = e.ctx y) ∧ Handed ts credit (e.ctx x) ((e.give x ts credit total).ctx x) := by
  have hset (f : Se) (c : SeCtx) (y : Nat) : Se.ctx { f with ctxs := sset (fun _ => SeCtx.init) f.ctxs x c } y =
      if y = x then c else f.ctx y := sget_sset _ _ x y c
  have hgiven := hset e ((e.ctx x).toGive ts credit)
  rw [Se.give]
  by_cases hgo : credit = true ∧ (e.ctx x).toIssue ++ ts ≠ []
  · rw [if_pos hgo.1, Se.issue_eq, if_neg (by rw [hgiven, if_pos rfl]; simpa [SeCtx.toGive] using hgo.2)]
    refine ⟨rfl, fun y hy => ?_, ?_⟩
    · rw [hset, if_neg hy, hgiven, if_neg hy]
    · rw [Handed, if_pos hgo, hset, if_pos rfl, hgiven, if_pos rfl]
      exact ⟨_, rfl⟩
  · have hstay : ∀ e' : Se, e' = { e with ctxs := sset (fun _ => SeCtx.init) e.ctxs x ((e.ctx x).toGive ts credit) } →
        (if credit = true then e'.issue total x else e') = e' := by
      rintro e' rfl
      split
      next hc =>
        have hnone : (e.ctx x).toIssue ++ ts = [] := by simpa [hc] using hgo
        rw [Se.issue_eq, if_pos (by rw [hgiven, if_pos rfl]; simpa [SeCtx.toGive] using hnone)]
      · rfl
    rw [hstay _ rfl, Handed, if_neg hgo]
    exact ⟨rfl, fun y hy => by rw [hgiven, if_neg hy], by rw [hgiven, if_pos rfl]⟩

/-- The bits of SE_TD_STAT that some accesses set (06 R187). -/
def Acc.tdBits (a : Acc) : BitVec 3 := BitVec.ofNat 3 (bit a.clamp + 2 * bit a.drop + 4 * bit a.padWritten)

/-- What issuing a move leaves. -/
theorem State.issueMove_handsOver (s : State) (k x : Nat) (mv : Moved) (group : Option Mcast) (credit : Bool) :
    HandsOver k x ((s.moveXfers k mv group).map Prod.fst) credit s (s.issueMove k x mv group credit) := by
  obtain ⟨stat, total, hcore⟩ : ∃ stat total, ∀ j, (s.issueMove k x mv group credit).core j = if j = k then { s.core k with
      se := ({ (s.core k).se with tdStat := stat } : Se).give x ((s.moveXfers k mv group).map Prod.fst) credit total }
      else s.core j := by
    refine ⟨(s.core k).se.tdStat ||| mv.acc.tdBits,
      ((s.tdStat k mv.acc).meet ((s.moveXfers k mv group).flatMap Prod.snd)).pwr.slots, fun j => ?_⟩
    have hmet (i : Nat) : ((s.tdStat k mv.acc).meet ((s.moveXfers k mv group).flatMap Prod.snd)).core i = if i = k then
        { s.core k with se := { (s.core k).se with tdStat := (s.core k).se.tdStat ||| mv.acc.tdBits } } else s.core i := by
      rw [State.meet_core]
      exact State.core_setCore s k i _
    have hmove : s.issueMove k x mv group credit =
        (let u := ((s.tdStat k mv.acc).meet ((s.moveXfers k mv group).flatMap Prod.snd)).modSeCtx k x
          (fun c => c.toGive ((s.moveXfers k mv group).map Prod.fst) credit)
        if credit then u.issueMore k x else u) := rfl
    rw [hmove]
    cases credit with
    | false =>
      refine (State.core_setCore _ k j _).trans ?_
      rw [hmet k, if_pos rfl, hmet j]
      split
      · rfl
      · rfl
    | true =>
      refine (State.core_setCore _ k j _).trans ?_
      rw [State.modSeCtx_eq_putCtx, State.putCtx_core, if_pos rfl, State.putCtx_core, hmet k, if_pos rfl, hmet j]
      split
      · rfl
      · rfl
  have hk := hcore k
  rw [if_pos rfl] at hk
  obtain ⟨hrest, hothers, hctx⟩ := ({ (s.core k).se with tdStat := stat } : Se).give_spec x
    ((s.moveXfers k mv group).map Prod.fst) credit total
  refine ⟨fun j => by rw [hcore j, hk], ?_, fun y hy => ?_, ?_⟩
  · rw [hk]
    exact congrArg (fun e : Se => { e with tdStat := (s.core k).se.tdStat }) hrest
  · rw [hk]; exact hothers y hy
  · rw [hk]; exact hctx

/-! ## The end of a context (R193) -/

/-- The context as it stands when it has ended. -/
def SeCtx.ended (c : SeCtx) : SeCtx :=
  { c with running := false, waitKind := 0, q := none, prog := none, held := [], loops := [], toIssue := [], ending := false }

/-- The core whose context `x` has ended, its command `q` being complete. -/
def Core.ctxEnded (c : Core) (x : Nat) (q : QEntry) : Core :=
  { c with
    se := { c.se with ctxs := sset (fun _ => SeCtx.init) c.se.ctxs x (c.se.ctx x).ended, waits := c.se.waitsBut (x + 1) }
    cc := { c.cc with seCnt := c.cc.seCnt.complete q.num } }

section
variable (s : State) (k x : Nat) {q : QEntry}

theorem State.endCtx_eq (hq : ((s.core k).se.ctx x).q = some q) :
    s.endCtx k x = s.setCore k ((s.core k).ctxEnded x q) := by
  simp only [State.endCtx, hq, State.finish, State.modSeCtx, State.endWait, State.modSe_eq, State.modCc_eq, State.core_setCore,
    if_true, State.setCore_setCore]
  rfl

theorem Core.ctxEnded_ctx (c : Core) (q : QEntry) (y : Nat) :
    (c.ctxEnded x q).se.ctx y = if y = x then (c.se.ctx x).ended else c.se.ctx y := sget_sset _ _ x y _

/-- A context that is to end does so once no transfer of it is left. -/
theorem State.drainCtx_eq (hrun : ((s.core k).se.ctx x).running = true) (hend : ((s.core k).se.ctx x).ending = true) :
    (((s.core k).se.ctx x).inflight ++ ((s.core k).se.ctx x).toIssue = [] → s.drainCtx k x = s.endCtx k x) ∧
    (((s.core k).se.ctx x).inflight ++ ((s.core k).se.ctx x).toIssue ≠ [] → s.drainCtx k x = s) := by
  refine ⟨fun hnone => ?_, fun hsome => ?_⟩
  · obtain ⟨hfly, hissue⟩ := List.append_eq_nil_iff.mp hnone
    simp only [State.drainCtx, hrun, hend, hfly, hissue, List.isEmpty_nil, Bool.and_self, if_true]
  · have hbusy : (((s.core k).se.ctx x).running && ((s.core k).se.ctx x).ending && ((s.core k).se.ctx x).toIssue.isEmpty &&
        ((s.core k).se.ctx x).inflight.isEmpty) = false := by
      rw [Bool.eq_false_iff]
      intro h
      simp only [Bool.and_eq_true, List.isEmpty_iff] at h
      exact hsome (by rw [h.2, h.1.2]; rfl)
    simp only [State.drainCtx, hbusy, Bool.false_eq_true, if_false]

theorem State.drainCtx_not_ending (hend : ((s.core k).se.ctx x).ending = false) : s.drainCtx k x = s := by
  simp only [State.drainCtx, hend, Bool.and_false, Bool.false_and, Bool.false_eq_true, if_false]

end

/-! ## A command that starts a context (R193) -/

/-- The core that has taken the head of its SE queue for context `x`, which becomes `cx`. -/
def Core.seBegun (c : Core) (x : Nat) (cx : SeCtx) : Core :=
  { c with
    se := { c.se with queue := c.se.queue.tail, ctxs := sset (fun _ => SeCtx.init) c.se.ctxs x cx }
    cc := { c.cc with seCnt := { c.cc.seCnt with started := c.cc.seCnt.started + 1 } } }

theorem Core.seBegun_ctx (c : Core) (x : Nat) (cx : SeCtx) (y : Nat) :
    (c.seBegun x cx).se.ctx y = if y = x then cx else c.se.ctx y := sget_sset _ _ x y cx

theorem State.take_modSeCtx (s : State) (k x : Nat) (f : SeCtx → SeCtx) :
    (s.take k .se).modSeCtx k x f = s.setCore k ((s.core k).seBegun x (f ((s.core k).se.ctx x))) := by
  simp only [State.take, State.modSeCtx, State.modCore_eq, State.modSe_eq, State.core_setCore, if_true, State.setCore_setCore]
  rfl

theorem State.seBegun_takes {s : State} {k : Nat} {q : QEntry} {rest : List QEntry} (hq : (s.core k).se.queue = q :: rest)
    (x : Nat) (cx : SeCtx) : SeTakes k rest s (s.setCore k ((s.core k).seBegun x cx)) := by
  refine ⟨OnlyCore.setCore s k _, ?_⟩
  rw [State.core_setCore, if_pos rfl]
  exact ⟨rfl, rfl, rfl, rfl, congrArg List.tail hq⟩

end Sys2Proof.Machine
end

section
/-! SE.START, SE.COPY and SP.END (07 R193, R200). -/

namespace Sys2Proof.Machine

section
variable {s : State} {l : SiteNo} {c : CoreNo} {k : Nat} {q : QEntry} {rest : List QEntry}

/-! ## SE.START -/

theorem exec_seStart_head (hk : s.key l c = some k) (hfence : (s.core k).se.fence = none)
    (hq : (s.core k).se.queue = q :: rest) (ho : q.op = 0x80) (hr : reservedBits q.w (seMaskOf q.w) = false) :
    exec (.seStart l ⟨c, []⟩) s = .next (State.seStart [] k q s) :=
  congrArg Host.Outcome.next (State.seRun_head hk hfence hq ho (by decide) hr)

/-- The context that a start of program `p` leaves, the descriptors `ds` held. -/
def SeCtx.started (cx : SeCtx) (q : QEntry) (p : SProg) (ds : List (Nat × Desc)) : SeCtx :=
  { cx.begin_ q with prog := some p, held := ds }

/-- A program that passes its check starts. -/
theorem State.seStart_starts {bs : List Byte} {n : Nat} (hpause : (s.core k).se.pause = false) (hlevel : s.pwr.level.toNat < 3)
    (hrun : ((s.core k).se.ctx (fld q.w 24 3)).running = false) (halign : fld q.w 27 16 % 16 = 0)
    (hn : n = (s.core k).cc.dmem.nat (fld q.w 27 16) 1 % 16 + 1) (hfits : fld q.w 27 16 + 16 + 8 * n ≤ 65536)
    (hread : (s.core k).cc.dmemRead (fld q.w 27 16) (16 + 8 * n) = some bs)
    (hcheck : s.progCheck k (fld q.w 24 3) bs (decodeSProg bs n).code = none) :
    State.seStart [] k q s = s.setCore k ((s.core k).seBegun (fld q.w 24 3) (((s.core k).se.ctx (fld q.w 24 3)).started q
      (decodeSProg bs n) (heldOf (s.core k).se.desc (decodeSProg bs n).code))) := by
  have hhead : ¬(fld q.w 27 16 % 16 ≠ 0 ∨ fld q.w 27 16 + 16 > 65536) := by omega
  have hfits' : ¬(fld q.w 27 16 + 16 + 8 * n > 65536) := by omega
  subst hn
  simp only [State.seStart, hrun, hpause, s.paused3_of_level hlevel, Bool.or_self, Bool.false_eq_true, if_false, if_neg hhead,
    State.eccHits, List.foldl_nil, if_neg hfits', hread, hcheck, State.take_modSeCtx]
  rfl

/-! ## SE.COPY -/

theorem exec_seCopy_head (hk : s.key l c = some k) (hfence : (s.core k).se.fence = none)
    (hq : (s.core k).se.queue = q :: rest) (ho : q.op = 0x88) (hr : reservedBits q.w (seMaskOf q.w) = false) (credit : Bool) :
    exec (.seCopy l c ⟨credit, []⟩) s = .next (State.seCopy credit [] k q s) :=
  congrArg Host.Outcome.next (State.seRun_head hk hfence hq ho (by decide) hr)

/-- The context that a copy begins: it ends once its transfers have landed. -/
def SeCtx.copying (cx : SeCtx) (q : QEntry) : SeCtx := { cx.begin_ q with prog := none, held := [], ending := true }

section
variable {a b : RDesc} (credit : Bool) (hpause : (s.core k).se.pause = false) (hlevel : s.pwr.level.toNat < 3)
  (hrun : ((s.core k).se.ctx (fld q.w 24 3)).running = false) (hclass : fld q.w 48 2 ≠ 0)
  (hpair : resolvePair (s.core k).se.desc true (fld q.w 27 9) (fld q.w 36 9) = some (a, b))
  (hfmt : b.d.scatAdd = true → fmtInt b.d.fmt = true → fmtInt a.d.fmt = true)
  (hrnd : rndReserved (BitVec.ofNat 3 (fld q.w 45 3)) = false)
include hpause hlevel hrun hclass hpair hfmt hrnd

theorem State.seCopy_uneven (hsize : a.sizes ≠ b.sizes) :
    State.seCopy credit [] k q s = s.seSkip k q (SeErr.cmd (fld q.w 24 3) 0 seBadShape) := by
  have hfmt' : (b.d.scatAdd && fmtInt b.d.fmt && !fmtInt a.d.fmt) = false := by
    rw [Bool.eq_false_iff]
    simpa using hfmt
  simp [State.seCopy, hrun, hpause, s.paused3_of_level hlevel, hclass, hpair, hfmt', hrnd, hsize]

/-- Between equal sizes the context begins, is handed its transfers, and ends if there are none. -/
theorem State.seCopy_starts (hsize : a.sizes = b.sizes) : ∃ mv, State.seCopy credit [] k q s =
    ((s.setCore k ((s.core k).seBegun (fld q.w 24 3) (((s.core k).se.ctx (fld q.w 24 3)).copying q))).issueMove k (fld q.w 24 3)
      mv none credit).drainCtx k (fld q.w 24 3) := by
  have hfmt' : (b.d.scatAdd && fmtInt b.d.fmt && !fmtInt a.d.fmt) = false := by
    rw [Bool.eq_false_iff]
    simpa using hfmt
  simp only [State.seCopy, hrun, hpause, s.paused3_of_level hlevel, hpair, hfmt', hrnd, beq_eq_false_iff_ne.mpr hclass,
    Bool.or_self, Bool.false_eq_true, if_false, bne, beq_iff_eq.mpr hsize, Bool.not_true, State.take_modSeCtx]
  exact ⟨_, rfl⟩

end

/-- What a copy that starts leaves: it is under way, or with nothing to move it has ended. -/
theorem State.copy_leaves (hq : (s.core k).se.queue = q :: rest) (x : Nat) (mv : Moved) (credit : Bool) :
    let t := ((s.setCore k ((s.core k).seBegun x (((s.core k).se.ctx x).copying q))).issueMove k x mv none credit).drainCtx k x
    (∀ j, j ≠ k → t.core j = s.core j) ∧ (t.core k).se.queue = rest ∧ (t.core k).sp = (s.core k).sp ∧
      (t.core k).me = (s.core k).me ∧ (t.core k).se.hqs = (s.core k).se.hqs ∧
      (t.core k).cc.seCnt.started = (s.core k).cc.seCnt.started + 1 ∧
      (∀ y, y ≠ x → (t.core k).se.ctx y = (s.core k).se.ctx y) ∧
      (((t.core k).se.ctx x).running = true ∧ ((t.core k).se.ctx x).q = some q ∧
          (t.core k).cc.seCnt.done = (s.core k).cc.seCnt.done ∨
        ((t.core k).se.ctx x).running = false ∧ Completes q.num (s.core k).cc.seCnt (t.core k).cc.seCnt) := by
  intro t
  let b := s.setCore k ((s.core k).seBegun x (((s.core k).se.ctx x).copying q))
  let u := b.issueMove k x mv none credit
  have hbegun : b.core k = (s.core k).seBegun x (((s.core k).se.ctx x).copying q) := by
    rw [State.core_setCore, if_pos rfl]
  have hgiven : HandsOver k x _ credit b u := b.issueMove_handsOver k x mv none credit
  have hother (j : Nat) (hj : j ≠ k) : u.core j = s.core j := by
    rw [hgiven.core, if_neg hj, State.core_setCore, if_neg hj]
  have hcore : u.core k = { (s.core k).seBegun x (((s.core k).se.ctx x).copying q) with se := (u.core k).se } := by
    have h := hgiven.core k
    rwa [if_pos rfl, hbegun] at h
  have hqueue : (u.core k).se.queue = rest := by
    have h := congrArg Se.queue hgiven.engine
    rw [hbegun] at h
    exact h.trans (congrArg List.tail hq)
  have hhqs : (u.core k).se.hqs = (s.core k).se.hqs := by
    have h := congrArg Se.hqs hgiven.engine
    rw [hbegun] at h
    exact h
  have hothers (y : Nat) (hy : y ≠ x) : (u.core k).se.ctx y = (s.core k).se.ctx y := by
    rw [hgiven.others y hy, hbegun, Core.seBegun_ctx, if_neg hy]
  have hctx := hgiven.ctx.keeps
  rw [hbegun, Core.seBegun_ctx, if_pos rfl] at hctx
  have hrun : ((u.core k).se.ctx x).running = true := congrArg SeCtx.running hctx
  have hend : ((u.core k).se.ctx x).ending = true := congrArg SeCtx.ending hctx
  have hq' : ((u.core k).se.ctx x).q = some q := congrArg SeCtx.q hctx
  have hcc : (u.core k).cc = ((s.core k).seBegun x (((s.core k).se.ctx x).copying q)).cc := (congrArg Core.cc hcore).trans rfl
  have hcount : (u.core k).cc.seCnt.issued = (s.core k).cc.seCnt.issued ∧ (u.core k).cc.seCnt.done = (s.core k).cc.seCnt.done ∧
      (u.core k).cc.seCnt.early = (s.core k).cc.seCnt.early := by
    rw [hcc]
    exact ⟨rfl, rfl, rfl⟩
  have hsp : (u.core k).sp = (s.core k).sp := (congrArg Core.sp hcore).trans rfl
  have hme : (u.core k).me = (s.core k).me := (congrArg Core.me hcore).trans rfl
  obtain ⟨hdrained, hwaits⟩ := u.drainCtx_eq k x hrun hend
  by_cases hnone : ((u.core k).se.ctx x).inflight ++ ((u.core k).se.ctx x).toIssue = []
  · have ht : t = u.setCore k ((u.core k).ctxEnded x q) := (hdrained hnone).trans (u.endCtx_eq k x hq')
    have htk : t.core k = (u.core k).ctxEnded x q := by rw [ht, State.core_setCore, if_pos rfl]
    refine ⟨fun j hj => by rw [ht, State.core_setCore, if_neg hj, hother j hj], ?_⟩
    rw [htk]
    refine ⟨hqueue, hsp, hme, hhqs, ?_, fun y hy => ?_, Or.inr ⟨?_, ?_⟩⟩
    · exact (EngCnt.complete_issued q.num _).2.trans (congrArg (fun d : Cc => d.seCnt.started) hcc)
    · rw [Core.ctxEnded_ctx, if_neg hy, hothers y hy]
    · rw [Core.ctxEnded_ctx, if_pos rfl]; rfl
    · exact Completes.of_complete q.num _ _ hcount.1 hcount.2.1 hcount.2.2
  · have ht : t = u := hwaits hnone
    rw [ht]
    exact ⟨hother, hqueue, hsp, hme, hhqs,
      congrArg (fun d : Cc => d.seCnt.started) hcc, hothers, Or.inl ⟨hrun, hq', hcount.2.1⟩⟩

/-! ## SP.END -/

theorem exec_spEnd_at {x : BitVec 3} {w : DWord} (hk : s.key l c = some k) (hat : AtInstr s k x.toNat w) (hop : spOp w = 0xF) :
    exec (.spEnd l c x) s = .next ((s.modSeCtx k x.toNat (fun c => { c with ending := true })).drainCtx k x.toNat) :=
  congrArg Host.Outcome.next (State.spRun_at hk hat hop)

/-- What SP.END leaves: with no transfer left the context has ended, else it waits for them. -/
theorem State.spEnd_leaves (x : Nat) (hrun : ((s.core k).se.ctx x).running = true) (hissue : ((s.core k).se.ctx x).toIssue = [])
    (hq : ((s.core k).se.ctx x).q = some q) :
    let t := (s.modSeCtx k x (fun c => { c with ending := true })).drainCtx k x
    OnlyCore k s t ∧ (t.core k).sp = (s.core k).sp ∧ (∀ y, y ≠ x → (t.core k).se.ctx y = (s.core k).se.ctx y) ∧
      (t.core k).se.hqs = (s.core k).se.hqs ∧
      (((s.core k).se.ctx x).inflight = [] → ((t.core k).se.ctx x).running = false ∧
        Completes q.num (s.core k).cc.seCnt (t.core k).cc.seCnt) ∧
      (((s.core k).se.ctx x).inflight ≠ [] → ((t.core k).se.ctx x).running = true ∧ ((t.core k).se.ctx x).ending = true ∧
        (t.core k).cc.seCnt = (s.core k).cc.seCnt) := by
  intro t
  let u := s.modSeCtx k x (fun c => { c with ending := true })
  have hu : u = s.putCtx k x { (s.core k).se.ctx x with ending := true } (s.core k).se.waits := rfl
  have hctx : (u.core k).se.ctx x = { (s.core k).se.ctx x with ending := true } := by rw [hu, State.putCtx_ctx_same]
  have hcore := State.putCtx_core s k x { (s.core k).se.ctx x with ending := true } (s.core k).se.waits k
  rw [if_pos rfl, ← hu] at hcore
  have hsp : (u.core k).sp = (s.core k).sp := (congrArg Core.sp hcore).trans rfl
  have hhqs : (u.core k).se.hqs = (s.core k).se.hqs := (congrArg (fun d : Core => d.se.hqs) hcore).trans rfl
  have hcc : (u.core k).cc = (s.core k).cc := (congrArg Core.cc hcore).trans rfl
  obtain ⟨honly, -, -, hothers⟩ := s.putCtx_onlySeCtx k x { (s.core k).se.ctx x with ending := true } (s.core k).se.waits
  rw [← hu] at honly hothers
  obtain ⟨hdrained, hwaits⟩ := u.drainCtx_eq k x (by rw [hctx]; exact hrun) (by rw [hctx])
  rw [hctx] at hdrained hwaits
  simp only [hissue, List.append_nil] at hdrained hwaits
  by_cases hnone : ((s.core k).se.ctx x).inflight = []
  · have ht : t = u.setCore k ((u.core k).ctxEnded x q) := (hdrained hnone).trans (u.endCtx_eq k x (by rw [hctx]; exact hq))
    have htk : t.core k = (u.core k).ctxEnded x q := by rw [ht, State.core_setCore, if_pos rfl]
    refine ⟨ht ▸ OnlyCore.trans honly (OnlyCore.setCore u k _), ?_⟩
    rw [htk]
    refine ⟨hsp, fun y hy => ?_, hhqs, fun _ => ⟨?_, ?_⟩,
      fun h => absurd hnone h⟩
    · rw [Core.ctxEnded_ctx, if_neg hy, hothers y hy]
    · rw [Core.ctxEnded_ctx, if_pos rfl]; rfl
    · rw [← hcc]; exact Completes.of_complete q.num _ _ rfl rfl rfl
  · have ht : t = u := hwaits hnone
    rw [ht]
    refine ⟨honly, hsp, hothers, hhqs, fun h => absurd h hnone,
      fun _ => ⟨?_, ?_, congrArg Cc.seCnt hcc⟩⟩
    · rw [hctx]; exact hrun
    · rw [hctx]

end

/-! ## The obligation -/

/-- Settles O15: a start sets its context (`State.seStart_starts`), a copy hands over its transfers (`State.copy_leaves`), and
SP.END waits for the transfers under way (`State.spEnd_leaves`). -/
theorem sePrograms : Obligations.SePrograms := by
  unfold Obligations.SePrograms
  refine ⟨?_, ?_, ?_⟩
  · intro l c s k q rest bs hk hfence hq ho hr hpause hlevel x a n hrun halign hfits hread hcheck
    have hgo := State.seStart_starts (n := n) hpause hlevel hrun halign rfl hfits hread hcheck
    have hctx (y : Nat) := (s.core k).seBegun_ctx x
      (((s.core k).se.ctx x).started q (decodeSProg bs n) (heldOf (s.core k).se.desc (decodeSProg bs n).code)) y
    refine ⟨_, (exec_seStart_head hk hfence hq ho hr).trans (congrArg _ hgo), State.seBegun_takes hq x _, ?_⟩
    rw [State.core_setCore, if_pos rfl]
    refine ⟨rfl, rfl, fun y hy => by rw [hctx, if_neg hy], ?_⟩
    rw [hctx, if_pos rfl]
    refine ⟨rfl, rfl, rfl, rfl, fun d hd => ?_, rfl, rfl, rfl⟩
    have hzero : nth (List.replicate 6 (0 : BitVec 32)) d 1 = 0 := by
      rw [nth, List.getElem?_replicate, if_pos hd]; rfl
    exact ⟨hzero, hzero⟩
  · intro l c s k q rest a b credit hk hfence hq ho hr hpause hlevel hrun hclass hpair hfmt hrnd
    refine ⟨fun hsize => ?_, fun hsize => ?_⟩
    · obtain ⟨mv, hgo⟩ := State.seCopy_starts credit hpause hlevel hrun hclass hpair hfmt hrnd hsize
      exact ⟨_, (exec_seCopy_head hk hfence hq ho hr credit).trans (congrArg _ hgo), State.copy_leaves hq _ mv credit⟩
    · have hskips := State.seSkip_skips hq (SeErr.cmd (fld q.w 24 3) 0 seBadShape)
      have hctxs := congrArg Se.ctxs hskips.engine
      exact ⟨_, (exec_seCopy_head hk hfence hq ho hr credit).trans
          (congrArg _ (State.seCopy_uneven credit hpause hlevel hrun hclass hpair hfmt hrnd hsize)),
        hskips.queue, hctxs, hskips.scratchpad, s.seSkip_cause k q (show seBadShape < 19 by decide), hskips.errSeq⟩
  · intro l c x s k w q hk hat hop hq
    obtain ⟨hrun, -, -, -, hissue, -⟩ := id hat
    exact ⟨_, exec_spEnd_at hk hat hop, State.spEnd_leaves x.toNat hrun hissue hq⟩

end Sys2Proof.Machine
end

section
/-! What landing writes does to the memories (01 R27, 07 R201, 12 R366, R377): each write reaches the byte it names and no other,
and the parts by which an address is read stand. -/

namespace Sys2Proof.Machine

/-! ## What reads an address -/

/-- Places, keys, protection and key slots are read alike in both states. -/
structure SameView (s u : State) : Prop where
  sb : u.sb = s.sb
  coreMap : ∀ p, (u.site p).coreMap = (s.site p).coreMap
  regions : u.gddr.regions = s.gddr.regions
  slots : u.gddr.slots = s.gddr.slots
  stash : u.gddr.stash = s.gddr.stash

namespace SameView

theorem refl (s : State) : SameView s s := ⟨rfl, fun _ => rfl, rfl, rfl, rfl⟩

variable {s u v : State}

theorem trans (h : SameView s u) (h' : SameView u v) : SameView s v :=
  ⟨h'.sb.trans h.sb, fun p => (h'.coreMap p).trans (h.coreMap p), h'.regions.trans h.regions, h'.slots.trans h.slots,
    h'.stash.trans h.stash⟩

theorem keyOf (h : SameView s u) (p c : Nat) : u.keyOf p c = s.keyOf p c := by
  simp only [State.keyOf, Site.physCore, h.coreMap]

theorem isProtected (h : SameView s u) (o : Nat) : u.isProtected o = s.isProtected o := by
  simp only [State.isProtected, h.sb]

theorem xtsSlot (h : SameView s u) (a : Nat) : u.xtsSlot a = s.xtsSlot a := by
  simp only [State.xtsSlot, h.regions]

theorem slotGen (h : SameView s u) (n : Nat) : u.slotGen n = s.slotGen n := by
  simp only [State.slotGen, h.slots]

theorem stashMeta (h : SameView s u) (a : Nat) : u.stashMeta a = s.stashMeta a := by
  simp only [State.stashMeta, State.stashOf, h.stash]

theorem setCore (s : State) (k : Nat) (c : Core) : SameView s (s.setCore k c) := ⟨rfl, fun _ => rfl, rfl, rfl, rfl⟩

theorem setSite (s : State) (p : Nat) {t : Site} (ht : t.coreMap = (s.site p).coreMap) : SameView s (s.setSite p t) := by
  refine ⟨rfl, fun q => ?_, rfl, rfl, rfl⟩
  rw [State.site_setSite]
  split
  next h => rw [h, ht]
  · rfl

end SameView

/-! ## One byte of a core window -/

theorem Core.winPut_sp (c : Core) (o : Nat) (w : Wr) (a : Nat) :
    (c.winPut o w).sp.get a = if a = o ∧ o < 0x400000 then w.over (c.sp.get a) else c.sp.get a := by
  by_cases ho : o < 0x400000
  · rw [Core.winPut, if_pos ho]
    refine (Mem.get_put c.sp o a w).trans ?_
    by_cases ha : a = o
    · rw [if_pos ha, if_pos ⟨ha, ho⟩, ha]
    · rw [if_neg ha, if_neg (fun h => ha h.1)]
  · have hsp : (c.winPut o w).sp = c.sp := by
      rw [Core.winPut, if_neg ho]
      repeat' split
      all_goals rfl
    rw [hsp, if_neg (fun h => ho h.2)]

/-- A write of a whole byte leaves that byte. -/
theorem Wr.over_whole {w : Wr} (hm : w.mask = 0xFF) (old : Byte) : w.over old = w.b := by
  have hnone : ~~~(0xFF : Byte) = 0#8 := by decide
  have hall : (0xFF : Byte) = BitVec.allOnes 8 := by decide
  rw [Wr.over, hm, hnone, BitVec.and_zero, BitVec.zero_or, hall, BitVec.and_allOnes]

/-! ## One byte of GDDR7 (R377) -/

/-- GDDR7 once a byte is written under the key generation `gen`; a unit last written under another is undefined first, with the
free values of `n`. -/
def Gddr.putUnder (g : Gddr) (gen n a : Nat) (w : Wr) : Gddr :=
  if g.unitGen (a / 64) == gen then { g with mem := g.mem.put a w }
  else ({ g with mem := (g.mem.spoil (a / 64 * 64) (a / 64 * 64 + 64) n).put a w } : Gddr).setUnit (a / 64) gen

section
variable (g : Gddr) (gen n a : Nat) (w : Wr)

theorem Gddr.setUnit_unitGen (u : Nat) : (g.setUnit u gen).unitGen u = gen :=
  (sget_sset _ _ u u gen).trans (if_pos rfl)

theorem Gddr.putUnder_unitGen : (g.putUnder gen n a w).unitGen (a / 64) = gen := by
  rw [Gddr.putUnder]
  split
  next h => exact beq_iff_eq.mp h
  · exact Gddr.setUnit_unitGen _ gen (a / 64)

theorem Gddr.putUnder_get_same (hm : w.mask = 0xFF) : (g.putUnder gen n a w).mem.get a = w.b := by
  have hput (m : Mem) : (m.put a w).get a = w.b := by rw [Mem.get_put, if_pos rfl, Wr.over_whole hm]
  rw [Gddr.putUnder]
  split
  · exact hput _
  · exact hput _

theorem Gddr.putUnder_get_unit {b : Nat} (hb : b / 64 ≠ a / 64) : (g.putUnder gen n a w).mem.get b = g.mem.get b := by
  have hput (m : Mem) : (m.put a w).get b = m.get b := by
    rw [Mem.get_put, if_neg (fun h => hb (congrArg (· / 64) h))]
  rw [Gddr.putUnder]
  split
  · exact hput _
  · refine (hput _).trans ((Mem.get_fillRange _ _ _ b _).trans (if_neg (fun h => ?_)))
    omega

theorem Gddr.putUnder_get_key {b : Nat} (hb : b ≠ a) (hgen : g.unitGen (a / 64) = gen) :
    (g.putUnder gen n a w).mem.get b = g.mem.get b := by
  rw [Gddr.putUnder, if_pos (beq_iff_eq.mpr hgen)]
  exact (Mem.get_put _ a b w).trans (if_neg hb)

theorem Gddr.putUnder_unitGen_other {u : Nat} (hu : u ≠ a / 64) : (g.putUnder gen n a w).unitGen u = g.unitGen u := by
  rw [Gddr.putUnder]
  split
  · rfl
  · exact (sget_sset _ _ (a / 64) u gen).trans (if_neg hu)

end

section
variable (s : State) (a : Nat) (w : Wr)

/-- A byte written to GDDR7 is dropped, or put under the key of its slot. -/
theorem State.gddrPut_cases :
    ((s.slotGen (s.xtsSlot a) = 0 ∨ s.stashMeta a = true) ∧ s.gddrPut a w = s) ∨
    (s.slotGen (s.xtsSlot a) ≠ 0 ∧ s.stashMeta a = false ∧ ∃ xs n, s.gddrPut a w = { s with
      xds := xs, freeCtr := n, gddr := s.gddr.putUnder (s.slotGen (s.xtsSlot a)) s.freeCtr a w }) := by
  by_cases hdrop : (s.slotGen (s.xtsSlot a) == 0 || s.stashMeta a) = true
  · exact .inl ⟨by simpa using hdrop, if_pos hdrop⟩
  · refine .inr ?_
    simp only [Bool.or_eq_true, beq_iff_eq, not_or, Bool.not_eq_true] at hdrop
    refine ⟨hdrop.1, hdrop.2, ?_⟩
    simp only [State.gddrPut, hdrop.2, beq_eq_false_iff_ne.mpr hdrop.1, Bool.or_self, Bool.false_eq_true, if_false, State.modMc_eq]
    have hput (u : State) (hu : ∃ xs, u = { s with xds := xs }) : ∃ xs n,
        (if (u.gddr.unitGen (a / 64) == s.slotGen (s.xtsSlot a)) = true
          then { u with gddr := { u.gddr with mem := u.gddr.mem.put a w } }
          else { u with
            freeCtr := u.freeCtr + 1
            gddr := ({ u.gddr with mem := (u.gddr.mem.spoil (a / 64 * 64) (a / 64 * 64 + 64) u.freeCtr).put a w } : Gddr).setUnit
              (a / 64) (s.slotGen (s.xtsSlot a)) }) =
          { s with xds := xs, freeCtr := n, gddr := s.gddr.putUnder (s.slotGen (s.xtsSlot a)) s.freeCtr a w } := by
      obtain ⟨xs, rfl⟩ := hu
      rw [Gddr.putUnder]
      split
      next h => exact ⟨_, _, rfl⟩
      next h => exact ⟨_, _, rfl⟩
    split
    · exact hput (s.setXd (gddrXd a) _) ⟨_, rfl⟩
    · exact hput s ⟨_, rfl⟩

theorem Gddr.putUnder_view (g : Gddr) (gen n : Nat) : (g.putUnder gen n a w).regions = g.regions ∧
    (g.putUnder gen n a w).slots = g.slots ∧ (g.putUnder gen n a w).stash = g.stash := by
  rw [Gddr.putUnder]
  split
  · exact ⟨rfl, rfl, rfl⟩
  · exact ⟨rfl, rfl, rfl⟩

theorem State.gddrPut_view : SameView s (s.gddrPut a w) := by
  obtain ⟨-, h⟩ | ⟨-, -, xs, n, h⟩ := s.gddrPut_cases a w
  · rw [h]; exact SameView.refl s
  · obtain ⟨hregions, hslots, hstash⟩ := Gddr.putUnder_view a w s.gddr (s.slotGen (s.xtsSlot a)) s.freeCtr
    rw [h]
    exact ⟨rfl, fun _ => rfl, hregions, hslots, hstash⟩

theorem State.gddrPut_tick : (s.gddrPut a w).tick = s.tick := congrArg Quiet.tick (s.gddrPut_quiet a w)

end

/-! ## One byte of the physical view -/

section
variable (s : State) (w : Wr)

theorem State.putByte_view : SameView s (s.putByte w) := by
  rw [State.putByte]
  cases place w.a with
  | gddr a => exact s.gddrPut_view a w
  | bed p o =>
    dsimp only
    split
    · exact SameView.setSite s p rfl
    · split
      · exact SameView.setSite s p rfl
      · exact SameView.refl s
  | core p c o => exact SameView.setCore s _ _
  | siteReg _ _ => exact SameView.refl s
  | xdReg _ _ => exact SameView.refl s
  | sys _ => exact SameView.refl s
  | none => exact SameView.refl s

theorem State.putByte_sp (j o : Nat) : ((s.putByte w).core j).sp.get o =
    if s.cell w.a = some (2, j, o) ∧ o < 0x400000 then w.over ((s.core j).sp.get o) else (s.core j).sp.get o := by
  rw [State.putByte, State.cell]
  cases place w.a with
  | gddr a =>
    rw [if_neg (by simp)]
    exact congrArg (fun c => Mem.get (Core.sp (sget (fun _ => Core.init) c j)) o) (s.gddrPut_cores a w)
  | bed p o' =>
    rw [if_neg (by simp)]
    dsimp only
    repeat' split
    all_goals rfl
  | core p c o' =>
    dsimp only
    rw [State.modCore_eq, State.core_setCore]
    by_cases hj : j = s.keyOf p c
    · rw [if_pos hj, Core.winPut_sp, hj]
      by_cases ho : o = o'
      · simp [ho]
      · rw [if_neg (fun h => ho h.1), if_neg (by simp [Ne.symm ho])]
    · rw [if_neg hj, if_neg (by simp [Ne.symm hj])]
  | siteReg _ _ => rw [if_neg (by simp)]
  | xdReg _ _ => rw [if_neg (by simp)]
  | sys _ => rw [if_neg (by simp)]
  | none => rw [if_neg (by simp)]

theorem State.putByte_bed (p o : Nat) : ((s.putByte w).site p).bed.get o =
    if s.cell w.a = some (1, p, o) ∧ s.isProtected o = false ∧ o < bedSize then w.over ((s.site p).bed.get o)
    else (s.site p).bed.get o := by
  rw [State.putByte, State.cell]
  cases place w.a with
  | gddr a =>
    rw [if_neg (by simp)]
    exact congrArg (fun c => Mem.get (Site.bed (sget (fun _ => Site.init) c p)) o) (s.gddrPut_sites a w)
  | bed p' o' =>
    dsimp only
    by_cases hprot : s.isProtected o' = true
    · rw [if_pos hprot, if_neg (by rintro ⟨h, hnot, -⟩; simp_all), State.modSite_eq,
        State.site_setSite]
      split
      next h => rw [h]
      · rfl
    · rw [if_neg hprot]
      by_cases hsize : o' < bedSize
      · rw [if_pos hsize, State.modSite_eq, State.site_setSite]
        by_cases hp : p = p'
        · rw [if_pos hp, hp]
          refine (Mem.get_put _ o' o w).trans ?_
          by_cases ho : o = o'
          · simp [ho, hsize, hprot]
          · rw [if_neg ho, if_neg (by simp [Ne.symm ho])]
        · rw [if_neg hp, if_neg (by simp [Ne.symm hp])]
      · rw [if_neg hsize, if_neg]
        rintro ⟨h, -, hlt⟩
        obtain ⟨-, rfl⟩ : p' = p ∧ o' = o := by simpa using h
        exact hsize hlt
  | core p' c o' => rw [if_neg (by simp)]; rfl
  | siteReg _ _ => rw [if_neg (by simp)]
  | xdReg _ _ => rw [if_neg (by simp)]
  | sys _ => rw [if_neg (by simp)]
  | none => rw [if_neg (by simp)]

/-- Only a write to GDDR7 changes it. -/
theorem State.putByte_gddr : (∃ a, s.cell w.a = some (0, 0, a) ∧ s.putByte w = s.gddrPut a w) ∨
    ((∀ a, s.cell w.a ≠ some (0, 0, a)) ∧ (s.putByte w).gddr = s.gddr) := by
  rw [State.putByte, State.cell]
  cases place w.a with
  | gddr a => exact .inl ⟨a, rfl, rfl⟩
  | bed p o =>
    refine .inr ⟨by simp, ?_⟩
    dsimp only
    repeat' split
    all_goals rfl
  | core p c o => exact .inr ⟨by simp, rfl⟩
  | siteReg _ _ => exact .inr ⟨by simp, rfl⟩
  | xdReg _ _ => exact .inr ⟨by simp, rfl⟩
  | sys _ => exact .inr ⟨by simp, rfl⟩
  | none => exact .inr ⟨by simp, rfl⟩

end

/-! ## A list of writes -/

section
variable {s : State} {ws : List Wr}

/-- What no write of the list touches stands. -/
theorem State.foldl_putByte_keeps {γ : Type} (g : State → γ)
    (hkeep : ∀ u, SameView s u → ∀ w ∈ ws, g (u.putByte w) = g u) : g (ws.foldl State.putByte s) = g s := by
  suffices h : ∀ (l : List Wr), (∀ w ∈ l, w ∈ ws) → ∀ u, SameView s u → g (l.foldl State.putByte u) = g u from
    h ws (fun _ hw => hw) s (SameView.refl s)
  intro l
  induction l with
  | nil => exact fun _ _ _ => rfl
  | cons w r ih =>
    intro hsub u hu
    exact (ih (fun v hv => hsub v (List.mem_cons_of_mem w hv)) _ (hu.trans (u.putByte_view w))).trans
      (hkeep u hu w (hsub w List.mem_cons_self))

/-- What one write of the list brings about, and no write undoes, holds in the end. -/
theorem State.foldl_putByte_sets {P : State → Prop} {w : Wr} (hw : w ∈ ws)
    (hset : ∀ u, SameView s u → P (u.putByte w))
    (hkeep : ∀ u, SameView s u → ∀ v ∈ ws, P u → P (u.putByte v)) : P (ws.foldl State.putByte s) := by
  suffices h : ∀ (l : List Wr), (∀ v ∈ l, v ∈ ws) → ∀ u, SameView s u → w ∈ l ∨ P u → P (l.foldl State.putByte u) from
    h ws (fun _ hv => hv) s (SameView.refl s) (.inl hw)
  intro l
  induction l with
  | nil =>
    rintro - u - (h | h)
    · cases h
    · exact h
  | cons v r ih =>
    intro hsub u hu hor
    refine ih (fun v' hv' => hsub v' (List.mem_cons_of_mem v hv')) _ (hu.trans (u.putByte_view v)) ?_
    rcases hor with hin | hP
    · rcases List.mem_cons.mp hin with rfl | hin
      · exact .inr (hset u hu)
      · exact .inl hin
    · exact .inr (hkeep u hu v (hsub v List.mem_cons_self) hP)

end

theorem SameView.cell {s u : State} (h : SameView s u) (a : Nat) : u.cell a = s.cell a := by
  rw [State.cell, State.cell]
  split
  · rfl
  · rfl
  · rw [h.keyOf]
  · rfl

/-! ## The end of a landing -/

/-- The bytes of the scratchpads, the beds and GDDR7 are the same. -/
structure SameBytes (s t : State) : Prop where
  sp : ∀ j, (t.core j).sp = (s.core j).sp
  bed : ∀ p, (t.site p).bed = (s.site p).bed
  gddr : t.gddr.mem = s.gddr.mem

theorem SameBytes.refl (s : State) : SameBytes s s := ⟨fun _ => rfl, fun _ => rfl, rfl⟩

theorem SameBytes.trans {s t u : State} (h : SameBytes s t) (h' : SameBytes t u) : SameBytes s u :=
  ⟨fun j => (h'.sp j).trans (h.sp j), fun p => (h'.bed p).trans (h.bed p), h'.gddr.trans h.gddr⟩

theorem SameBytes.setCore (s : State) (k : Nat) {c : Core} (hc : c.sp = (s.core k).sp) : SameBytes s (s.setCore k c) := by
  refine ⟨fun j => ?_, fun _ => rfl, rfl⟩
  rw [State.core_setCore]
  split
  next h => rw [h, hc]
  · rfl

theorem State.setPoison_bytes (s : State) (a : Nat) (v : Bool) : SameBytes s (s.setPoison a v) := by
  rw [State.setPoison]
  cases place a with
  | gddr a => exact ⟨fun _ => rfl, fun _ => rfl, rfl⟩
  | bed p o =>
    refine ⟨fun _ => rfl, fun q => ?_, rfl⟩
    dsimp only
    rw [State.modSite_eq, State.site_setSite]
    split
    next h => rw [h]
    · rfl
  | core p c o =>
    refine SameBytes.setCore s _ ?_
    repeat' split
    all_goals rfl
  | siteReg _ _ => exact SameBytes.refl s
  | xdReg _ _ => exact SameBytes.refl s
  | sys _ => exact SameBytes.refl s
  | none => exact SameBytes.refl s

theorem State.stashCount_bytes (s : State) (ws : List Wr) : SameBytes s (s.stashCount ws) := by
  simp only [State.stashCount]
  split
  · exact SameBytes.refl s
  · exact ⟨fun _ => rfl, fun _ => rfl, rfl⟩

theorem State.foldl_setPoison_bytes (l : List Nat) (s : State) :
    SameBytes s (l.foldl (fun s a => s.setPoison a false) s) := by
  induction l generalizing s with
  | nil => exact SameBytes.refl s
  | cons a r ih => exact (s.setPoison_bytes a false).trans (ih _)

/-- The bytes that a landing leaves are those its writes leave, one after the other. -/
theorem State.land_bytes (s : State) (ws : List Wr) :
    SameBytes ((ws.filter (fun w => !s.wrGone w)).foldl State.putByte s) (s.land ws) :=
  (State.foldl_setPoison_bytes _ _).trans (State.stashCount_bytes _ _)

/-! ## Landing (R27, R366, R377) -/

section
variable (s : State) (ws : List Wr)

theorem State.putBytes_sp_other {j o : Nat} (h : ∀ w ∈ ws, s.cell w.a ≠ some (2, j, o)) :
    ((ws.foldl State.putByte s).core j).sp.get o = (s.core j).sp.get o := by
  refine State.foldl_putByte_keeps (fun u => (u.core j).sp.get o) (fun u hu w hw => ?_)
  rw [State.putByte_sp, if_neg]
  rw [hu.cell]
  exact fun hcell => h w hw hcell.1

theorem State.putBytes_bed_other {p o : Nat} (h : ∀ w ∈ ws, s.cell w.a ≠ some (1, p, o)) :
    ((ws.foldl State.putByte s).site p).bed.get o = (s.site p).bed.get o := by
  refine State.foldl_putByte_keeps (fun u => (u.site p).bed.get o) (fun u hu w hw => ?_)
  rw [State.putByte_bed, if_neg]
  rw [hu.cell]
  exact fun hcell => h w hw hcell.1

theorem State.gddrPut_get_unit (u : State) (b : Nat) (w : Wr) {a : Nat} (h : b / 64 ≠ a / 64) :
    (u.gddrPut b w).gddr.mem.get a = u.gddr.mem.get a := by
  obtain ⟨-, hput⟩ | ⟨-, -, xs, n, hput⟩ := u.gddrPut_cases b w
  · rw [hput]
  · rw [hput]
    exact Gddr.putUnder_get_unit _ _ _ b w (Ne.symm h)

theorem State.putBytes_gddr_other {a : Nat} (h : ∀ w ∈ ws, ∀ b, s.cell w.a = some (0, 0, b) → b / 64 ≠ a / 64) :
    (ws.foldl State.putByte s).gddr.mem.get a = s.gddr.mem.get a := by
  refine State.foldl_putByte_keeps (fun u => u.gddr.mem.get a) (fun u hu w hw => ?_)
  obtain ⟨b, hcell, hput⟩ | ⟨-, hgddr⟩ := u.putByte_gddr w
  · rw [hput]
    exact u.gddrPut_get_unit b w (h w hw b ((hu.cell w.a).symm.trans hcell))
  · rw [hgddr]

variable {s ws} {w : Wr} (hw : w ∈ ws) (hmask : w.mask = 0xFF) (honce : ∀ v ∈ ws, s.cell v.a = s.cell w.a → v = w)
include hw hmask honce

theorem State.putBytes_sp_named {j o : Nat} (hcell : s.cell w.a = some (2, j, o)) (ho : o < 0x400000) :
    ((ws.foldl State.putByte s).core j).sp.get o = w.b := by
  have hset (u : State) (hu : SameView s u) : ((u.putByte w).core j).sp.get o = w.b := by
    rw [State.putByte_sp, if_pos ⟨(hu.cell w.a).trans hcell, ho⟩, Wr.over_whole hmask]
  refine State.foldl_putByte_sets (P := fun u => (u.core j).sp.get o = w.b) hw hset (fun u hu v hv hP => ?_)
  by_cases hsame : s.cell v.a = s.cell w.a
  · rw [honce v hv hsame]; exact hset u hu
  · rw [State.putByte_sp, if_neg (fun h => hsame (((hu.cell v.a).symm.trans h.1).trans hcell.symm)), hP]

theorem State.putBytes_bed_named {p o : Nat} (hcell : s.cell w.a = some (1, p, o)) (ho : o < bedSize)
    (hprot : s.isProtected o = false) : ((ws.foldl State.putByte s).site p).bed.get o = w.b := by
  have hset (u : State) (hu : SameView s u) : ((u.putByte w).site p).bed.get o = w.b := by
    rw [State.putByte_bed, if_pos ⟨(hu.cell w.a).trans hcell, (hu.isProtected o).trans hprot, ho⟩, Wr.over_whole hmask]
  refine State.foldl_putByte_sets (P := fun u => (u.site p).bed.get o = w.b) hw hset (fun u hu v hv hP => ?_)
  by_cases hsame : s.cell v.a = s.cell w.a
  · rw [honce v hv hsame]; exact hset u hu
  · rw [State.putByte_bed, if_neg (fun h => hsame (((hu.cell v.a).symm.trans h.1).trans hcell.symm)), hP]

/-- A byte written to GDDR7 stands: later writes to its unit go under the same key, so that the unit is not lost again. -/
theorem State.putBytes_gddr_named {a : Nat} (hcell : s.cell w.a = some (0, 0, a)) (hkey : s.slotGen (s.xtsSlot a) ≠ 0)
    (hmeta : s.stashMeta a = false)
    (hunit : ∀ v ∈ ws, ∀ b, s.cell v.a = some (0, 0, b) → b / 64 = a / 64 → s.xtsSlot b = s.xtsSlot a) :
    (ws.foldl State.putByte s).gddr.mem.get a = w.b := by
  let P (u : State) : Prop := u.gddr.mem.get a = w.b ∧ u.gddr.unitGen (a / 64) = s.slotGen (s.xtsSlot a)
  have hgen (u : State) (hu : SameView s u) (b : Nat) : u.slotGen (u.xtsSlot b) = s.slotGen (s.xtsSlot b) := by
    rw [hu.slotGen, hu.xtsSlot]
  have hset (u : State) (hu : SameView s u) : P (u.putByte w) := by
    obtain ⟨b, hb, hput⟩ | ⟨hno, -⟩ := u.putByte_gddr w
    · obtain rfl : b = a := by simpa using (hb.symm.trans (hu.cell w.a)).trans hcell
      obtain ⟨hdrop, -⟩ | ⟨-, -, xs, n, hgddr⟩ := u.gddrPut_cases b w
      · rw [hgen u hu, hu.stashMeta, hmeta] at hdrop
        exact absurd hdrop (by simp [hkey])
      · rw [hput, hgddr]
        exact ⟨Gddr.putUnder_get_same _ _ _ b w hmask, (Gddr.putUnder_unitGen _ _ _ b w).trans (hgen u hu b)⟩
    · exact absurd ((hu.cell w.a).trans hcell) (hno a)
  refine (State.foldl_putByte_sets (P := P) hw hset (fun u hu v hv hP => ?_)).1
  by_cases hsame : s.cell v.a = s.cell w.a
  · rw [honce v hv hsame]; exact hset u hu
  · obtain ⟨b, hb, hput⟩ | ⟨-, hgddr⟩ := u.putByte_gddr v
    · have hbs : s.cell v.a = some (0, 0, b) := (hu.cell v.a).symm.trans hb
      have hne : a ≠ b := by
        rintro rfl
        exact hsame (hbs.trans hcell.symm)
      obtain ⟨-, hgddr⟩ | ⟨-, -, xs, n, hgddr⟩ := u.gddrPut_cases b v
      · rw [hput, hgddr]; exact hP
      · rw [hput, hgddr]
        obtain ⟨hbyte, hold⟩ := hP
        by_cases hub : b / 64 = a / 64
        · have hslot : u.slotGen (u.xtsSlot b) = s.slotGen (s.xtsSlot a) := by
            rw [hgen u hu, hunit v hv b hbs hub]
          refine ⟨(Gddr.putUnder_get_key _ _ _ b v hne (by rw [hub, hold, hslot])).trans hbyte, ?_⟩
          rw [← hub]
          exact (Gddr.putUnder_unitGen _ _ _ b v).trans hslot
        · exact ⟨(Gddr.putUnder_get_unit _ _ _ b v (Ne.symm hub)).trans hbyte,
            (Gddr.putUnder_unitGen_other _ _ _ b v (Ne.symm hub)).trans hold⟩
    · rw [show P (u.putByte v) = P u by simp only [P, hgddr]]
      exact hP

end

/-- Equal bytes have landed alike. -/
theorem Landed.of_bytes {ws : List Wr} {s t u : State} (h : Landed ws s t) (hb : SameBytes t u) : Landed ws s u := by
  obtain ⟨hsp, hbed, hgddr, hnamed⟩ := h
  refine ⟨fun j o ho => ?_, fun p o ho => ?_, fun a ha => ?_, fun w hw hmask hgone honce => ?_⟩
  · rw [hb.sp]; exact hsp j o ho
  · rw [hb.bed]; exact hbed p o ho
  · rw [hb.gddr]; exact hgddr a ha
  · obtain ⟨hsp', hbed', hgddr'⟩ := hnamed w hw hmask hgone honce
    refine ⟨fun j o hc ho => ?_, fun p o hc ho hp => ?_, fun a hc hk hm hu => ?_⟩
    · rw [hb.sp]; exact hsp' j o hc ho
    · rw [hb.bed]; exact hbed' p o hc ho hp
    · rw [hb.gddr]; exact hgddr' a hc hk hm hu

/-- Landing writes leaves the memories as `Landed` says. -/
theorem State.land_landed (s : State) (ws : List Wr) : Landed ws s (s.land ws) := by
  refine Landed.of_bytes ?_ (s.land_bytes ws)
  have hin {w : Wr} (hw : w ∈ ws.filter (fun w => !s.wrGone w)) : w ∈ ws := (List.mem_filter.mp hw).1
  refine ⟨fun j o h => s.putBytes_sp_other _ (fun w hw => h w (hin hw)),
    fun p o h => s.putBytes_bed_other _ (fun w hw => h w (hin hw)),
    fun a h => s.putBytes_gddr_other _ (fun w hw => h w (hin hw)), fun w hw hmask hgone honce => ?_⟩
  have hlive : w ∈ ws.filter (fun w => !s.wrGone w) := List.mem_filter.mpr ⟨hw, by rw [hgone]; rfl⟩
  have honce' : ∀ v ∈ ws.filter (fun w => !s.wrGone w), s.cell v.a = s.cell w.a → v = w := fun v hv => honce v (hin hv)
  exact ⟨fun j o hc ho => State.putBytes_sp_named hlive hmask honce' hc ho,
    fun p o hc ho hp => State.putBytes_bed_named hlive hmask honce' hc ho hp,
    fun a hc hk hm hu => State.putBytes_gddr_named hlive hmask honce' hc hk hm (fun v hv => hu v (hin hv))⟩

end Sys2Proof.Machine
end

section
/-! SP.XFER issues its transfers, and the oldest transfer of a context lands (07 R197–R201, R220). -/

namespace Sys2Proof.Machine

/-! ## What landing leaves of the cores -/

/-- A core but for its scratchpad. -/
def Core.bare (c : Core) : Core := { c with sp := Mem.zero, spPoison := [] }

theorem Core.of_bare {c d : Core} (h : c.bare = d.bare) : c.cc = d.cc ∧ c.me = d.me ∧ c.se = d.se := by
  have hcc := congrArg Core.cc h
  have hme := congrArg Core.me h
  have hse := congrArg Core.se h
  exact ⟨hcc, hme, hse⟩

/-- What neither the byte writes, nor the poison marks that they clear, nor the stash counters change, a landing keeps. -/
theorem State.land_keeps {γ : Type} (g : State → γ) (s : State) (ws : List Wr)
    (hbyte : ∀ u : State, ∀ w ∈ ws, g (u.putByte w) = g u)
    (hpoison : ∀ u : State, ∀ w ∈ ws, g (u.setPoison w.a false) = g u)
    (hgddr : ∀ (u : State) x, g { u with gddr := x } = g u) : g (s.land ws) = g s := by
  have hin {w : Wr} (hw : w ∈ ws.filter (fun w => !s.wrGone w)) : w ∈ ws := (List.mem_filter.mp hw).1
  have hcount (u : State) (vs : List Wr) : g (u.stashCount vs) = g u := by
    simp only [State.stashCount]
    split
    · rfl
    · exact hgddr u _
  have hwhole : ∀ a ∈ (wholeWords (ws.filter (fun w => !s.wrGone w))).filter (fun a =>
      !((ws.filter (fun w => !s.wrGone w)).foldl State.putByte s).inProtected a), ∃ w ∈ ws, w.a = a := by
    intro a ha
    simp only [wholeWords, List.mem_filter, List.mem_map] at ha
    obtain ⟨⟨⟨⟨w, ⟨hw, -⟩, hwa⟩, -⟩, -⟩, -⟩ := ha
    exact ⟨w, hw, hwa⟩
  refine (hcount _ _).trans ((foldl_keeps _ g _ _ (fun u a ha => ?_)).trans
    (foldl_keeps _ g _ _ (fun u w hw => hbyte u w (hin hw))))
  obtain ⟨w, hw, rfl⟩ := hwhole a ha
  exact hpoison u w hw

theorem Core.bare_winPut {c : Core} {o : Nat} (ho : o < 0x400000) (w : Wr) : (c.winPut o w).bare = c.bare := by
  rw [Core.winPut, if_pos ho]; rfl

/-- A change of one core that its bare part does not show. -/
theorem State.bare_setCore {s : State} {k : Nat} {c : Core} (hc : c.bare = (s.core k).bare) (j : Nat) :
    ((s.setCore k c).core j).bare = (s.core j).bare := by
  rw [State.core_setCore]
  split
  next h => rw [h, hc]
  · rfl

section
variable {w : Wr} (hsp : ∀ p c o, place w.a = .core p c o → o < 0x400000)
include hsp

theorem State.putByte_bare (s : State) (j : Nat) : ((s.putByte w).core j).bare = (s.core j).bare := by
  rw [State.putByte]
  cases hpl : place w.a with
  | gddr a => exact congrArg (fun c => Core.bare (sget (fun _ => Core.init) c j)) (s.gddrPut_cores a w)
  | bed p o =>
    dsimp only
    repeat' split
    all_goals rfl
  | core p c o => exact State.bare_setCore (Core.bare_winPut (hsp p c o hpl) w) j
  | siteReg _ _ => rfl
  | xdReg _ _ => rfl
  | sys _ => rfl
  | none => rfl

theorem State.setPoison_bare (s : State) (v : Bool) (j : Nat) : ((s.setPoison w.a v).core j).bare = (s.core j).bare := by
  rw [State.setPoison]
  cases hpl : place w.a with
  | gddr a => rfl
  | bed p o => rfl
  | core p c o =>
    refine State.bare_setCore ?_ j
    dsimp only
    rw [if_pos (hsp p c o hpl)]; rfl
  | siteReg _ _ => rfl
  | xdReg _ _ => rfl
  | sys _ => rfl
  | none => rfl

end

theorem State.putByte_tick (s : State) (w : Wr) : (s.putByte w).tick = s.tick := by
  rw [State.putByte]
  cases place w.a with
  | gddr a => exact s.gddrPut_tick a w
  | bed p o =>
    dsimp only
    repeat' split
    all_goals rfl
  | core p c o => rfl
  | siteReg _ _ => rfl
  | xdReg _ _ => rfl
  | sys _ => rfl
  | none => rfl

theorem State.setPoison_tick (s : State) (a : Nat) (v : Bool) : (s.setPoison a v).tick = s.tick := by
  rw [State.setPoison]
  cases place a with
  | _ => rfl

theorem State.land_tick (s : State) (ws : List Wr) : (s.land ws).tick = s.tick :=
  s.land_keeps State.tick ws (fun u w _ => u.putByte_tick w) (fun u w _ => u.setPoison_tick w.a false) (fun _ _ => rfl)

/-- Writes that reach no more of a core than its scratchpad leave the rest of the cores alone. -/
theorem State.land_bare (s : State) {ws : List Wr} (hsp : ∀ w ∈ ws, ∀ i o, s.cell w.a = some (2, i, o) → o < 0x400000)
    (j : Nat) : ((s.land ws).core j).bare = (s.core j).bare := by
  have hplace : ∀ w ∈ ws, ∀ p c o, place w.a = .core p c o → o < 0x400000 := fun w hw p c o hpl =>
    hsp w hw (s.keyOf p c) o (by rw [State.cell, hpl])
  exact s.land_keeps (fun u => (u.core j).bare) ws (fun u w hw => State.putByte_bare (hplace w hw) u j)
    (fun u w hw => State.setPoison_bare (hplace w hw) u false j) (fun _ _ => rfl)

/-! ## Every context issues what it may (R201) -/

/-- The engine `e'` is `e` with some transfers issued. -/
structure IssuedFrom (e e' : Se) : Prop where
  engine : { e' with ctxs := e.ctxs } = e
  transfers : ∀ y, (e'.ctx y).inflight ++ (e'.ctx y).toIssue = (e.ctx y).inflight ++ (e.ctx y).toIssue
  ending : ∀ y, (e'.ctx y).ending = (e.ctx y).ending

theorem IssuedFrom.trans {e e' e'' : Se} (h : IssuedFrom e e') (h' : IssuedFrom e' e'') : IssuedFrom e e'' := by
  refine ⟨?_, fun y => (h'.transfers y).trans (h.transfers y), fun y => (h'.ending y).trans (h.ending y)⟩
  calc ({ e'' with ctxs := e.ctxs } : Se) = { ({ e'' with ctxs := e'.ctxs } : Se) with ctxs := e.ctxs } := rfl
    _ = { e' with ctxs := e.ctxs } := by rw [h'.engine]
    _ = e := h.engine

theorem Se.issue_of (e : Se) (total x : Nat) : IssuedFrom e (e.issue total x) := by
  rw [Se.issue_eq]
  split
  · exact ⟨rfl, fun _ => rfl, fun _ => rfl⟩
  · have hctx (y : Nat) : Se.ctx { e with
        ctxs := sset (fun _ => SeCtx.init) e.ctxs x ((e.ctx x).issue (e.slotsFor total x)) } y =
          if y = x then (e.ctx x).issue (e.slotsFor total x) else e.ctx y := sget_sset _ _ x y _
    refine ⟨rfl, fun y => ?_, fun y => ?_⟩
    · rw [hctx]
      split
      next h => rw [h]; exact (e.ctx x).issue_transfers _
      · rfl
    · rw [hctx]
      split
      next h =>
        have hkeep := congrArg SeCtx.ending ((e.ctx x).issue_keeps (e.slotsFor total x))
        rw [h]
        exact hkeep
      · rfl

theorem Se.issueAll_of (e : Se) (total : Nat) : IssuedFrom e (e.issueAll total) := by
  suffices h : ∀ (l : List Nat) (e : Se), IssuedFrom e (l.foldl (fun e x => e.issue total x) e) from h _ e
  intro l
  induction l with
  | nil => exact fun _ => ⟨rfl, fun _ => rfl, fun _ => rfl⟩
  | cons x r ih => exact fun e => (e.issue_of total x).trans (ih _)

/-! ## TRANSFER_COMPLETE -/

theorem State.protBusy_of_sites {s t : State} (h : t.sites = s.sites) (ws : List Wr) : t.protBusy ws = s.protBusy ws := by
  simp only [State.protBusy, State.site, h]

/-- The state once the bytes of a transfer of context `x` are in place, and its numeric status. -/
def State.xferLands (s : State) (k x : Nat) (f : Xfer) : State :=
  (s.land f.writes).numStat k ((s.core k).se.ctx x).tag ((((s.core k).se.ctx x).q.map QEntry.order).getD 0) f.nan f.inf f.sat

/-- The numeric status that the transfer leaves (02 R65). -/
def State.xferStat (s : State) (k x : Nat) (f : Xfer) : NumStat :=
  (s.core k).cc.numStat.set ((s.core k).se.ctx x).tag ((((s.core k).se.ctx x).q.map QEntry.order).getD 0) s.tick f.nan f.inf f.sat

section
variable {s : State} {k x : Nat} {f : Xfer} {rest : List Xfer} (hfly : ((s.core k).se.ctx x).inflight = f :: rest)
  (hland : f.landed = false) (hpoison : f.poison = false) (hlost : f.lost = false) (hseal : f.sealedOut = false)
  (hsrcs : ∀ p ∈ f.srcs, s.present p = true) (hgone : ∀ w ∈ f.writes, s.wrGone w = false)
  (halone : ∀ w ∈ f.writes, w.meets (s.othersOnWay (.se k x)) = false)
include hfly hland hpoison hlost hseal hsrcs hgone halone

/-- A transfer that met nothing lands; it stays in its slot while a protected block of it waits for parity, and else leaves it,
and every context issues what it may. -/
theorem State.xferDone_clean : s.xferDone k x = if (s.xferLands k x f).protBusy f.writes
    then (s.xferLands k x f).modSeCtx k x (fun c => { c with inflight := { f with landed := true } :: rest })
    else ((((s.xferLands k x f).modSeCtx k x (fun c => { c with inflight := rest })).modSe k (fun e => { e with
      xferCnt := e.xferCnt + 1 })).modSe k (fun e => e.issueAll (s.xferLands k x f).pwr.slots)).drainCtx k x := by
  have hblind : f.srcs.any (fun p => !s.present p) = false := by
    simpa [List.any_eq_false] using hsrcs
  have hnone : f.writes.any s.wrGone = false := by
    simpa [List.any_eq_false] using hgone
  have hf : ({ f with lost := false, writes := f.writes } : Xfer) = f := by rw [← hlost]
  simp only [State.xferDone, hfly, hland, hblind, hnone, hlost, Bool.or_self, Bool.false_eq_true, if_false, hpoison, hseal,
    State.landStream_alone s _ _ halone]
  rfl

end

section
variable (s : State) (k x : Nat) (f : Xfer)

/-- The state once the bytes of the transfer are in place and the engine of its core is `e`. -/
def State.xferSets (e : Se) : State := (s.xferLands k x f).setCore k { (s.xferLands k x f).core k with se := e }

theorem State.xferLands_bare (hsp : ∀ w ∈ f.writes, ∀ i o, s.cell w.a = some (2, i, o) → o < 0x400000) (j : Nat) :
    ((s.xferLands k x f).core j).bare = if j = k
      then ({ s.core k with cc := { (s.core k).cc with numStat := s.xferStat k x f } } : Core).bare else (s.core j).bare := by
  have hbare := s.land_bare hsp
  have hcc : ((s.land f.writes).core k).cc = (s.core k).cc := (Core.of_bare (hbare k)).1
  rw [State.xferLands, State.numStat, State.modCc_eq, State.core_setCore, hcc, s.land_tick]
  split
  · exact congrArg (fun c : Core => { c with cc := { (s.core k).cc with numStat := s.xferStat k x f } }) (hbare k)
  · exact hbare j

/-- Writes that reach no more of a core than its scratchpad: the bytes are in place, and of the rest of the cores only the numeric
status and the engine `e` are new. -/
theorem State.xferSets_leaves (e : Se) (hsp : ∀ w ∈ f.writes, ∀ i o, s.cell w.a = some (2, i, o) → o < 0x400000) :
    let t := s.xferSets k x f e
    Landed f.writes s t ∧ (t.core k).cc = { (s.core k).cc with numStat := s.xferStat k x f } ∧
      (∀ j, (t.core j).me = (s.core j).me) ∧ (t.core k).se = e ∧
      t.protBusy f.writes = (s.xferLands k x f).protBusy f.writes := by
  intro t
  have hcore (j : Nat) : t.core j = if j = k then { (s.xferLands k x f).core k with se := e }
      else (s.xferLands k x f).core j := State.core_setCore _ k j _
  have hk := hcore k
  rw [if_pos rfl] at hk
  have hbare := s.xferLands_bare k x f hsp
  have hbarek := hbare k
  rw [if_pos rfl] at hbarek
  obtain ⟨hcc, hmek, -⟩ := Core.of_bare hbarek
  have hbytes : SameBytes (s.land f.writes) (s.xferLands k x f) := SameBytes.setCore _ k rfl
  refine ⟨Landed.of_bytes (s.land_landed f.writes) (hbytes.trans (SameBytes.setCore _ k rfl)), ?_, fun j => ?_, ?_,
    State.protBusy_of_sites rfl f.writes⟩
  · rw [hk]; exact hcc
  · rw [hcore]
    split
    next hj => rw [hj]; exact hmek
    next hj =>
      have h := hbare j
      rw [if_neg hj] at h
      exact (Core.of_bare h).2.1
  · rw [hk]

end

/-- The engine while the oldest transfer `f`, landed, stays in its slot, with `rest` behind it. -/
def Se.xferStays (e : Se) (x : Nat) (f : Xfer) (rest : List Xfer) : Se :=
  { e with ctxs := sset (fun _ => SeCtx.init) e.ctxs x { e.ctx x with inflight := { f with landed := true } :: rest } }

theorem Se.xferStays_ctx (e : Se) (x : Nat) (f : Xfer) (rest : List Xfer) :
    (e.xferStays x f rest).ctx x = { e.ctx x with inflight := { f with landed := true } :: rest } :=
  (sget_sset _ _ x x _).trans (if_pos rfl)

/-- The engine once the oldest transfer has left its slot, leaving `rest`, and every context has issued what it may. -/
def Se.xferLeaves (e : Se) (x : Nat) (rest : List Xfer) (total : Nat) : Se :=
  ({ e with
    ctxs := sset (fun _ => SeCtx.init) e.ctxs x { e.ctx x with inflight := rest }
    xferCnt := e.xferCnt + 1 } : Se).issueAll total

theorem Se.xferLeaves_spec (e : Se) (x : Nat) (rest : List Xfer) (total : Nat) :
    (e.xferLeaves x rest total).xferCnt = e.xferCnt + 1 ∧ (e.xferLeaves x rest total).hqs = e.hqs ∧
    ((e.xferLeaves x rest total).ctx x).inflight ++ ((e.xferLeaves x rest total).ctx x).toIssue = rest ++ (e.ctx x).toIssue ∧
    ((e.xferLeaves x rest total).ctx x).ending = (e.ctx x).ending := by
  have hctx : Se.ctx { e with
      ctxs := sset (fun _ => SeCtx.init) e.ctxs x { e.ctx x with inflight := rest }
      xferCnt := e.xferCnt + 1 } x = { e.ctx x with inflight := rest } := (sget_sset _ _ x x _).trans (if_pos rfl)
  obtain ⟨hengine, htransfers, hending⟩ := Se.issueAll_of { e with
    ctxs := sset (fun _ => SeCtx.init) e.ctxs x { e.ctx x with inflight := rest }
    xferCnt := e.xferCnt + 1 } total
  have hcount := congrArg Se.xferCnt hengine
  have hqueues := congrArg Se.hqs hengine
  refine ⟨hcount, hqueues, (htransfers x).trans ?_, (hending x).trans ?_⟩
  · rw [hctx]
  · rw [hctx]

theorem State.se_setCore (s : State) (k : Nat) (e : Se) : ((s.setCore k { s.core k with se := e }).core k).se = e := by
  rw [State.core_setCore, if_pos rfl]

theorem State.modSe_modSe (s : State) (k : Nat) (f g : Se → Se) : (s.modSe k f).modSe k g = s.modSe k (fun e => g (f e)) := by
  simp only [State.modSe_eq, State.core_setCore, if_true, State.setCore_setCore]

/-- The transfer leaves its slot, and a context that is not to end goes on. -/
theorem State.xferLeaves_eq (u : State) (k x : Nat) (rest : List Xfer) (total : Nat)
    (hend : ((u.core k).se.ctx x).ending = false) :
    (((u.modSeCtx k x (fun c => { c with inflight := rest })).modSe k (fun e => { e with
      xferCnt := e.xferCnt + 1 })).modSe k (fun e => e.issueAll total)).drainCtx k x =
      u.setCore k { u.core k with se := (u.core k).se.xferLeaves x rest total } := by
  have hset : ((u.modSeCtx k x (fun c => { c with inflight := rest })).modSe k (fun e => { e with
      xferCnt := e.xferCnt + 1 })).modSe k (fun e => e.issueAll total) =
      u.setCore k { u.core k with se := (u.core k).se.xferLeaves x rest total } := by
    rw [State.modSeCtx, State.modSe_modSe, State.modSe_modSe]
    rfl
  obtain ⟨-, -, -, hending⟩ := (u.core k).se.xferLeaves_spec x rest total
  have hstay : (((u.setCore k { u.core k with se := (u.core k).se.xferLeaves x rest total }).core k).se.ctx x).ending = false := by
    rw [State.se_setCore, hending, hend]
  rw [hset, State.drainCtx_not_ending _ k x hstay]

section
variable {s : State} {k x : Nat} {f : Xfer} {rest : List Xfer} (hfly : ((s.core k).se.ctx x).inflight = f :: rest)
  (hland : f.landed = false) (hpoison : f.poison = false) (hlost : f.lost = false) (hseal : f.sealedOut = false)
  (hend : ((s.core k).se.ctx x).ending = false)
  (hsp : ∀ w ∈ f.writes, ∀ i o, s.cell w.a = some (2, i, o) → o < 0x400000)
  (hsrcs : ∀ p ∈ f.srcs, s.present p = true) (hgone : ∀ w ∈ f.writes, s.wrGone w = false)
  (halone : ∀ w ∈ f.writes, w.meets (s.othersOnWay (.se k x)) = false)
include hfly hland hpoison hlost hseal hend hsp hsrcs hgone halone

/-- The transfer lands; with a protected block of it waiting for parity it stays, and else it leaves its slot. -/
theorem State.xferDone_eq : ∃ total, s.xferDone k x = s.xferSets k x f
    (if (s.xferLands k x f).protBusy f.writes then (s.core k).se.xferStays x f rest
      else (s.core k).se.xferLeaves x rest total) := by
  have hbare := s.xferLands_bare k x f hsp k
  rw [if_pos rfl] at hbare
  obtain ⟨-, -, hse⟩ := Core.of_bare hbare
  have hse' : ((s.xferLands k x f).core k).se = (s.core k).se := hse
  refine ⟨(s.xferLands k x f).pwr.slots, (State.xferDone_clean hfly hland hpoison hlost hseal hsrcs hgone halone).trans ?_⟩
  split
  · rw [State.xferSets, ← hse']; rfl
  · rw [State.xferLeaves_eq _ k x rest _ (by rw [hse']; exact hend), hse']; rfl

end

/-! ## SP.XFER -/

section
variable {s : State} {l : SiteNo} {c : CoreNo} {x : BitVec 3} {k : Nat} {w : DWord}

theorem exec_spXfer_at (hk : s.key l c = some k) (hat : AtInstr s k x.toNat w) (hop : spOp w = 0x3) (credit : Bool) :
    exec (.spXfer l c x ⟨credit, []⟩) s = .next (State.spXfer credit [] k x.toNat w s) :=
  congrArg Host.Outcome.next (State.spRun_at hk hat hop)

theorem runIns_ne_nil (fs : List Fetched) : runIns fs ≠ [] := by simp [runIns]

/-- SP.XFER on two valid descriptors, used as they stand, makes at least one transfer and hands them to its context. -/
theorem State.spXfer_moves (credit : Bool) {x : Nat} {a b : RDesc} {p : SProg} (hsrc : xSrcRel w = false) (hdst : xDstRel w = false)
    (hpair : resolvePair (fun i => (((s.core k).se.ctx x).held.find? (fun h => h.1 == i)).map Prod.snd) false (xSrc w) (xDst w) =
      some (a, b)) (hprog : ((s.core k).se.ctx x).prog = some p) :
    ∃ mv group, mv.runs ≠ [] ∧ State.spXfer credit [] k x w s = s.issueMove k x mv group credit := by
  have hrel (held : List HeldBuf) (t : Desc) : s.relOffset k x false held t = some 0 := rfl
  simp only [State.spXfer, hpair, hsrc, hdst, hrel, hprog, State.eccHits, List.foldl_nil]
  exact ⟨_, _, runIns_ne_nil _, rfl⟩

end

/-- What a program's context shows once it is handed transfers (R201, R227). -/
theorem Handed.shows {ts : List Xfer} {credit : Bool} {c c' : SeCtx} (h : Handed ts credit c c') (hts : ts ≠ [])
    (hprog : c.prog.isSome = true) :
    (credit = true → c'.toIssue = [] → c'.pc = c.pc + 1 ∧ c'.waitKind = 0) ∧
    (credit = true → c'.toIssue ≠ [] → c'.pc = c.pc ∧ c'.waitKind = 5) ∧
    (credit = false → c'.pc = c.pc ∧ c'.waitKind = 7 ∧ c'.inflight = c.inflight) := by
  rw [Handed] at h
  cases credit with
  | true =>
    rw [if_pos ⟨rfl, by simp [hts]⟩] at h
    obtain ⟨n, rfl⟩ := h
    exact ⟨fun _ hall => (c.toGive ts true).issue_all n hall hprog, fun _ hsome => (c.toGive ts true).issue_some n hsome,
      fun hno => absurd hno (by decide)⟩
  | false =>
    rw [if_neg (fun hyes => absurd hyes.1 (by decide))] at h
    rw [h]
    exact ⟨fun hno => absurd hno (by decide), fun hno => absurd hno (by decide), fun _ => ⟨rfl, rfl, rfl⟩⟩

/-! ## The obligation -/

/-- Settles O18: SP.XFER hands its transfers over (`State.issueMove_handsOver`), and a transfer that lands puts its bytes in place
(`State.land_landed`) and then waits for parity or leaves its slot (`State.xferDone_clean`). -/
theorem spTransfers : Obligations.SpTransfers := by
  unfold Obligations.SpTransfers
  refine ⟨?_, ?_⟩
  · intro l c x s k w a b credit hk hat hop hsrc hdst hpair old
    obtain ⟨-, -, -, -, hissue, p, hprog, -⟩ := id hat
    obtain ⟨mv, group, hruns, hgo⟩ := State.spXfer_moves credit hsrc hdst hpair hprog
    have hgiven := s.issueMove_handsOver k x.toNat mv group credit
    have hcore := hgiven.core k
    rw [if_pos rfl] at hcore
    obtain ⟨hall, hsome, hdry⟩ := hgiven.ctx.shows (s.moveXfers_ne_nil k group hruns) (by rw [hprog]; rfl)
    have htransfers := hgiven.ctx.transfers
    rw [hissue, List.nil_append] at htransfers
    have hhqs := congrArg Se.hqs hgiven.engine
    exact ⟨_, (exec_spXfer_at hk hat hop credit).trans (congrArg _ hgo), fun j hj => by rw [hgiven.core, if_neg hj],
      (congrArg Core.sp hcore).trans rfl, (congrArg Core.me hcore).trans rfl, (congrArg Core.cc hcore).trans rfl, hhqs,
      hgiven.others, hall, hsome, hdry, _, s.moveXfers_ne_nil k group hruns, htransfers, s.moveXfers_landed k mv group⟩
  · intro l c x s k f rest hk hfly hland hpoison hlost hseal hend hsp hsrcs hgone halone
    have hexec : exec (.transferComplete l c x) s = .next (s.xferDone k x.toNat) := by
      show execTransferComplete l c x s = _
      rw [execTransferComplete, hk]
    obtain ⟨total, hdone⟩ := State.xferDone_eq hfly hland hpoison hlost hseal hend hsp hsrcs hgone halone
    obtain ⟨hlanded, hcc, hme, hse, hprot⟩ := s.xferSets_leaves k x.toNat f _ hsp
    refine ⟨_, hexec.trans (congrArg _ hdone), hlanded, hcc, hme, ?_⟩
    rw [hse, hprot]
    by_cases hbusy : (s.xferLands k x.toNat f).protBusy f.writes = true
    · rw [if_pos hbusy]
      refine ⟨rfl, fun _ => ⟨?_, rfl⟩, fun hfree => absurd hbusy (by rw [hfree]; decide)⟩
      rw [Se.xferStays_ctx]
    · rw [if_neg hbusy]
      obtain ⟨hcount, hhqs, htransfers, -⟩ := (s.core k).se.xferLeaves_spec x.toNat rest total
      exact ⟨hhqs, fun hwait => absurd hwait hbusy, fun _ => ⟨hcount, htransfers⟩⟩

end Sys2Proof.Machine
end
